-- ==== Sys2Proof/Word.lean ====
section
/-! DEFINITION. The words of the DRV-CQ9460 and their plainest arithmetic (R12: bit 0 least significant). -/

namespace Sys2Proof

/-- A byte of memory. -/
abbrev Byte := BitVec 8
/-- A 32-bit lane, syllable or matrix element. -/
abbrev Half := BitVec 32
/-- A 64-bit scalar or predicate. -/
abbrev Word := BitVec 64
/-- The 256 bytes of a vector register, a scratchpad line or a weight-buffer line. -/
abbrev Line := BitVec 2048
/-- The 512 bytes of an accumulator row. -/
abbrev Row := BitVec 4096

/-- All bits of a predicate alike (R28). -/
def Word.ofBool (b : Bool) : Word := if b then BitVec.allOnes 64 else 0

/-- A scalar register s0 to s63 (R27, R50). -/
abbrev SReg := Fin 64
/-- A logical vector register v0 to v63 (R27, R29). -/
abbrev VReg := Fin 64
/-- A logical predicate p0 to p31 (R27, R29). -/
abbrev PReg := Fin 32
/-- A staging ring h0 to h15 (R27). -/
abbrev RingId := Fin 16
/-- An accumulator tile a0 to a7 (R27). -/
abbrev TileId := Fin 8
/-- A weight buffer w0 or w1 (R27). -/
abbrev BufId := Fin 2
/-- A copy tag (R223). -/
abbrev TagId := Fin 64
/-- The even scalar of a CP syllable: k names the pair s(2k), s(2k+1) (R50, R57). -/
abbrev SPair := Fin 32
/-- The even source of VQMX: k names v(2k) and v(2k+1) (R146). -/
abbrev VPair := Fin 32
/-- A core, counted as the lifetime record counts them: 96 to a die, 8 to a site (R344). -/
abbrev CoreId := Fin 384
/-- A pseudo-channel of the package: 256 to a stack (R4). -/
abbrev ChanId := Fin 3072
/-- A master port: 0 host, 1 + p fabric port p, 19 board controller (R306). -/
abbrev PortId := Fin 20

/-- The ramp of a syllable (R51). -/
inductive Ramp where
  | one | two | four | eight
  deriving DecidableEq, Repr

/-- An imm8 and the payload [23:0] of the literal that extends it, when there is one (R53). -/
structure Imm8 where
  low : BitVec 8
  lit : Option (BitVec 24)
  deriving DecidableEq, Repr

/-- An imm14 and the payload [23:0] of the literal that extends it, when there is one (R53). -/
structure Imm14 where
  low : BitVec 14
  lit : Option (BitVec 24)
  deriving DecidableEq, Repr

end Sys2Proof
end

