-- ==== Sys2Proof/Syntax.lean ====
section
/-! DEFINITION. The steps of the DRV-CQ9460: one constructor for each row of spec/opcode_table.json.
The first 245 are the syllables (R48, R49, R58), NOP last among them; the other 71 are the steps of the device that the
table lists without words (spec/95_what_each_step_holds.md). The table gives a step of the device no fields: what it acts on
stands in State.arg. -/

namespace Sys2Proof

/-- The steps of the device. In a syllable g is the guard predicate (R28, R48). -/
inductive Instr where
  | add (g : PReg) (d a b : SReg)
  | sub (g : PReg) (d a b : SReg)
  | mul (g : PReg) (d a b : SReg)
  | mulh (g : PReg) (d a b : SReg)
  | mulhu (g : PReg) (d a b : SReg)
  | div (g : PReg) (d a b : SReg)
  | divu (g : PReg) (d a b : SReg)
  | rem (g : PReg) (d a b : SReg)
  | remu (g : PReg) (d a b : SReg)
  | and (g : PReg) (d a b : SReg)
  | or (g : PReg) (d a b : SReg)
  | xor (g : PReg) (d a b : SReg)
  | andn (g : PReg) (d a b : SReg)
  | shl (g : PReg) (d a b : SReg)
  | shr (g : PReg) (d a b : SReg)
  | sra (g : PReg) (d a b : SReg)
  | min (g : PReg) (d a b : SReg)
  | max (g : PReg) (d a b : SReg)
  | minu (g : PReg) (d a b : SReg)
  | maxu (g : PReg) (d a b : SReg)
  | sel (g : PReg) (d a b : SReg)
  | clz (g : PReg) (d a : SReg)
  | popc (g : PReg) (d a : SReg)
  | lea (g : PReg) (d a b : SReg) (x : Fin 4)
  | addi (g : PReg) (d a : SReg) (imm : Imm8)
  | andi (g : PReg) (d a : SReg) (imm : Imm8)
  | ori (g : PReg) (d a : SReg) (imm : Imm8)
  | xori (g : PReg) (d a : SReg) (imm : Imm8)
  | shli (g : PReg) (d a : SReg) (imm : Fin 64)
  | shri (g : PReg) (d a : SReg) (imm : Fin 64)
  | srai (g : PReg) (d a : SReg) (imm : Fin 64)
  | li (g : PReg) (d : SReg) (imm : Imm14)
  | lih (g : PReg) (d : SReg) (imm : Imm14)
  | cmpeq (g d : PReg) (a b : SReg)
  | cmpne (g d : PReg) (a b : SReg)
  | cmplt (g d : PReg) (a b : SReg)
  | cmpltu (g d : PReg) (a b : SReg)
  | cmple (g d : PReg) (a b : SReg)
  | cmpleu (g d : PReg) (a b : SReg)
  | cmpeqi (g d : PReg) (a : SReg) (imm : Imm8)
  | cmplti (g d : PReg) (a : SReg) (imm : Imm8)
  | pand (g d a b : PReg)
  | por (g d a b : PReg)
  | pxor (g d a b : PReg)
  | pandn (g d a b : PReg)
  | pnot (g d a : PReg)
  | pbit (g d : PReg) (a : SReg) (n : Fin 64)
  | ldb (g : PReg) (d a : SReg) (imm : Imm8)
  | ldbz (g : PReg) (d a : SReg) (imm : Imm8)
  | ldw (g : PReg) (d a : SReg) (imm : Imm8)
  | ldwz (g : PReg) (d a : SReg) (imm : Imm8)
  | ldd (g : PReg) (d a : SReg) (imm : Imm8)
  | stb (g : PReg) (d a : SReg) (imm : Imm8)
  | stw (g : PReg) (d a : SReg) (imm : Imm8)
  | std (g : PReg) (d a : SReg) (imm : Imm8)
  | br (g : PReg) (disp : BitVec 20)
  | brl (g : PReg) (disp : BitVec 20)
  | jmp (g : PReg) (a : SReg)
  | jmpl (g : PReg) (a : SReg)
  | loop (g : PReg) (d : Fin 64) (a : SReg) (imm : Imm8)
  | cloop (g : PReg) (disp : BitVec 20)
  | region (g : PReg)
  | regionc (g : PReg) (imm : BitVec 8) (lit : BitVec 24)
  | endTask (g : PReg) (imm : BitVec 8)
  | yield (g : PReg)
  | trap (g : PReg) (imm : BitVec 8)
  | calsync (g : PReg)
  | rdsr (g : PReg) (d : SReg) (imm : BitVec 8)
  | wrsr (g : PReg) (a : SReg) (imm : BitVec 8)
  | sret (g : PReg)
  | tlbi (g : PReg) (d a b : SReg) (x : Fin 4)
  | vldRaw (g : PReg) (d : VReg) (a : SReg) (imm : Imm8)
  | vldI32 (g : PReg) (d : VReg) (a : SReg) (imm : Imm8)
  | vldF32 (g : PReg) (d : VReg) (a : SReg) (imm : Imm8)
  | vldBf16 (g : PReg) (d : VReg) (a : SReg) (imm : Imm8)
  | vldFp8e4 (g : PReg) (d : VReg) (a : SReg) (imm : Imm8)
  | vldFp8e5 (g : PReg) (d : VReg) (a : SReg) (imm : Imm8)
  | vldFp4 (g : PReg) (d : VReg) (a : SReg) (imm : Imm8)
  | vldInt8 (g : PReg) (d : VReg) (a : SReg) (imm : Imm8)
  | vldRns (g : PReg) (d : VReg) (a : SReg) (imm : Imm8)
  | vst (g : PReg) (d : VReg) (a : SReg) (imm : Imm8)
  | vlds (g : PReg) (d : VReg) (a b : SReg) (x : Fin 4)
  | vbcst (g : PReg) (d : VReg) (a : SReg) (t : Fin 4)
  | vspill (g : PReg) (d : VReg) (a : SReg) (b : Fin 64)
  | vfill (g : PReg) (d : VReg) (a : SReg) (b : Fin 64)
  | vmovs (g : PReg) (d : VReg) (a : SReg) (t : Fin 4) (n : Fin 64)
  | vmovv (g : PReg) (d : SReg) (a : VReg) (b : SReg)
  | vxor (g : PReg) (d a : VReg) (r : Ramp)
  | vcopy (g : PReg) (d a : VReg) (r : Ramp)
  | vaddrI32 (g : PReg) (d a : VReg) (r : Ramp)
  | vsubrI32 (g : PReg) (d a : VReg) (r : Ramp)
  | vnegrI32 (g : PReg) (d : VReg) (r : Ramp)
  | vrotl (g : PReg) (d a : VReg) (r : Ramp)
  | vswap (g : PReg) (d a : VReg) (r : Ramp)
  | vcswap (g : PReg) (d a b : VReg) (r : Ramp)
  | vpermr (g : PReg) (d a : VReg) (r : Ramp)
  | vrnsAdd (g : PReg) (d a : VReg) (r : Ramp)
  | vrnsSub (g : PReg) (d a : VReg) (r : Ramp)
  | vrnsNeg (g : PReg) (d : VReg) (r : Ramp)
  | vrnsMulc (g : PReg) (d : VReg) (b : SReg) (r : Ramp)
  | vaddF32 (g : PReg) (d a b : VReg)
  | vsubF32 (g : PReg) (d a b : VReg)
  | vmulF32 (g : PReg) (d a b : VReg)
  | vfmaF32 (g : PReg) (d a b : VReg)
  | vfmsF32 (g : PReg) (d a b : VReg)
  | vminF32 (g : PReg) (d a b : VReg)
  | vmaxF32 (g : PReg) (d a b : VReg)
  | vabsF32 (g : PReg) (d a : VReg)
  | vnegF32 (g : PReg) (d a : VReg)
  | vaddBf16 (g : PReg) (d a b : VReg)
  | vmulBf16 (g : PReg) (d a b : VReg)
  | vfmaBf16 (g : PReg) (d a b : VReg)
  | vaddI32 (g : PReg) (d a b : VReg)
  | vsubI32 (g : PReg) (d a b : VReg)
  | vmulI32 (g : PReg) (d a b : VReg)
  | vmulhI32 (g : PReg) (d a b : VReg)
  | vand (g : PReg) (d a b : VReg)
  | vor (g : PReg) (d a b : VReg)
  | vandn (g : PReg) (d a b : VReg)
  | vshlI32 (g : PReg) (d a b : VReg)
  | vshrI32 (g : PReg) (d a b : VReg)
  | vsraI32 (g : PReg) (d a b : VReg)
  | vminI32 (g : PReg) (d a b : VReg)
  | vmaxI32 (g : PReg) (d a b : VReg)
  | vsel (g : PReg) (d a b : VReg)
  | vmov (g : PReg) (d a : VReg)
  | vsplat (g : PReg) (d : VReg) (a : SReg) (t : Fin 4)
  | vcmpeqF32 (g d : PReg) (a b : VReg)
  | vcmpltF32 (g d : PReg) (a b : VReg)
  | vcmpleF32 (g d : PReg) (a b : VReg)
  | vcmpunF32 (g d : PReg) (a b : VReg)
  | vcmpeqI32 (g d : PReg) (a b : VReg)
  | vcmpltI32 (g d : PReg) (a b : VReg)
  | vcmpltuI32 (g d : PReg) (a b : VReg)
  | vcvtBf16F32Rne (g : PReg) (d a b : VReg)
  | vcvtBf16F32Sr (g : PReg) (d a b : VReg)
  | vcvtF32Bf16 (g : PReg) (d a : VReg) (k : Fin 2)
  | vcvtFp8e4F32Rne (g : PReg) (d a b : VReg) (x : Fin 2)
  | vcvtFp8e4F32Sat (g : PReg) (d a b : VReg) (x : Fin 2)
  | vcvtFp8e4F32Sr (g : PReg) (d a b : VReg) (x : Fin 2)
  | vcvtFp8e4F32Srsat (g : PReg) (d a b : VReg) (x : Fin 2)
  | vcvtFp8e5F32Rne (g : PReg) (d a b : VReg) (x : Fin 2)
  | vcvtFp8e5F32Sat (g : PReg) (d a b : VReg) (x : Fin 2)
  | vcvtFp8e5F32Sr (g : PReg) (d a b : VReg) (x : Fin 2)
  | vcvtFp8e5F32Srsat (g : PReg) (d a b : VReg) (x : Fin 2)
  | vcvtF32Fp8e4 (g : PReg) (d a : VReg) (k : Fin 4)
  | vcvtF32Fp8e5 (g : PReg) (d a : VReg) (k : Fin 4)
  | vcvtFp4F32Rne (g : PReg) (d a b : VReg) (x : Fin 4)
  | vcvtFp4F32Sr (g : PReg) (d a b : VReg) (x : Fin 4)
  | vcvtF32Fp4 (g : PReg) (d a : VReg) (k : Fin 8)
  | vcvtI32F32Rne (g : PReg) (d a : VReg)
  | vcvtI32F32Rtz (g : PReg) (d a : VReg)
  | vcvtF32I32 (g : PReg) (d a : VReg)
  | vcvtRnsI32 (g : PReg) (d a : VReg) (r : Ramp)
  | vcvtI32Rns (g : PReg) (d a : VReg)
  | vcvtInt8I32Sat (g : PReg) (d a b : VReg) (x : Fin 2)
  | vqmxFp8e4 (g : PReg) (d : VReg) (a : VPair) (b : SReg) (x : Fin 2)
  | vqmxFp4 (g : PReg) (d : VReg) (a : VPair) (b : SReg) (x : Fin 4)
  | vrsqaF32 (g : PReg) (d a : VReg)
  | vrcpaF32 (g : PReg) (d a : VReg)
  | vexp2aF32 (g : PReg) (d a : VReg)
  | vlog2aF32 (g : PReg) (d a : VReg)
  | vsqrtF32 (g : PReg) (d a : VReg)
  | vdivF32 (g : PReg) (d a b : VReg)
  | vredaddF32 (g : PReg) (d a : VReg)
  | vredmaxF32 (g : PReg) (d a : VReg)
  | vredaddI32 (g : PReg) (d a : VReg)
  | vbcastl (g : PReg) (d a : VReg) (n : Fin 64)
  | vperm (g : PReg) (d a b : VReg)
  | verase (g : PReg) (d : VReg)
  | vretag (g : PReg) (d : VReg) (t : Fin 16)
  | vtagq (g : PReg) (d : SReg) (a : VReg)
  | wldBf16 (g : PReg) (w : BufId) (a b : SReg) (r : Ramp)
  | wldFp8e4 (g : PReg) (w : BufId) (a b : SReg) (r : Ramp)
  | wldFp8e5 (g : PReg) (w : BufId) (a b : SReg) (r : Ramp)
  | wldFp4 (g : PReg) (w : BufId) (a b : SReg) (r : Ramp)
  | wldInt8 (g : PReg) (w : BufId) (a b : SReg) (r : Ramp)
  | wldt (g : PReg) (w : BufId) (a b : SReg) (r : Ramp) (x : Fin 4)
  | wclr (g : PReg) (w : BufId)
  | mmaBf16 (g : PReg) (c : TileId) (w : BufId) (a b : SReg) (r : Ramp)
  | mmaFp8e4 (g : PReg) (c : TileId) (w : BufId) (a b : SReg) (r : Ramp)
  | mmaFp8e5 (g : PReg) (c : TileId) (w : BufId) (a b : SReg) (r : Ramp)
  | mmaFp4 (g : PReg) (c : TileId) (w : BufId) (a b : SReg) (r : Ramp)
  | mmaI8r (g : PReg) (c : TileId) (w : BufId) (a b : SReg) (r : Ramp)
  | mmsI8r (g : PReg) (c : TileId) (w : BufId) (a b : SReg) (r : Ramp)
  | aclr (g : PReg) (c : TileId)
  | afillF32 (g : PReg) (c : TileId) (a b : SReg)
  | afillRns (g : PReg) (c : TileId) (a b : SReg)
  | astat (g : PReg) (c : TileId) (a : SReg)
  | drainF32 (g : PReg) (c : TileId) (a b : SReg)
  | drainBf16 (g : PReg) (c : TileId) (a b : SReg)
  | drainAdd (g : PReg) (c : TileId) (w : BufId) (a b : SReg) (x : Fin 4)
  | drainAddc (g : PReg) (c : TileId) (w : BufId) (a b : SReg) (x : Fin 4)
  | drainRns (g : PReg) (c : TileId) (a b : SReg)
  | drainI32 (g : PReg) (c : TileId) (a b : SReg)
  | cpyIn (g : PReg) (t : TagId) (a : SReg) (b : SPair) (q : Fin 4)
  | cpyInx (g : PReg) (t : TagId) (a : SReg) (b : SPair)
  | cpyOut (g : PReg) (t : TagId) (a : SReg) (b : SPair) (q : Fin 4)
  | cpyPeer (g : PReg) (t : TagId) (a : SReg) (b : SPair) (q : Fin 4)
  | cpyMc (g : PReg) (t : TagId) (a : SReg) (b : SPair) (q : Fin 4)
  | cpyT (g : PReg) (t : TagId) (a : SReg) (b : SPair) (q : Fin 4)
  | cpyFab (g : PReg) (t : TagId) (a : SReg) (b : SPair) (q : Fin 4)
  | cpyRin (g : PReg) (t : TagId) (a : SReg) (b : SPair) (q : Fin 4)
  | cpyHost (g : PReg) (t : TagId) (a : SReg) (b : SPair) (q : Fin 4)
  | twany (g : PReg) (d a : SReg)
  | twall (g : PReg) (a : SReg)
  | tfirst (g : PReg) (d a : SReg)
  | tclr (g : PReg) (a : SReg)
  | tstat (g : PReg) (d a : SReg) (n : Fin 64)
  | qfence (g : PReg) (m : BitVec 4)
  | rwait (g : PReg) (h : RingId) (c : Fin 64)
  | rfree (g : PReg) (h : RingId) (c : Fin 64)
  | radvp (g : PReg) (h : RingId) (z : Fin 4) (c : Fin 64)
  | radvc (g : PReg) (h : RingId) (c : Fin 64)
  | rset (g : PReg) (h : RingId) (a : SReg)
  | rsetUnconfigure (g : PReg) (h : RingId)
  | tlook (g : PReg) (d a : SReg)
  | tins (g : PReg) (d a b : SReg)
  | tdel (g : PReg) (d a : SReg)
  | lstW (g : PReg) (a b : SReg)
  | lstD (g : PReg) (a b : SReg)
  | lstv (g : PReg) (a : SReg) (b : VReg)
  | rel (g : PReg) (t : TagId) (b : SPair)
  | acq (g : PReg) (t : TagId) (a : SReg) (b : SPair)
  | acqs (g : PReg) (t : TagId) (a : SReg) (b : SPair)
  | phase (g : PReg) (t : TagId) (b : SPair)
  | synAdd (g : PReg) (t : TagId) (a : SReg) (b : SPair)
  | synCas (g : PReg) (t : TagId) (a : SReg) (b : SPair)
  | synMin (g : PReg) (t : TagId) (a : SReg) (b : SPair)
  | synMax (g : PReg) (t : TagId) (a : SReg) (b : SPair)
  | synXch (g : PReg) (t : TagId) (a : SReg) (b : SPair)
  | synLd (g : PReg) (t : TagId) (a : SReg) (b : SPair)
  | synPost (g : PReg) (t : TagId) (a : SReg) (b : SPair)
  | synWait (g : PReg) (t : TagId) (a : SReg) (b : SPair)
  | synBar (g : PReg) (t : TagId) (a : SReg) (b : SPair)
  | fork (g : PReg) (a : SReg) (b : SPair)
  | grwd (g : PReg) (a : SReg)
  | gbar (g : PReg)
  | gcancel (g : PReg) (a : SReg)
  | gquit (g : PReg)
  | gstat (g : PReg) (b : SPair)
  | publish (g : PReg) (t : TagId) (b : SPair)
  | launch (g : PReg) (a : SReg) (b : SPair)
  | cancel (g : PReg) (a : SReg)
  | nop
  | resultLanding
  | matrixRowLanding
  | icacheFill
  | crossingDelivery
  | regionCommit
  | effectCommandSend
  | sequencerNumbering
  | weirOperation
  | logCompaction
  | logTimeout
  | publishCounterWrite
  | copyStart
  | atomService
  | readAtomWrite
  | copyCompletion
  | cpyInxLanding
  | spillFillCompletion
  | peerCopyTransfer
  | drainAddApply
  | eccWriteback
  | refreshSlot
  | selfRefreshEntry
  | selfRefreshExit
  | trapSequence
  | shootdownComplete
  | taskRetirement
  | completionFinalWrite
  | inletSlotWrite
  | inletTailWrite
  | inletCancelWrite
  | fabricLaunchPacket
  | fabricCancelPacket
  | dispatchDecision
  | waitWordRead
  | levelAgeing
  | reservationStart
  | cancelDelivery
  | taskStop
  | groupEngineCommand
  | forkAccept
  | groupDeadline
  | groupBarrierComplete
  | groupStatusMirror
  | preemptRequest
  | preemptTake
  | contextSave
  | pitchWriteOut
  | resumption
  | wearInterval
  | coreStateChange
  | lifetimeCheckpoint
  | periodStretch
  | claim
  | claimWindowClose
  | handover
  | thaw
  | preempt
  | fwupd
  | fwCheckDone
  | fwcommit
  | attest
  | attestDone
  | mgmtRegisterWrite
  | accessControlWrite
  | linkReset
  | hostMemAccess
  | peerFabWrite
  | bringUp
  | linkTraining
  | malformedBundle
  | powerOff
  deriving DecidableEq, Repr

end Sys2Proof
end

