-- ==== Sys2Proof/WellFormed.lean ====
section
/-! DEFINITION. Well-formed instructions: what the encoding asks beyond the types of the fields. The checks that need the
state (a ramp floor, R20; a register's access in the current privilege, R30) are made where a bundle is decoded. -/

namespace Sys2Proof

/-- An imm14 with a literal has bits [13:8] zero (R53, R54). -/
def Imm14.wf (i : Imm14) : Bool :=
  match i.lit with
  | none => true
  | some _ => i.low.extractLsb' 8 6 == 0

/-- The 32-bit extended immediate of an RRI owner, or imm8, taken without sign (R53). -/
def Imm8.zext (i : Imm8) : BitVec 32 :=
  match i.lit with
  | none => i.low.setWidth 32
  | some p => p ++ i.low

/-- LOOP with a ≠ 0 takes its count from s_a, and its immediate must be zero (R118). -/
def loopImmOk (a : SReg) (low : BitVec 8) (lit : Option (BitVec 24)) : Bool :=
  a == 0 || (Imm8.mk low lit).zext == 0

/-- The numbers of the special registers (R30). -/
def srKnown (n : BitVec 8) : Bool :=
  n.toNat ≤ 0x0E || n.toNat == 0x10 || n.toNat == 0x11 || (0x18 ≤ n.toNat && n.toNat ≤ 0x1F)

/-- The fields TLBI uses under each variant; variant 3 is undefined (R330). -/
def tlbiOk (d a b : SReg) (x : Fin 4) : Bool :=
  match x with
  | 0 => true
  | 1 => a == 0 && b == 0
  | 2 => d == 0 && a == 0 && b == 0
  | 3 => false

/-- The tag codes VRETAG accepts, 0x1 to 0x9 (R152). -/
def retagOk (t : Fin 16) : Bool := 1 ≤ t.val && t.val ≤ 9

/-- An instruction the decoder can answer. -/
def Instr.wf : Instr → Bool
  | .li _ _ i => i.wf
  | .lih _ _ i => i.wf
  | .loop _ _ a i => loopImmOk a i.low i.lit
  | .rdsr _ _ n => srKnown n
  | .wrsr _ _ n => srKnown n
  | .tlbi _ d a b x => tlbiOk d a b x
  | .vspill _ d _ n => d.val + n.val < 64
  | .vfill _ d _ n => d.val + n.val < 64
  | .vxor _ d a _ => d != a
  | .vcopy _ d a _ => d != a
  | .vaddrI32 _ d a _ => d != a
  | .vsubrI32 _ d a _ => d != a
  | .vrotl _ d a _ => d != a
  | .vswap _ d a _ => d != a
  | .vcswap _ d a b _ => d != a && d != b && a != b
  | .vpermr _ d a _ => d != a
  | .vrnsAdd _ d a _ => d != a
  | .vrnsSub _ d a _ => d != a
  | .vcvtRnsI32 _ d a _ => d != a
  | .vretag _ _ t => retagOk t
  | _ => true

end Sys2Proof
end

