-- ==== Sys2Proof/Decode.lean ====
section
/-! DEFINITION. The decoder and the encoder of bundles and syllables (R15, R48 to R59, R65). -/

namespace Sys2Proof

/-- The major opcode, bits [31:25] (R48). -/
def major (w : Half) : Nat := (w.extractLsb' 25 7).toNat
/-- The guard field, bits [4:0] (R48). -/
def fG (w : Half) : PReg := Fin.ofNat 32 (w.extractLsb' 0 5).toNat
/-- Field d of RRR, RRI, RI and the tag field of CP, bits [24:19] (R49). -/
def fD (w : Half) : Fin 64 := Fin.ofNat 64 (w.extractLsb' 19 6).toNat
/-- Field a of RRR, RRI and CP, bits [18:13] (R49). -/
def fA (w : Half) : Fin 64 := Fin.ofNat 64 (w.extractLsb' 13 6).toNat
/-- Field b of RRR and CP, bits [12:7] (R49). -/
def fB (w : Half) : Fin 64 := Fin.ofNat 64 (w.extractLsb' 7 6).toNat
/-- Field x of RRR and the queue of CP, bits [6:5] (R49). -/
def fX (w : Half) : Fin 4 := Fin.ofNat 4 (w.extractLsb' 5 2).toNat
/-- imm8, bits [12:5] (R49). -/
def fI8 (w : Half) : BitVec 8 := w.extractLsb' 5 8
/-- imm14, bits [18:5] (R49). -/
def fI14 (w : Half) : BitVec 14 := w.extractLsb' 5 14
/-- disp20, bits [24:5] (R49). -/
def fDisp (w : Half) : BitVec 20 := w.extractLsb' 5 20
/-- Field acc of MX, bits [24:22] (R49). -/
def mC (w : Half) : TileId := Fin.ofNat 8 (w.extractLsb' 22 3).toNat
/-- Field w of MX, bit [21] (R49). -/
def mW (w : Half) : BufId := Fin.ofNat 2 (w.extractLsb' 21 1).toNat
/-- Field a of MX, bits [20:15] (R49). -/
def mA (w : Half) : Fin 64 := Fin.ofNat 64 (w.extractLsb' 15 6).toNat
/-- Field b of MX, bits [14:9] (R49). -/
def mB (w : Half) : Fin 64 := Fin.ofNat 64 (w.extractLsb' 9 6).toNat
/-- Field ramp of MX, bits [8:7] (R49). -/
def mR (w : Half) : Fin 4 := Fin.ofNat 4 (w.extractLsb' 7 2).toNat
/-- Field variant of MX, bits [6:5] (R49). -/
def mV (w : Half) : Fin 4 := Fin.ofNat 4 (w.extractLsb' 5 2).toNat

/-- A predicate from a 6-bit field whose bit 5 is zero (R50). -/
def toP (x : Fin 64) : PReg := Fin.ofNat 32 x.val
/-- A ring from a 6-bit field whose bits [5:4] are zero (R50). -/
def toRing (x : Fin 64) : RingId := Fin.ofNat 16 x.val
/-- A pair from an even field (R50). -/
def toPair (x : Fin 64) : Fin 32 := Fin.ofNat 32 (x.val / 2)
/-- The field of a predicate. -/
def ofP (x : PReg) : Fin 64 := Fin.ofNat 64 x.val
/-- The field of a ring. -/
def ofRing (x : RingId) : Fin 64 := Fin.ofNat 64 x.val
/-- The field of a pair. -/
def ofPair (x : Fin 32) : Fin 64 := Fin.ofNat 64 (2 * x.val)
/-- Ramp codes (R51). -/
def toRamp : Fin 4 → Ramp
  | 0 => .one
  | 1 => .two
  | 2 => .four
  | 3 => .eight
/-- Ramp codes (R51). -/
def ofRamp : Ramp → Fin 4
  | .one => 0
  | .two => 1
  | .four => 2
  | .eight => 3

/-- An RRR syllable, and a CP syllable with tag, a, b and queue (R49). -/
def rrr (maj : Nat) (d a b : Fin 64) (x : Fin 4) (g : PReg) : Half :=
  BitVec.ofNat 7 maj ++ BitVec.ofNat 6 d.val ++ BitVec.ofNat 6 a.val ++ BitVec.ofNat 6 b.val ++ BitVec.ofNat 2 x.val ++ BitVec.ofNat 5 g.val
/-- An RRI syllable (R49). -/
def rri (maj : Nat) (d a : Fin 64) (i : BitVec 8) (g : PReg) : Half :=
  BitVec.ofNat 7 maj ++ BitVec.ofNat 6 d.val ++ BitVec.ofNat 6 a.val ++ i ++ BitVec.ofNat 5 g.val
/-- An RI syllable (R49). -/
def ri (maj : Nat) (d : Fin 64) (i : BitVec 14) (g : PReg) : Half :=
  BitVec.ofNat 7 maj ++ BitVec.ofNat 6 d.val ++ i ++ BitVec.ofNat 5 g.val
/-- A BR syllable (R49). -/
def brf (maj : Nat) (s : BitVec 20) (g : PReg) : Half :=
  BitVec.ofNat 7 maj ++ s ++ BitVec.ofNat 5 g.val
/-- An MX syllable (R49). -/
def mx (maj : Nat) (c : TileId) (w : BufId) (a b : Fin 64) (r v : Fin 4) (g : PReg) : Half :=
  BitVec.ofNat 7 maj ++ BitVec.ofNat 3 c.val ++ BitVec.ofNat 1 w.val ++ BitVec.ofNat 6 a.val ++ BitVec.ofNat 6 b.val ++
    BitVec.ofNat 2 r.val ++ BitVec.ofNat 2 v.val ++ BitVec.ofNat 5 g.val

/-- The syllable of the S slot (position 0; R58); lit is the payload of a literal it owns (R53). A reserved major (R59), a field
outside its kind or a non-zero unused field (R50), and an undefined variant (R51) decode to nothing. -/
def decodeS (w : Half) (lit : Option (BitVec 24)) : Option Instr :=
  match major w with
  | 0x01 => if fX w = 0 then some (.add (fG w) (fD w) (fA w) (fB w)) else none
  | 0x02 => if fX w = 0 then some (.sub (fG w) (fD w) (fA w) (fB w)) else none
  | 0x03 => if fX w = 0 then some (.mul (fG w) (fD w) (fA w) (fB w)) else none
  | 0x04 => if fX w = 0 then some (.mulh (fG w) (fD w) (fA w) (fB w)) else none
  | 0x05 => if fX w = 0 then some (.mulhu (fG w) (fD w) (fA w) (fB w)) else none
  | 0x06 => if fX w = 0 then some (.div (fG w) (fD w) (fA w) (fB w)) else none
  | 0x07 => if fX w = 0 then some (.divu (fG w) (fD w) (fA w) (fB w)) else none
  | 0x08 => if fX w = 0 then some (.rem (fG w) (fD w) (fA w) (fB w)) else none
  | 0x09 => if fX w = 0 then some (.remu (fG w) (fD w) (fA w) (fB w)) else none
  | 0x0A => if fX w = 0 then some (.and (fG w) (fD w) (fA w) (fB w)) else none
  | 0x0B => if fX w = 0 then some (.or (fG w) (fD w) (fA w) (fB w)) else none
  | 0x0C => if fX w = 0 then some (.xor (fG w) (fD w) (fA w) (fB w)) else none
  | 0x0D => if fX w = 0 then some (.andn (fG w) (fD w) (fA w) (fB w)) else none
  | 0x0E => if fX w = 0 then some (.shl (fG w) (fD w) (fA w) (fB w)) else none
  | 0x0F => if fX w = 0 then some (.shr (fG w) (fD w) (fA w) (fB w)) else none
  | 0x10 => if fX w = 0 then some (.sra (fG w) (fD w) (fA w) (fB w)) else none
  | 0x11 => if fX w = 0 then some (.min (fG w) (fD w) (fA w) (fB w)) else none
  | 0x12 => if fX w = 0 then some (.max (fG w) (fD w) (fA w) (fB w)) else none
  | 0x13 => if fX w = 0 then some (.minu (fG w) (fD w) (fA w) (fB w)) else none
  | 0x14 => if fX w = 0 then some (.maxu (fG w) (fD w) (fA w) (fB w)) else none
  | 0x15 => if fX w = 0 then some (.sel (fG w) (fD w) (fA w) (fB w)) else none
  | 0x16 => if fB w = 0 ∧ fX w = 0 then some (.clz (fG w) (fD w) (fA w)) else none
  | 0x17 => if fB w = 0 ∧ fX w = 0 then some (.popc (fG w) (fD w) (fA w)) else none
  | 0x18 => some (.lea (fG w) (fD w) (fA w) (fB w) (fX w))
  | 0x20 => some (.addi (fG w) (fD w) (fA w) ⟨fI8 w, lit⟩)
  | 0x21 => some (.andi (fG w) (fD w) (fA w) ⟨fI8 w, lit⟩)
  | 0x22 => some (.ori (fG w) (fD w) (fA w) ⟨fI8 w, lit⟩)
  | 0x23 => some (.xori (fG w) (fD w) (fA w) ⟨fI8 w, lit⟩)
  | 0x24 => if (fI8 w).toNat < 64 then some (.shli (fG w) (fD w) (fA w) (Fin.ofNat 64 (fI8 w).toNat)) else none
  | 0x25 => if (fI8 w).toNat < 64 then some (.shri (fG w) (fD w) (fA w) (Fin.ofNat 64 (fI8 w).toNat)) else none
  | 0x26 => if (fI8 w).toNat < 64 then some (.srai (fG w) (fD w) (fA w) (Fin.ofNat 64 (fI8 w).toNat)) else none
  | 0x27 => some (.li (fG w) (fD w) ⟨fI14 w, lit⟩)
  | 0x28 => some (.lih (fG w) (fD w) ⟨fI14 w, lit⟩)
  | 0x30 => if (fD w).val < 32 ∧ fX w = 0 then some (.cmpeq (fG w) (toP (fD w)) (fA w) (fB w)) else none
  | 0x31 => if (fD w).val < 32 ∧ fX w = 0 then some (.cmpne (fG w) (toP (fD w)) (fA w) (fB w)) else none
  | 0x32 => if (fD w).val < 32 ∧ fX w = 0 then some (.cmplt (fG w) (toP (fD w)) (fA w) (fB w)) else none
  | 0x33 => if (fD w).val < 32 ∧ fX w = 0 then some (.cmpltu (fG w) (toP (fD w)) (fA w) (fB w)) else none
  | 0x34 => if (fD w).val < 32 ∧ fX w = 0 then some (.cmple (fG w) (toP (fD w)) (fA w) (fB w)) else none
  | 0x35 => if (fD w).val < 32 ∧ fX w = 0 then some (.cmpleu (fG w) (toP (fD w)) (fA w) (fB w)) else none
  | 0x36 => if (fD w).val < 32 then some (.cmpeqi (fG w) (toP (fD w)) (fA w) ⟨fI8 w, lit⟩) else none
  | 0x37 => if (fD w).val < 32 then some (.cmplti (fG w) (toP (fD w)) (fA w) ⟨fI8 w, lit⟩) else none
  | 0x38 => if (fD w).val < 32 ∧ (fA w).val < 32 ∧ (fB w).val < 32 ∧ fX w = 0 then some (.pand (fG w) (toP (fD w)) (toP (fA w)) (toP (fB w))) else none
  | 0x39 => if (fD w).val < 32 ∧ (fA w).val < 32 ∧ (fB w).val < 32 ∧ fX w = 0 then some (.por (fG w) (toP (fD w)) (toP (fA w)) (toP (fB w))) else none
  | 0x3A => if (fD w).val < 32 ∧ (fA w).val < 32 ∧ (fB w).val < 32 ∧ fX w = 0 then some (.pxor (fG w) (toP (fD w)) (toP (fA w)) (toP (fB w))) else none
  | 0x3B => if (fD w).val < 32 ∧ (fA w).val < 32 ∧ (fB w).val < 32 ∧ fX w = 0 then some (.pandn (fG w) (toP (fD w)) (toP (fA w)) (toP (fB w))) else none
  | 0x3C => if (fD w).val < 32 ∧ (fA w).val < 32 ∧ fB w = 0 ∧ fX w = 0 then some (.pnot (fG w) (toP (fD w)) (toP (fA w))) else none
  | 0x3D => if (fD w).val < 32 ∧ (fI8 w).toNat < 64 then some (.pbit (fG w) (toP (fD w)) (fA w) (Fin.ofNat 64 (fI8 w).toNat)) else none
  | 0x40 => some (.ldb (fG w) (fD w) (fA w) ⟨fI8 w, lit⟩)
  | 0x41 => some (.ldbz (fG w) (fD w) (fA w) ⟨fI8 w, lit⟩)
  | 0x42 => some (.ldw (fG w) (fD w) (fA w) ⟨fI8 w, lit⟩)
  | 0x43 => some (.ldwz (fG w) (fD w) (fA w) ⟨fI8 w, lit⟩)
  | 0x44 => some (.ldd (fG w) (fD w) (fA w) ⟨fI8 w, lit⟩)
  | 0x45 => some (.stb (fG w) (fD w) (fA w) ⟨fI8 w, lit⟩)
  | 0x46 => some (.stw (fG w) (fD w) (fA w) ⟨fI8 w, lit⟩)
  | 0x47 => some (.std (fG w) (fD w) (fA w) ⟨fI8 w, lit⟩)
  | 0x50 => some (.br (fG w) (fDisp w))
  | 0x51 => some (.brl (fG w) (fDisp w))
  | 0x52 => if fD w = 0 ∧ fB w = 0 ∧ fX w = 0 then some (.jmp (fG w) (fA w)) else none
  | 0x53 => if fD w = 0 ∧ fB w = 0 ∧ fX w = 0 then some (.jmpl (fG w) (fA w)) else none
  | 0x54 => if loopImmOk (fA w) (fI8 w) lit then some (.loop (fG w) (fD w) (fA w) ⟨fI8 w, lit⟩) else none
  | 0x55 => some (.cloop (fG w) (fDisp w))
  | 0x56 => if fD w = 0 ∧ fI14 w = 0 then some (.region (fG w)) else none
  | 0x57 => match lit with | some l => if fD w = 0 then some (.regionc (fG w) (fI8 w) l) else none | none => none
  | 0x58 => if fD w = 0 ∧ (fI14 w).toNat < 256 then some (.endTask (fG w) (fI8 w)) else none
  | 0x59 => if fD w = 0 ∧ fI14 w = 0 then some (.yield (fG w)) else none
  | 0x5A => if fD w = 0 ∧ (fI14 w).toNat < 256 then some (.trap (fG w) (fI8 w)) else none
  | 0x5B => if fD w = 0 ∧ fI14 w = 0 then some (.calsync (fG w)) else none
  | 0x60 => if fA w = 0 ∧ srKnown (fI8 w) then some (.rdsr (fG w) (fD w) (fI8 w)) else none
  | 0x61 => if fD w = 0 ∧ srKnown (fI8 w) then some (.wrsr (fG w) (fA w) (fI8 w)) else none
  | 0x62 => if fD w = 0 ∧ fI14 w = 0 then some (.sret (fG w)) else none
  | 0x63 => if tlbiOk (fD w) (fA w) (fB w) (fX w) then some (.tlbi (fG w) (fD w) (fA w) (fB w) (fX w)) else none
  | _ => none

/-- The syllable of the V slot (position 1; R58); lit is the payload of a literal it owns (R53). A reserved major (R59), a field
outside its kind or a non-zero unused field (R50), and an undefined variant (R51) decode to nothing. A literal owned by VRETAG, which R54
admits and R152 does not speak of, changes nothing whatever its payload: DESIGN CHOICE (log 101). -/
def decodeV (w : Half) (lit : Option (BitVec 24)) : Option Instr :=
  match major w with
  | 0x01 => some (.vldRaw (fG w) (fD w) (fA w) ⟨fI8 w, lit⟩)
  | 0x02 => some (.vldI32 (fG w) (fD w) (fA w) ⟨fI8 w, lit⟩)
  | 0x03 => some (.vldF32 (fG w) (fD w) (fA w) ⟨fI8 w, lit⟩)
  | 0x04 => some (.vldBf16 (fG w) (fD w) (fA w) ⟨fI8 w, lit⟩)
  | 0x05 => some (.vldFp8e4 (fG w) (fD w) (fA w) ⟨fI8 w, lit⟩)
  | 0x06 => some (.vldFp8e5 (fG w) (fD w) (fA w) ⟨fI8 w, lit⟩)
  | 0x07 => some (.vldFp4 (fG w) (fD w) (fA w) ⟨fI8 w, lit⟩)
  | 0x08 => some (.vldInt8 (fG w) (fD w) (fA w) ⟨fI8 w, lit⟩)
  | 0x09 => some (.vldRns (fG w) (fD w) (fA w) ⟨fI8 w, lit⟩)
  | 0x0A => some (.vst (fG w) (fD w) (fA w) ⟨fI8 w, lit⟩)
  | 0x0B => some (.vlds (fG w) (fD w) (fA w) (fB w) (fX w))
  | 0x0C => if (fI8 w).toNat < 4 then some (.vbcst (fG w) (fD w) (fA w) (Fin.ofNat 4 (fI8 w).toNat)) else none
  | 0x0D => if fX w = 0 ∧ (fD w).val + (fB w).val < 64 then some (.vspill (fG w) (fD w) (fA w) (fB w)) else none
  | 0x0E => if fX w = 0 ∧ (fD w).val + (fB w).val < 64 then some (.vfill (fG w) (fD w) (fA w) (fB w)) else none
  | 0x0F => some (.vmovs (fG w) (fD w) (fA w) (Fin.ofNat 4 ((fI8 w).toNat / 64)) (Fin.ofNat 64 (fI8 w).toNat))
  | 0x10 => if fX w = 0 then some (.vmovv (fG w) (fD w) (fA w) (fB w)) else none
  | 0x14 => if fB w = 0 ∧ fD w ≠ fA w then some (.vxor (fG w) (fD w) (fA w) (toRamp (fX w))) else none
  | 0x15 => if fB w = 0 ∧ fD w ≠ fA w then some (.vcopy (fG w) (fD w) (fA w) (toRamp (fX w))) else none
  | 0x16 => if fB w = 0 ∧ fD w ≠ fA w then some (.vaddrI32 (fG w) (fD w) (fA w) (toRamp (fX w))) else none
  | 0x17 => if fB w = 0 ∧ fD w ≠ fA w then some (.vsubrI32 (fG w) (fD w) (fA w) (toRamp (fX w))) else none
  | 0x18 => if fA w = 0 ∧ fB w = 0 then some (.vnegrI32 (fG w) (fD w) (toRamp (fX w))) else none
  | 0x19 => if fB w = 0 ∧ fD w ≠ fA w then some (.vrotl (fG w) (fD w) (fA w) (toRamp (fX w))) else none
  | 0x1A => if fB w = 0 ∧ fD w ≠ fA w then some (.vswap (fG w) (fD w) (fA w) (toRamp (fX w))) else none
  | 0x1B => if fD w ≠ fA w ∧ fD w ≠ fB w ∧ fA w ≠ fB w then some (.vcswap (fG w) (fD w) (fA w) (fB w) (toRamp (fX w))) else none
  | 0x1C => if fB w = 0 ∧ fD w ≠ fA w then some (.vpermr (fG w) (fD w) (fA w) (toRamp (fX w))) else none
  | 0x1D => if fB w = 0 ∧ fD w ≠ fA w then some (.vrnsAdd (fG w) (fD w) (fA w) (toRamp (fX w))) else none
  | 0x1E => if fB w = 0 ∧ fD w ≠ fA w then some (.vrnsSub (fG w) (fD w) (fA w) (toRamp (fX w))) else none
  | 0x1F => if fA w = 0 ∧ fB w = 0 then some (.vrnsNeg (fG w) (fD w) (toRamp (fX w))) else none
  | 0x20 => if fA w = 0 then some (.vrnsMulc (fG w) (fD w) (fB w) (toRamp (fX w))) else none
  | 0x24 => if fX w = 0 then some (.vaddF32 (fG w) (fD w) (fA w) (fB w)) else none
  | 0x25 => if fX w = 0 then some (.vsubF32 (fG w) (fD w) (fA w) (fB w)) else none
  | 0x26 => if fX w = 0 then some (.vmulF32 (fG w) (fD w) (fA w) (fB w)) else none
  | 0x27 => if fX w = 0 then some (.vfmaF32 (fG w) (fD w) (fA w) (fB w)) else none
  | 0x28 => if fX w = 0 then some (.vfmsF32 (fG w) (fD w) (fA w) (fB w)) else none
  | 0x29 => if fX w = 0 then some (.vminF32 (fG w) (fD w) (fA w) (fB w)) else none
  | 0x2A => if fX w = 0 then some (.vmaxF32 (fG w) (fD w) (fA w) (fB w)) else none
  | 0x2B => if fB w = 0 ∧ fX w = 0 then some (.vabsF32 (fG w) (fD w) (fA w)) else none
  | 0x2C => if fB w = 0 ∧ fX w = 0 then some (.vnegF32 (fG w) (fD w) (fA w)) else none
  | 0x2D => if fX w = 0 then some (.vaddBf16 (fG w) (fD w) (fA w) (fB w)) else none
  | 0x2E => if fX w = 0 then some (.vmulBf16 (fG w) (fD w) (fA w) (fB w)) else none
  | 0x2F => if fX w = 0 then some (.vfmaBf16 (fG w) (fD w) (fA w) (fB w)) else none
  | 0x30 => if fX w = 0 then some (.vaddI32 (fG w) (fD w) (fA w) (fB w)) else none
  | 0x31 => if fX w = 0 then some (.vsubI32 (fG w) (fD w) (fA w) (fB w)) else none
  | 0x32 => if fX w = 0 then some (.vmulI32 (fG w) (fD w) (fA w) (fB w)) else none
  | 0x33 => if fX w = 0 then some (.vmulhI32 (fG w) (fD w) (fA w) (fB w)) else none
  | 0x34 => if fX w = 0 then some (.vand (fG w) (fD w) (fA w) (fB w)) else none
  | 0x35 => if fX w = 0 then some (.vor (fG w) (fD w) (fA w) (fB w)) else none
  | 0x36 => if fX w = 0 then some (.vandn (fG w) (fD w) (fA w) (fB w)) else none
  | 0x37 => if fX w = 0 then some (.vshlI32 (fG w) (fD w) (fA w) (fB w)) else none
  | 0x38 => if fX w = 0 then some (.vshrI32 (fG w) (fD w) (fA w) (fB w)) else none
  | 0x39 => if fX w = 0 then some (.vsraI32 (fG w) (fD w) (fA w) (fB w)) else none
  | 0x3A => if fX w = 0 then some (.vminI32 (fG w) (fD w) (fA w) (fB w)) else none
  | 0x3B => if fX w = 0 then some (.vmaxI32 (fG w) (fD w) (fA w) (fB w)) else none
  | 0x3C => if fX w = 0 then some (.vsel (fG w) (fD w) (fA w) (fB w)) else none
  | 0x3D => if fB w = 0 ∧ fX w = 0 then some (.vmov (fG w) (fD w) (fA w)) else none
  | 0x3E => if (fI8 w).toNat < 4 then some (.vsplat (fG w) (fD w) (fA w) (Fin.ofNat 4 (fI8 w).toNat)) else none
  | 0x40 => if (fD w).val < 32 ∧ fX w = 0 then some (.vcmpeqF32 (fG w) (toP (fD w)) (fA w) (fB w)) else none
  | 0x41 => if (fD w).val < 32 ∧ fX w = 0 then some (.vcmpltF32 (fG w) (toP (fD w)) (fA w) (fB w)) else none
  | 0x42 => if (fD w).val < 32 ∧ fX w = 0 then some (.vcmpleF32 (fG w) (toP (fD w)) (fA w) (fB w)) else none
  | 0x43 => if (fD w).val < 32 ∧ fX w = 0 then some (.vcmpunF32 (fG w) (toP (fD w)) (fA w) (fB w)) else none
  | 0x44 => if (fD w).val < 32 ∧ fX w = 0 then some (.vcmpeqI32 (fG w) (toP (fD w)) (fA w) (fB w)) else none
  | 0x45 => if (fD w).val < 32 ∧ fX w = 0 then some (.vcmpltI32 (fG w) (toP (fD w)) (fA w) (fB w)) else none
  | 0x46 => if (fD w).val < 32 ∧ fX w = 0 then some (.vcmpltuI32 (fG w) (toP (fD w)) (fA w) (fB w)) else none
  | 0x48 => if fX w = 0 then some (.vcvtBf16F32Rne (fG w) (fD w) (fA w) (fB w)) else none
  | 0x49 => if fX w = 0 then some (.vcvtBf16F32Sr (fG w) (fD w) (fA w) (fB w)) else none
  | 0x4A => if (fB w).val < 2 ∧ fX w = 0 then some (.vcvtF32Bf16 (fG w) (fD w) (fA w) (Fin.ofNat 2 (fB w).val)) else none
  | 0x4B => if (fX w).val < 2 then some (.vcvtFp8e4F32Rne (fG w) (fD w) (fA w) (fB w) (Fin.ofNat 2 (fX w).val)) else none
  | 0x4C => if (fX w).val < 2 then some (.vcvtFp8e4F32Sat (fG w) (fD w) (fA w) (fB w) (Fin.ofNat 2 (fX w).val)) else none
  | 0x4D => if (fX w).val < 2 then some (.vcvtFp8e4F32Sr (fG w) (fD w) (fA w) (fB w) (Fin.ofNat 2 (fX w).val)) else none
  | 0x4E => if (fX w).val < 2 then some (.vcvtFp8e4F32Srsat (fG w) (fD w) (fA w) (fB w) (Fin.ofNat 2 (fX w).val)) else none
  | 0x4F => if (fX w).val < 2 then some (.vcvtFp8e5F32Rne (fG w) (fD w) (fA w) (fB w) (Fin.ofNat 2 (fX w).val)) else none
  | 0x50 => if (fX w).val < 2 then some (.vcvtFp8e5F32Sat (fG w) (fD w) (fA w) (fB w) (Fin.ofNat 2 (fX w).val)) else none
  | 0x51 => if (fX w).val < 2 then some (.vcvtFp8e5F32Sr (fG w) (fD w) (fA w) (fB w) (Fin.ofNat 2 (fX w).val)) else none
  | 0x52 => if (fX w).val < 2 then some (.vcvtFp8e5F32Srsat (fG w) (fD w) (fA w) (fB w) (Fin.ofNat 2 (fX w).val)) else none
  | 0x53 => if (fB w).val < 4 ∧ fX w = 0 then some (.vcvtF32Fp8e4 (fG w) (fD w) (fA w) (Fin.ofNat 4 (fB w).val)) else none
  | 0x54 => if (fB w).val < 4 ∧ fX w = 0 then some (.vcvtF32Fp8e5 (fG w) (fD w) (fA w) (Fin.ofNat 4 (fB w).val)) else none
  | 0x55 => some (.vcvtFp4F32Rne (fG w) (fD w) (fA w) (fB w) (fX w))
  | 0x56 => some (.vcvtFp4F32Sr (fG w) (fD w) (fA w) (fB w) (fX w))
  | 0x57 => if (fB w).val < 8 ∧ fX w = 0 then some (.vcvtF32Fp4 (fG w) (fD w) (fA w) (Fin.ofNat 8 (fB w).val)) else none
  | 0x58 => if fB w = 0 ∧ fX w = 0 then some (.vcvtI32F32Rne (fG w) (fD w) (fA w)) else none
  | 0x59 => if fB w = 0 ∧ fX w = 0 then some (.vcvtI32F32Rtz (fG w) (fD w) (fA w)) else none
  | 0x5A => if fB w = 0 ∧ fX w = 0 then some (.vcvtF32I32 (fG w) (fD w) (fA w)) else none
  | 0x5B => if fB w = 0 ∧ fD w ≠ fA w then some (.vcvtRnsI32 (fG w) (fD w) (fA w) (toRamp (fX w))) else none
  | 0x5C => if fB w = 0 ∧ fX w = 0 then some (.vcvtI32Rns (fG w) (fD w) (fA w)) else none
  | 0x5D => if (fX w).val < 2 then some (.vcvtInt8I32Sat (fG w) (fD w) (fA w) (fB w) (Fin.ofNat 2 (fX w).val)) else none
  | 0x5E => if (fA w).val % 2 = 0 ∧ (fX w).val < 2 then some (.vqmxFp8e4 (fG w) (fD w) (toPair (fA w)) (fB w) (Fin.ofNat 2 (fX w).val)) else none
  | 0x5F => if (fA w).val % 2 = 0 then some (.vqmxFp4 (fG w) (fD w) (toPair (fA w)) (fB w) (fX w)) else none
  | 0x64 => if fB w = 0 ∧ fX w = 0 then some (.vrsqaF32 (fG w) (fD w) (fA w)) else none
  | 0x65 => if fB w = 0 ∧ fX w = 0 then some (.vrcpaF32 (fG w) (fD w) (fA w)) else none
  | 0x66 => if fB w = 0 ∧ fX w = 0 then some (.vexp2aF32 (fG w) (fD w) (fA w)) else none
  | 0x67 => if fB w = 0 ∧ fX w = 0 then some (.vlog2aF32 (fG w) (fD w) (fA w)) else none
  | 0x68 => if fB w = 0 ∧ fX w = 0 then some (.vsqrtF32 (fG w) (fD w) (fA w)) else none
  | 0x69 => if fX w = 0 then some (.vdivF32 (fG w) (fD w) (fA w) (fB w)) else none
  | 0x6A => if fB w = 0 ∧ fX w = 0 then some (.vredaddF32 (fG w) (fD w) (fA w)) else none
  | 0x6B => if fB w = 0 ∧ fX w = 0 then some (.vredmaxF32 (fG w) (fD w) (fA w)) else none
  | 0x6C => if fB w = 0 ∧ fX w = 0 then some (.vredaddI32 (fG w) (fD w) (fA w)) else none
  | 0x6D => if (fI8 w).toNat < 64 then some (.vbcastl (fG w) (fD w) (fA w) (Fin.ofNat 64 (fI8 w).toNat)) else none
  | 0x6E => if fX w = 0 then some (.vperm (fG w) (fD w) (fA w) (fB w)) else none
  | 0x70 => if fA w = 0 ∧ fB w = 0 ∧ fX w = 0 then some (.verase (fG w) (fD w)) else none
  | 0x71 => if fA w = 0 ∧ (fI8 w).toNat < 16 ∧ retagOk (Fin.ofNat 16 (fI8 w).toNat) then some (.vretag (fG w) (fD w) (Fin.ofNat 16 (fI8 w).toNat)) else none
  | 0x72 => if fB w = 0 ∧ fX w = 0 then some (.vtagq (fG w) (fD w) (fA w)) else none
  | _ => none

/-- The syllable of the M slot (position 2; R58); lit is the payload of a literal it owns (R53). A reserved major (R59), a field
outside its kind or a non-zero unused field (R50), and an undefined variant (R51) decode to nothing. -/
def decodeM (w : Half) : Option Instr :=
  match major w with
  | 0x01 => if mC w = 0 ∧ mV w = 0 then some (.wldBf16 (fG w) (mW w) (mA w) (mB w) (toRamp (mR w))) else none
  | 0x02 => if mC w = 0 ∧ mV w = 0 then some (.wldFp8e4 (fG w) (mW w) (mA w) (mB w) (toRamp (mR w))) else none
  | 0x03 => if mC w = 0 ∧ mV w = 0 then some (.wldFp8e5 (fG w) (mW w) (mA w) (mB w) (toRamp (mR w))) else none
  | 0x04 => if mC w = 0 ∧ mV w = 0 then some (.wldFp4 (fG w) (mW w) (mA w) (mB w) (toRamp (mR w))) else none
  | 0x05 => if mC w = 0 ∧ mV w = 0 then some (.wldInt8 (fG w) (mW w) (mA w) (mB w) (toRamp (mR w))) else none
  | 0x06 => if mC w = 0 then some (.wldt (fG w) (mW w) (mA w) (mB w) (toRamp (mR w)) (mV w)) else none
  | 0x07 => if mC w = 0 ∧ mA w = 0 ∧ mB w = 0 ∧ mR w = 0 ∧ mV w = 0 then some (.wclr (fG w) (mW w)) else none
  | 0x10 => if mV w = 0 then some (.mmaBf16 (fG w) (mC w) (mW w) (mA w) (mB w) (toRamp (mR w))) else none
  | 0x11 => if mV w = 0 then some (.mmaFp8e4 (fG w) (mC w) (mW w) (mA w) (mB w) (toRamp (mR w))) else none
  | 0x12 => if mV w = 0 then some (.mmaFp8e5 (fG w) (mC w) (mW w) (mA w) (mB w) (toRamp (mR w))) else none
  | 0x13 => if mV w = 0 then some (.mmaFp4 (fG w) (mC w) (mW w) (mA w) (mB w) (toRamp (mR w))) else none
  | 0x14 => if mV w = 0 then some (.mmaI8r (fG w) (mC w) (mW w) (mA w) (mB w) (toRamp (mR w))) else none
  | 0x15 => if mV w = 0 then some (.mmsI8r (fG w) (mC w) (mW w) (mA w) (mB w) (toRamp (mR w))) else none
  | 0x20 => if mW w = 0 ∧ mA w = 0 ∧ mB w = 0 ∧ mR w = 0 ∧ mV w = 0 then some (.aclr (fG w) (mC w)) else none
  | 0x21 => if mW w = 0 ∧ mR w = 0 ∧ mV w = 0 then some (.afillF32 (fG w) (mC w) (mA w) (mB w)) else none
  | 0x22 => if mW w = 0 ∧ mR w = 0 ∧ mV w = 0 then some (.afillRns (fG w) (mC w) (mA w) (mB w)) else none
  | 0x23 => if mW w = 0 ∧ mB w = 0 ∧ mR w = 0 ∧ mV w = 0 then some (.astat (fG w) (mC w) (mA w)) else none
  | 0x30 => if mW w = 0 ∧ mR w = 0 ∧ mV w = 0 then some (.drainF32 (fG w) (mC w) (mA w) (mB w)) else none
  | 0x31 => if mW w = 0 ∧ mR w = 0 ∧ mV w = 0 then some (.drainBf16 (fG w) (mC w) (mA w) (mB w)) else none
  | 0x32 => if mR w = 0 then some (.drainAdd (fG w) (mC w) (mW w) (mA w) (mB w) (mV w)) else none
  | 0x33 => if mR w = 0 then some (.drainAddc (fG w) (mC w) (mW w) (mA w) (mB w) (mV w)) else none
  | 0x34 => if mW w = 0 ∧ mR w = 0 ∧ mV w = 0 then some (.drainRns (fG w) (mC w) (mA w) (mB w)) else none
  | 0x35 => if mW w = 0 ∧ mR w = 0 ∧ mV w = 0 then some (.drainI32 (fG w) (mC w) (mA w) (mB w)) else none
  | _ => none

/-- The syllable of the C slot (position 3; R58); lit is the payload of a literal it owns (R53). A reserved major (R59), a field
outside its kind or a non-zero unused field (R50), and an undefined variant (R51) decode to nothing. -/
def decodeC (w : Half) : Option Instr :=
  match major w with
  | 0x01 => if (fB w).val % 2 = 0 then some (.cpyIn (fG w) (fD w) (fA w) (toPair (fB w)) (fX w)) else none
  | 0x02 => if (fB w).val % 2 = 0 ∧ fX w = 0 then some (.cpyInx (fG w) (fD w) (fA w) (toPair (fB w))) else none
  | 0x03 => if (fB w).val % 2 = 0 then some (.cpyOut (fG w) (fD w) (fA w) (toPair (fB w)) (fX w)) else none
  | 0x04 => if (fB w).val % 2 = 0 then some (.cpyPeer (fG w) (fD w) (fA w) (toPair (fB w)) (fX w)) else none
  | 0x05 => if (fB w).val % 2 = 0 then some (.cpyMc (fG w) (fD w) (fA w) (toPair (fB w)) (fX w)) else none
  | 0x06 => if (fB w).val % 2 = 0 then some (.cpyT (fG w) (fD w) (fA w) (toPair (fB w)) (fX w)) else none
  | 0x07 => if (fB w).val % 2 = 0 then some (.cpyFab (fG w) (fD w) (fA w) (toPair (fB w)) (fX w)) else none
  | 0x08 => if (fB w).val % 2 = 0 then some (.cpyRin (fG w) (fD w) (fA w) (toPair (fB w)) (fX w)) else none
  | 0x09 => if (fB w).val % 2 = 0 then some (.cpyHost (fG w) (fD w) (fA w) (toPair (fB w)) (fX w)) else none
  | 0x10 => if fB w = 0 ∧ fX w = 0 then some (.twany (fG w) (fD w) (fA w)) else none
  | 0x11 => if fD w = 0 ∧ fB w = 0 ∧ fX w = 0 then some (.twall (fG w) (fA w)) else none
  | 0x12 => if fB w = 0 ∧ fX w = 0 then some (.tfirst (fG w) (fD w) (fA w)) else none
  | 0x13 => if fD w = 0 ∧ fB w = 0 ∧ fX w = 0 then some (.tclr (fG w) (fA w)) else none
  | 0x14 => if (fI8 w).toNat < 64 then some (.tstat (fG w) (fD w) (fA w) (Fin.ofNat 64 (fI8 w).toNat)) else none
  | 0x15 => if fD w = 0 ∧ (fI14 w).toNat < 16 then some (.qfence (fG w) (BitVec.ofNat 4 (fI14 w).toNat)) else none
  | 0x18 => if (fD w).val < 16 ∧ fA w = 0 ∧ (fI8 w).toNat < 64 then some (.rwait (fG w) (toRing (fD w)) (Fin.ofNat 64 (fI8 w).toNat)) else none
  | 0x19 => if (fD w).val < 16 ∧ fA w = 0 ∧ (fI8 w).toNat < 64 then some (.rfree (fG w) (toRing (fD w)) (Fin.ofNat 64 (fI8 w).toNat)) else none
  | 0x1A => if (fD w).val < 16 ∧ fA w = 0 then some (.radvp (fG w) (toRing (fD w)) (Fin.ofNat 4 ((fI8 w).toNat / 64)) (Fin.ofNat 64 (fI8 w).toNat)) else none
  | 0x1B => if (fD w).val < 16 ∧ fA w = 0 ∧ (fI8 w).toNat < 64 then some (.radvc (fG w) (toRing (fD w)) (Fin.ofNat 64 (fI8 w).toNat)) else none
  | 0x1C => if (fD w).val < 16 ∧ fI8 w = 0 then some (.rset (fG w) (toRing (fD w)) (fA w)) else if (fD w).val < 16 ∧ fA w = 0 ∧ fI8 w = 1 then some (.rsetUnconfigure (fG w) (toRing (fD w))) else none
  | 0x20 => if fB w = 0 ∧ fX w = 0 then some (.tlook (fG w) (fD w) (fA w)) else none
  | 0x21 => if fX w = 0 then some (.tins (fG w) (fD w) (fA w) (fB w)) else none
  | 0x22 => if fB w = 0 ∧ fX w = 0 then some (.tdel (fG w) (fD w) (fA w)) else none
  | 0x28 => if fD w = 0 ∧ fX w = 0 then some (.lstW (fG w) (fA w) (fB w)) else none
  | 0x29 => if fD w = 0 ∧ fX w = 0 then some (.lstD (fG w) (fA w) (fB w)) else none
  | 0x2A => if fD w = 0 ∧ fX w = 0 then some (.lstv (fG w) (fA w) (fB w)) else none
  | 0x2B => if fA w = 0 ∧ (fB w).val % 2 = 0 ∧ fX w = 0 then some (.rel (fG w) (fD w) (toPair (fB w))) else none
  | 0x2C => if (fB w).val % 2 = 0 ∧ fX w = 0 then some (.acq (fG w) (fD w) (fA w) (toPair (fB w))) else none
  | 0x2D => if (fB w).val % 2 = 0 ∧ fX w = 0 then some (.acqs (fG w) (fD w) (fA w) (toPair (fB w))) else none
  | 0x2E => if fA w = 0 ∧ (fB w).val % 2 = 0 ∧ fX w = 0 then some (.phase (fG w) (fD w) (toPair (fB w))) else none
  | 0x30 => if (fB w).val % 2 = 0 ∧ fX w = 0 then some (.synAdd (fG w) (fD w) (fA w) (toPair (fB w))) else none
  | 0x31 => if (fB w).val % 2 = 0 ∧ fX w = 0 then some (.synCas (fG w) (fD w) (fA w) (toPair (fB w))) else none
  | 0x32 => if (fB w).val % 2 = 0 ∧ fX w = 0 then some (.synMin (fG w) (fD w) (fA w) (toPair (fB w))) else none
  | 0x33 => if (fB w).val % 2 = 0 ∧ fX w = 0 then some (.synMax (fG w) (fD w) (fA w) (toPair (fB w))) else none
  | 0x34 => if (fB w).val % 2 = 0 ∧ fX w = 0 then some (.synXch (fG w) (fD w) (fA w) (toPair (fB w))) else none
  | 0x35 => if (fB w).val % 2 = 0 ∧ fX w = 0 then some (.synLd (fG w) (fD w) (fA w) (toPair (fB w))) else none
  | 0x36 => if (fB w).val % 2 = 0 ∧ fX w = 0 then some (.synPost (fG w) (fD w) (fA w) (toPair (fB w))) else none
  | 0x37 => if (fB w).val % 2 = 0 ∧ fX w = 0 then some (.synWait (fG w) (fD w) (fA w) (toPair (fB w))) else none
  | 0x38 => if (fB w).val % 2 = 0 ∧ fX w = 0 then some (.synBar (fG w) (fD w) (fA w) (toPair (fB w))) else none
  | 0x40 => if fD w = 0 ∧ (fB w).val % 2 = 0 ∧ fX w = 0 then some (.fork (fG w) (fA w) (toPair (fB w))) else none
  | 0x41 => if fD w = 0 ∧ fB w = 0 ∧ fX w = 0 then some (.grwd (fG w) (fA w)) else none
  | 0x42 => if fD w = 0 ∧ fA w = 0 ∧ fB w = 0 ∧ fX w = 0 then some (.gbar (fG w)) else none
  | 0x43 => if fD w = 0 ∧ fB w = 0 ∧ fX w = 0 then some (.gcancel (fG w) (fA w)) else none
  | 0x44 => if fD w = 0 ∧ fA w = 0 ∧ fB w = 0 ∧ fX w = 0 then some (.gquit (fG w)) else none
  | 0x45 => if fD w = 0 ∧ fA w = 0 ∧ (fB w).val % 2 = 0 ∧ fX w = 0 then some (.gstat (fG w) (toPair (fB w))) else none
  | 0x48 => if fA w = 0 ∧ (fB w).val % 2 = 0 ∧ fX w = 0 then some (.publish (fG w) (fD w) (toPair (fB w))) else none
  | 0x49 => if fD w = 0 ∧ (fB w).val % 2 = 0 ∧ fX w = 0 then some (.launch (fG w) (fA w) (toPair (fB w))) else none
  | 0x4A => if fD w = 0 ∧ fB w = 0 ∧ fX w = 0 then some (.cancel (fG w) (fA w)) else none
  | _ => none

/-- The syllable w in position pos, with the payload of its literal. The all-zero syllable is NOP in every slot (R16, R48);
a major of 0 with any other bit set is reserved. -/
def decodeSyl (pos : Fin 4) (w : Half) (lit : Option (BitVec 24)) : Option Instr :=
  if w = 0 then some .nop
  else match pos with
    | 0 => decodeS w lit
    | 1 => decodeV w lit
    | 2 => decodeM w
    | 3 => decodeC w

/-- Syllable j of a bundle: bits [32j+31:32j] (R15). -/
def sylAt (b : BitVec 128) (j : Nat) : Half := b.extractLsb' (32 * j) 32

/-- A literal syllable: major 0x7F in position 1, 2 or 3 (R53). -/
def isLit (b : BitVec 128) (j : Nat) : Bool := 1 ≤ j && j ≤ 3 && major (sylAt b j) == 0x7F

/-- Majors whose entry takes a literal in RRI format (R53, R54). -/
def ownsRri (pos : Nat) (m : Nat) : Bool :=
  (pos == 0 && ((0x20 ≤ m && m ≤ 0x23) || m == 0x36 || m == 0x37 || (0x40 ≤ m && m ≤ 0x47) || m == 0x54)) ||
  (pos == 1 && ((1 ≤ m && m ≤ 0x0A) || m == 0x71))

/-- Majors whose entry takes a literal in RI format: LI, LIH and REGIONC (R53, R54). -/
def ownsRi (pos : Nat) (m : Nat) : Bool := pos == 0 && (m == 0x27 || m == 0x28 || m == 0x57)

/-- The literal in position j is well formed (R54). Its owner is the nearest lower syllable that is no literal, so a literal
accepted by it stands directly above it, alone. -/
def litOk (b : BitVec 128) (j : Nat) : Bool :=
  let owner := sylAt b (j - 1)
  !(sylAt b j).getLsbD 24 && !isLit b (j - 1) && !isLit b (j + 1) &&
    (ownsRri (j - 1) (major owner) || (ownsRi (j - 1) (major owner) && (fI14 owner).extractLsb' 8 6 == 0))

/-- The payload of the literal directly above position j, which extends the immediate there (R53). A literal that breaks R54 is an
offender of its own, in its own position. -/
def litOf (b : BitVec 128) (j : Nat) : Option (BitVec 24) :=
  if isLit b (j + 1) then some ((sylAt b (j + 1)).extractLsb' 0 24) else none

/-- A decoded bundle: what issues in each slot; NOP where a literal stands (R16). -/
structure Bundle where
  s : Instr
  v : Instr
  m : Instr
  c : Instr
  deriving DecidableEq, Repr

/-- Position j of a bundle, decoded: NOP for a well-formed literal, nothing for an offending syllable (R65). -/
def decodeAt (b : BitVec 128) (j : Fin 4) : Option Instr :=
  if isLit b j.val then (if litOk b j.val then some .nop else none)
  else decodeSyl j (sylAt b j.val) (litOf b j.val)

/-- A bundle, or the position of its first offending syllable (R65). Total on any 128 bits. -/
def decodeBundle (b : BitVec 128) : Except (Fin 4) Bundle :=
  match decodeAt b 0 with
  | none => .error 0
  | some s =>
    match decodeAt b 1 with
    | none => .error 1
    | some v =>
      match decodeAt b 2 with
      | none => .error 2
      | some m =>
        match decodeAt b 3 with
        | none => .error 3
        | some c => .ok ⟨s, v, m, c⟩

/-- The 16 bytes at a bundle address, each syllable little-endian (R15). -/
def bundleOfBytes (bs : List Byte) : BitVec 128 :=
  BitVec.ofNat 128 (bs.foldr (fun x acc => x.toNat + 256 * acc) 0)

/-- The decoder on bytes: the first 16, rejecting a shorter text at position 0. -/
def decodeBytes (bs : List Byte) : Except (Fin 4) Bundle :=
  if bs.length < 16 then .error 0 else decodeBundle (bundleOfBytes (bs.take 16))

/-- Where the words of an instruction stand: its position, its syllable, the payload of its literal. -/
structure Words where
  pos : Fin 4
  syl : Half
  lit : Option (BitVec 24)
  deriving DecidableEq, Repr

/-- The words of an instruction, from the same formats: its position, its syllable and the payload of its literal. A step of
the device has no words. -/
def encode : Instr → Option Words
  | .nop => some ⟨0, 0, none⟩
  | .add g d a b => some ⟨0, rrr 1 d a b 0 g, none⟩
  | .sub g d a b => some ⟨0, rrr 2 d a b 0 g, none⟩
  | .mul g d a b => some ⟨0, rrr 3 d a b 0 g, none⟩
  | .mulh g d a b => some ⟨0, rrr 4 d a b 0 g, none⟩
  | .mulhu g d a b => some ⟨0, rrr 5 d a b 0 g, none⟩
  | .div g d a b => some ⟨0, rrr 6 d a b 0 g, none⟩
  | .divu g d a b => some ⟨0, rrr 7 d a b 0 g, none⟩
  | .rem g d a b => some ⟨0, rrr 8 d a b 0 g, none⟩
  | .remu g d a b => some ⟨0, rrr 9 d a b 0 g, none⟩
  | .and g d a b => some ⟨0, rrr 10 d a b 0 g, none⟩
  | .or g d a b => some ⟨0, rrr 11 d a b 0 g, none⟩
  | .xor g d a b => some ⟨0, rrr 12 d a b 0 g, none⟩
  | .andn g d a b => some ⟨0, rrr 13 d a b 0 g, none⟩
  | .shl g d a b => some ⟨0, rrr 14 d a b 0 g, none⟩
  | .shr g d a b => some ⟨0, rrr 15 d a b 0 g, none⟩
  | .sra g d a b => some ⟨0, rrr 16 d a b 0 g, none⟩
  | .min g d a b => some ⟨0, rrr 17 d a b 0 g, none⟩
  | .max g d a b => some ⟨0, rrr 18 d a b 0 g, none⟩
  | .minu g d a b => some ⟨0, rrr 19 d a b 0 g, none⟩
  | .maxu g d a b => some ⟨0, rrr 20 d a b 0 g, none⟩
  | .sel g d a b => some ⟨0, rrr 21 d a b 0 g, none⟩
  | .clz g d a => some ⟨0, rrr 22 d a 0 0 g, none⟩
  | .popc g d a => some ⟨0, rrr 23 d a 0 0 g, none⟩
  | .lea g d a b x => some ⟨0, rrr 24 d a b x g, none⟩
  | .addi g d a imm => some ⟨0, rri 32 d a imm.low g, imm.lit⟩
  | .andi g d a imm => some ⟨0, rri 33 d a imm.low g, imm.lit⟩
  | .ori g d a imm => some ⟨0, rri 34 d a imm.low g, imm.lit⟩
  | .xori g d a imm => some ⟨0, rri 35 d a imm.low g, imm.lit⟩
  | .shli g d a imm => some ⟨0, rri 36 d a (BitVec.ofNat 8 imm.val) g, none⟩
  | .shri g d a imm => some ⟨0, rri 37 d a (BitVec.ofNat 8 imm.val) g, none⟩
  | .srai g d a imm => some ⟨0, rri 38 d a (BitVec.ofNat 8 imm.val) g, none⟩
  | .li g d imm => some ⟨0, ri 39 d imm.low g, imm.lit⟩
  | .lih g d imm => some ⟨0, ri 40 d imm.low g, imm.lit⟩
  | .cmpeq g d a b => some ⟨0, rrr 48 (ofP d) a b 0 g, none⟩
  | .cmpne g d a b => some ⟨0, rrr 49 (ofP d) a b 0 g, none⟩
  | .cmplt g d a b => some ⟨0, rrr 50 (ofP d) a b 0 g, none⟩
  | .cmpltu g d a b => some ⟨0, rrr 51 (ofP d) a b 0 g, none⟩
  | .cmple g d a b => some ⟨0, rrr 52 (ofP d) a b 0 g, none⟩
  | .cmpleu g d a b => some ⟨0, rrr 53 (ofP d) a b 0 g, none⟩
  | .cmpeqi g d a imm => some ⟨0, rri 54 (ofP d) a imm.low g, imm.lit⟩
  | .cmplti g d a imm => some ⟨0, rri 55 (ofP d) a imm.low g, imm.lit⟩
  | .pand g d a b => some ⟨0, rrr 56 (ofP d) (ofP a) (ofP b) 0 g, none⟩
  | .por g d a b => some ⟨0, rrr 57 (ofP d) (ofP a) (ofP b) 0 g, none⟩
  | .pxor g d a b => some ⟨0, rrr 58 (ofP d) (ofP a) (ofP b) 0 g, none⟩
  | .pandn g d a b => some ⟨0, rrr 59 (ofP d) (ofP a) (ofP b) 0 g, none⟩
  | .pnot g d a => some ⟨0, rrr 60 (ofP d) (ofP a) 0 0 g, none⟩
  | .pbit g d a n => some ⟨0, rri 61 (ofP d) a (BitVec.ofNat 8 n.val) g, none⟩
  | .ldb g d a imm => some ⟨0, rri 64 d a imm.low g, imm.lit⟩
  | .ldbz g d a imm => some ⟨0, rri 65 d a imm.low g, imm.lit⟩
  | .ldw g d a imm => some ⟨0, rri 66 d a imm.low g, imm.lit⟩
  | .ldwz g d a imm => some ⟨0, rri 67 d a imm.low g, imm.lit⟩
  | .ldd g d a imm => some ⟨0, rri 68 d a imm.low g, imm.lit⟩
  | .stb g d a imm => some ⟨0, rri 69 d a imm.low g, imm.lit⟩
  | .stw g d a imm => some ⟨0, rri 70 d a imm.low g, imm.lit⟩
  | .std g d a imm => some ⟨0, rri 71 d a imm.low g, imm.lit⟩
  | .br g disp => some ⟨0, brf 80 disp g, none⟩
  | .brl g disp => some ⟨0, brf 81 disp g, none⟩
  | .jmp g a => some ⟨0, rrr 82 0 a 0 0 g, none⟩
  | .jmpl g a => some ⟨0, rrr 83 0 a 0 0 g, none⟩
  | .loop g d a imm => some ⟨0, rri 84 d a imm.low g, imm.lit⟩
  | .cloop g disp => some ⟨0, brf 85 disp g, none⟩
  | .region g => some ⟨0, ri 86 0 0 g, none⟩
  | .regionc g imm lit => some ⟨0, ri 87 0 (BitVec.ofNat 14 imm.toNat) g, some lit⟩
  | .endTask g imm => some ⟨0, ri 88 0 (BitVec.ofNat 14 imm.toNat) g, none⟩
  | .yield g => some ⟨0, ri 89 0 0 g, none⟩
  | .trap g imm => some ⟨0, ri 90 0 (BitVec.ofNat 14 imm.toNat) g, none⟩
  | .calsync g => some ⟨0, ri 91 0 0 g, none⟩
  | .rdsr g d imm => some ⟨0, rri 96 d 0 imm g, none⟩
  | .wrsr g a imm => some ⟨0, rri 97 0 a imm g, none⟩
  | .sret g => some ⟨0, ri 98 0 0 g, none⟩
  | .tlbi g d a b x => some ⟨0, rrr 99 d a b x g, none⟩
  | .vldRaw g d a imm => some ⟨1, rri 1 d a imm.low g, imm.lit⟩
  | .vldI32 g d a imm => some ⟨1, rri 2 d a imm.low g, imm.lit⟩
  | .vldF32 g d a imm => some ⟨1, rri 3 d a imm.low g, imm.lit⟩
  | .vldBf16 g d a imm => some ⟨1, rri 4 d a imm.low g, imm.lit⟩
  | .vldFp8e4 g d a imm => some ⟨1, rri 5 d a imm.low g, imm.lit⟩
  | .vldFp8e5 g d a imm => some ⟨1, rri 6 d a imm.low g, imm.lit⟩
  | .vldFp4 g d a imm => some ⟨1, rri 7 d a imm.low g, imm.lit⟩
  | .vldInt8 g d a imm => some ⟨1, rri 8 d a imm.low g, imm.lit⟩
  | .vldRns g d a imm => some ⟨1, rri 9 d a imm.low g, imm.lit⟩
  | .vst g d a imm => some ⟨1, rri 10 d a imm.low g, imm.lit⟩
  | .vlds g d a b x => some ⟨1, rrr 11 d a b x g, none⟩
  | .vbcst g d a t => some ⟨1, rri 12 d a (BitVec.ofNat 8 t.val) g, none⟩
  | .vspill g d a b => some ⟨1, rrr 13 d a b 0 g, none⟩
  | .vfill g d a b => some ⟨1, rrr 14 d a b 0 g, none⟩
  | .vmovs g d a t n => some ⟨1, rri 15 d a (BitVec.ofNat 8 (n.val + 64 * t.val)) g, none⟩
  | .vmovv g d a b => some ⟨1, rrr 16 d a b 0 g, none⟩
  | .vxor g d a r => some ⟨1, rrr 20 d a 0 (ofRamp r) g, none⟩
  | .vcopy g d a r => some ⟨1, rrr 21 d a 0 (ofRamp r) g, none⟩
  | .vaddrI32 g d a r => some ⟨1, rrr 22 d a 0 (ofRamp r) g, none⟩
  | .vsubrI32 g d a r => some ⟨1, rrr 23 d a 0 (ofRamp r) g, none⟩
  | .vnegrI32 g d r => some ⟨1, rrr 24 d 0 0 (ofRamp r) g, none⟩
  | .vrotl g d a r => some ⟨1, rrr 25 d a 0 (ofRamp r) g, none⟩
  | .vswap g d a r => some ⟨1, rrr 26 d a 0 (ofRamp r) g, none⟩
  | .vcswap g d a b r => some ⟨1, rrr 27 d a b (ofRamp r) g, none⟩
  | .vpermr g d a r => some ⟨1, rrr 28 d a 0 (ofRamp r) g, none⟩
  | .vrnsAdd g d a r => some ⟨1, rrr 29 d a 0 (ofRamp r) g, none⟩
  | .vrnsSub g d a r => some ⟨1, rrr 30 d a 0 (ofRamp r) g, none⟩
  | .vrnsNeg g d r => some ⟨1, rrr 31 d 0 0 (ofRamp r) g, none⟩
  | .vrnsMulc g d b r => some ⟨1, rrr 32 d 0 b (ofRamp r) g, none⟩
  | .vaddF32 g d a b => some ⟨1, rrr 36 d a b 0 g, none⟩
  | .vsubF32 g d a b => some ⟨1, rrr 37 d a b 0 g, none⟩
  | .vmulF32 g d a b => some ⟨1, rrr 38 d a b 0 g, none⟩
  | .vfmaF32 g d a b => some ⟨1, rrr 39 d a b 0 g, none⟩
  | .vfmsF32 g d a b => some ⟨1, rrr 40 d a b 0 g, none⟩
  | .vminF32 g d a b => some ⟨1, rrr 41 d a b 0 g, none⟩
  | .vmaxF32 g d a b => some ⟨1, rrr 42 d a b 0 g, none⟩
  | .vabsF32 g d a => some ⟨1, rrr 43 d a 0 0 g, none⟩
  | .vnegF32 g d a => some ⟨1, rrr 44 d a 0 0 g, none⟩
  | .vaddBf16 g d a b => some ⟨1, rrr 45 d a b 0 g, none⟩
  | .vmulBf16 g d a b => some ⟨1, rrr 46 d a b 0 g, none⟩
  | .vfmaBf16 g d a b => some ⟨1, rrr 47 d a b 0 g, none⟩
  | .vaddI32 g d a b => some ⟨1, rrr 48 d a b 0 g, none⟩
  | .vsubI32 g d a b => some ⟨1, rrr 49 d a b 0 g, none⟩
  | .vmulI32 g d a b => some ⟨1, rrr 50 d a b 0 g, none⟩
  | .vmulhI32 g d a b => some ⟨1, rrr 51 d a b 0 g, none⟩
  | .vand g d a b => some ⟨1, rrr 52 d a b 0 g, none⟩
  | .vor g d a b => some ⟨1, rrr 53 d a b 0 g, none⟩
  | .vandn g d a b => some ⟨1, rrr 54 d a b 0 g, none⟩
  | .vshlI32 g d a b => some ⟨1, rrr 55 d a b 0 g, none⟩
  | .vshrI32 g d a b => some ⟨1, rrr 56 d a b 0 g, none⟩
  | .vsraI32 g d a b => some ⟨1, rrr 57 d a b 0 g, none⟩
  | .vminI32 g d a b => some ⟨1, rrr 58 d a b 0 g, none⟩
  | .vmaxI32 g d a b => some ⟨1, rrr 59 d a b 0 g, none⟩
  | .vsel g d a b => some ⟨1, rrr 60 d a b 0 g, none⟩
  | .vmov g d a => some ⟨1, rrr 61 d a 0 0 g, none⟩
  | .vsplat g d a t => some ⟨1, rri 62 d a (BitVec.ofNat 8 t.val) g, none⟩
  | .vcmpeqF32 g d a b => some ⟨1, rrr 64 (ofP d) a b 0 g, none⟩
  | .vcmpltF32 g d a b => some ⟨1, rrr 65 (ofP d) a b 0 g, none⟩
  | .vcmpleF32 g d a b => some ⟨1, rrr 66 (ofP d) a b 0 g, none⟩
  | .vcmpunF32 g d a b => some ⟨1, rrr 67 (ofP d) a b 0 g, none⟩
  | .vcmpeqI32 g d a b => some ⟨1, rrr 68 (ofP d) a b 0 g, none⟩
  | .vcmpltI32 g d a b => some ⟨1, rrr 69 (ofP d) a b 0 g, none⟩
  | .vcmpltuI32 g d a b => some ⟨1, rrr 70 (ofP d) a b 0 g, none⟩
  | .vcvtBf16F32Rne g d a b => some ⟨1, rrr 72 d a b 0 g, none⟩
  | .vcvtBf16F32Sr g d a b => some ⟨1, rrr 73 d a b 0 g, none⟩
  | .vcvtF32Bf16 g d a k => some ⟨1, rrr 74 d a (Fin.ofNat 64 k.val) 0 g, none⟩
  | .vcvtFp8e4F32Rne g d a b x => some ⟨1, rrr 75 d a b (Fin.ofNat 4 x.val) g, none⟩
  | .vcvtFp8e4F32Sat g d a b x => some ⟨1, rrr 76 d a b (Fin.ofNat 4 x.val) g, none⟩
  | .vcvtFp8e4F32Sr g d a b x => some ⟨1, rrr 77 d a b (Fin.ofNat 4 x.val) g, none⟩
  | .vcvtFp8e4F32Srsat g d a b x => some ⟨1, rrr 78 d a b (Fin.ofNat 4 x.val) g, none⟩
  | .vcvtFp8e5F32Rne g d a b x => some ⟨1, rrr 79 d a b (Fin.ofNat 4 x.val) g, none⟩
  | .vcvtFp8e5F32Sat g d a b x => some ⟨1, rrr 80 d a b (Fin.ofNat 4 x.val) g, none⟩
  | .vcvtFp8e5F32Sr g d a b x => some ⟨1, rrr 81 d a b (Fin.ofNat 4 x.val) g, none⟩
  | .vcvtFp8e5F32Srsat g d a b x => some ⟨1, rrr 82 d a b (Fin.ofNat 4 x.val) g, none⟩
  | .vcvtF32Fp8e4 g d a k => some ⟨1, rrr 83 d a (Fin.ofNat 64 k.val) 0 g, none⟩
  | .vcvtF32Fp8e5 g d a k => some ⟨1, rrr 84 d a (Fin.ofNat 64 k.val) 0 g, none⟩
  | .vcvtFp4F32Rne g d a b x => some ⟨1, rrr 85 d a b x g, none⟩
  | .vcvtFp4F32Sr g d a b x => some ⟨1, rrr 86 d a b x g, none⟩
  | .vcvtF32Fp4 g d a k => some ⟨1, rrr 87 d a (Fin.ofNat 64 k.val) 0 g, none⟩
  | .vcvtI32F32Rne g d a => some ⟨1, rrr 88 d a 0 0 g, none⟩
  | .vcvtI32F32Rtz g d a => some ⟨1, rrr 89 d a 0 0 g, none⟩
  | .vcvtF32I32 g d a => some ⟨1, rrr 90 d a 0 0 g, none⟩
  | .vcvtRnsI32 g d a r => some ⟨1, rrr 91 d a 0 (ofRamp r) g, none⟩
  | .vcvtI32Rns g d a => some ⟨1, rrr 92 d a 0 0 g, none⟩
  | .vcvtInt8I32Sat g d a b x => some ⟨1, rrr 93 d a b (Fin.ofNat 4 x.val) g, none⟩
  | .vqmxFp8e4 g d a b x => some ⟨1, rrr 94 d (ofPair a) b (Fin.ofNat 4 x.val) g, none⟩
  | .vqmxFp4 g d a b x => some ⟨1, rrr 95 d (ofPair a) b x g, none⟩
  | .vrsqaF32 g d a => some ⟨1, rrr 100 d a 0 0 g, none⟩
  | .vrcpaF32 g d a => some ⟨1, rrr 101 d a 0 0 g, none⟩
  | .vexp2aF32 g d a => some ⟨1, rrr 102 d a 0 0 g, none⟩
  | .vlog2aF32 g d a => some ⟨1, rrr 103 d a 0 0 g, none⟩
  | .vsqrtF32 g d a => some ⟨1, rrr 104 d a 0 0 g, none⟩
  | .vdivF32 g d a b => some ⟨1, rrr 105 d a b 0 g, none⟩
  | .vredaddF32 g d a => some ⟨1, rrr 106 d a 0 0 g, none⟩
  | .vredmaxF32 g d a => some ⟨1, rrr 107 d a 0 0 g, none⟩
  | .vredaddI32 g d a => some ⟨1, rrr 108 d a 0 0 g, none⟩
  | .vbcastl g d a n => some ⟨1, rri 109 d a (BitVec.ofNat 8 n.val) g, none⟩
  | .vperm g d a b => some ⟨1, rrr 110 d a b 0 g, none⟩
  | .verase g d => some ⟨1, rrr 112 d 0 0 0 g, none⟩
  | .vretag g d t => some ⟨1, rri 113 d 0 (BitVec.ofNat 8 t.val) g, none⟩
  | .vtagq g d a => some ⟨1, rrr 114 d a 0 0 g, none⟩
  | .wldBf16 g w a b r => some ⟨2, mx 1 0 w a b (ofRamp r) 0 g, none⟩
  | .wldFp8e4 g w a b r => some ⟨2, mx 2 0 w a b (ofRamp r) 0 g, none⟩
  | .wldFp8e5 g w a b r => some ⟨2, mx 3 0 w a b (ofRamp r) 0 g, none⟩
  | .wldFp4 g w a b r => some ⟨2, mx 4 0 w a b (ofRamp r) 0 g, none⟩
  | .wldInt8 g w a b r => some ⟨2, mx 5 0 w a b (ofRamp r) 0 g, none⟩
  | .wldt g w a b r x => some ⟨2, mx 6 0 w a b (ofRamp r) x g, none⟩
  | .wclr g w => some ⟨2, mx 7 0 w 0 0 0 0 g, none⟩
  | .mmaBf16 g c w a b r => some ⟨2, mx 16 c w a b (ofRamp r) 0 g, none⟩
  | .mmaFp8e4 g c w a b r => some ⟨2, mx 17 c w a b (ofRamp r) 0 g, none⟩
  | .mmaFp8e5 g c w a b r => some ⟨2, mx 18 c w a b (ofRamp r) 0 g, none⟩
  | .mmaFp4 g c w a b r => some ⟨2, mx 19 c w a b (ofRamp r) 0 g, none⟩
  | .mmaI8r g c w a b r => some ⟨2, mx 20 c w a b (ofRamp r) 0 g, none⟩
  | .mmsI8r g c w a b r => some ⟨2, mx 21 c w a b (ofRamp r) 0 g, none⟩
  | .aclr g c => some ⟨2, mx 32 c 0 0 0 0 0 g, none⟩
  | .afillF32 g c a b => some ⟨2, mx 33 c 0 a b 0 0 g, none⟩
  | .afillRns g c a b => some ⟨2, mx 34 c 0 a b 0 0 g, none⟩
  | .astat g c a => some ⟨2, mx 35 c 0 a 0 0 0 g, none⟩
  | .drainF32 g c a b => some ⟨2, mx 48 c 0 a b 0 0 g, none⟩
  | .drainBf16 g c a b => some ⟨2, mx 49 c 0 a b 0 0 g, none⟩
  | .drainAdd g c w a b x => some ⟨2, mx 50 c w a b 0 x g, none⟩
  | .drainAddc g c w a b x => some ⟨2, mx 51 c w a b 0 x g, none⟩
  | .drainRns g c a b => some ⟨2, mx 52 c 0 a b 0 0 g, none⟩
  | .drainI32 g c a b => some ⟨2, mx 53 c 0 a b 0 0 g, none⟩
  | .cpyIn g t a b q => some ⟨3, rrr 1 t a (ofPair b) q g, none⟩
  | .cpyInx g t a b => some ⟨3, rrr 2 t a (ofPair b) 0 g, none⟩
  | .cpyOut g t a b q => some ⟨3, rrr 3 t a (ofPair b) q g, none⟩
  | .cpyPeer g t a b q => some ⟨3, rrr 4 t a (ofPair b) q g, none⟩
  | .cpyMc g t a b q => some ⟨3, rrr 5 t a (ofPair b) q g, none⟩
  | .cpyT g t a b q => some ⟨3, rrr 6 t a (ofPair b) q g, none⟩
  | .cpyFab g t a b q => some ⟨3, rrr 7 t a (ofPair b) q g, none⟩
  | .cpyRin g t a b q => some ⟨3, rrr 8 t a (ofPair b) q g, none⟩
  | .cpyHost g t a b q => some ⟨3, rrr 9 t a (ofPair b) q g, none⟩
  | .twany g d a => some ⟨3, rrr 16 d a 0 0 g, none⟩
  | .twall g a => some ⟨3, rrr 17 0 a 0 0 g, none⟩
  | .tfirst g d a => some ⟨3, rrr 18 d a 0 0 g, none⟩
  | .tclr g a => some ⟨3, rrr 19 0 a 0 0 g, none⟩
  | .tstat g d a n => some ⟨3, rri 20 d a (BitVec.ofNat 8 n.val) g, none⟩
  | .qfence g m => some ⟨3, ri 21 0 (BitVec.ofNat 14 m.toNat) g, none⟩
  | .rwait g h c => some ⟨3, rri 24 (ofRing h) 0 (BitVec.ofNat 8 c.val) g, none⟩
  | .rfree g h c => some ⟨3, rri 25 (ofRing h) 0 (BitVec.ofNat 8 c.val) g, none⟩
  | .radvp g h z c => some ⟨3, rri 26 (ofRing h) 0 (BitVec.ofNat 8 (c.val + 64 * z.val)) g, none⟩
  | .radvc g h c => some ⟨3, rri 27 (ofRing h) 0 (BitVec.ofNat 8 c.val) g, none⟩
  | .rset g h a => some ⟨3, rri 28 (ofRing h) a 0 g, none⟩
  | .rsetUnconfigure g h => some ⟨3, rri 28 (ofRing h) 0 1 g, none⟩
  | .tlook g d a => some ⟨3, rrr 32 d a 0 0 g, none⟩
  | .tins g d a b => some ⟨3, rrr 33 d a b 0 g, none⟩
  | .tdel g d a => some ⟨3, rrr 34 d a 0 0 g, none⟩
  | .lstW g a b => some ⟨3, rrr 40 0 a b 0 g, none⟩
  | .lstD g a b => some ⟨3, rrr 41 0 a b 0 g, none⟩
  | .lstv g a b => some ⟨3, rrr 42 0 a b 0 g, none⟩
  | .rel g t b => some ⟨3, rrr 43 t 0 (ofPair b) 0 g, none⟩
  | .acq g t a b => some ⟨3, rrr 44 t a (ofPair b) 0 g, none⟩
  | .acqs g t a b => some ⟨3, rrr 45 t a (ofPair b) 0 g, none⟩
  | .phase g t b => some ⟨3, rrr 46 t 0 (ofPair b) 0 g, none⟩
  | .synAdd g t a b => some ⟨3, rrr 48 t a (ofPair b) 0 g, none⟩
  | .synCas g t a b => some ⟨3, rrr 49 t a (ofPair b) 0 g, none⟩
  | .synMin g t a b => some ⟨3, rrr 50 t a (ofPair b) 0 g, none⟩
  | .synMax g t a b => some ⟨3, rrr 51 t a (ofPair b) 0 g, none⟩
  | .synXch g t a b => some ⟨3, rrr 52 t a (ofPair b) 0 g, none⟩
  | .synLd g t a b => some ⟨3, rrr 53 t a (ofPair b) 0 g, none⟩
  | .synPost g t a b => some ⟨3, rrr 54 t a (ofPair b) 0 g, none⟩
  | .synWait g t a b => some ⟨3, rrr 55 t a (ofPair b) 0 g, none⟩
  | .synBar g t a b => some ⟨3, rrr 56 t a (ofPair b) 0 g, none⟩
  | .fork g a b => some ⟨3, rrr 64 0 a (ofPair b) 0 g, none⟩
  | .grwd g a => some ⟨3, rrr 65 0 a 0 0 g, none⟩
  | .gbar g => some ⟨3, rrr 66 0 0 0 0 g, none⟩
  | .gcancel g a => some ⟨3, rrr 67 0 a 0 0 g, none⟩
  | .gquit g => some ⟨3, rrr 68 0 0 0 0 g, none⟩
  | .gstat g b => some ⟨3, rrr 69 0 0 (ofPair b) 0 g, none⟩
  | .publish g t b => some ⟨3, rrr 72 t 0 (ofPair b) 0 g, none⟩
  | .launch g a b => some ⟨3, rrr 73 0 a (ofPair b) 0 g, none⟩
  | .cancel g a => some ⟨3, rrr 74 0 a 0 0 g, none⟩
  | .resultLanding => none
  | .matrixRowLanding => none
  | .icacheFill => none
  | .crossingDelivery => none
  | .regionCommit => none
  | .effectCommandSend => none
  | .sequencerNumbering => none
  | .weirOperation => none
  | .logCompaction => none
  | .logTimeout => none
  | .publishCounterWrite => none
  | .copyStart => none
  | .atomService => none
  | .readAtomWrite => none
  | .copyCompletion => none
  | .cpyInxLanding => none
  | .spillFillCompletion => none
  | .peerCopyTransfer => none
  | .drainAddApply => none
  | .eccWriteback => none
  | .refreshSlot => none
  | .selfRefreshEntry => none
  | .selfRefreshExit => none
  | .trapSequence => none
  | .shootdownComplete => none
  | .taskRetirement => none
  | .completionFinalWrite => none
  | .inletSlotWrite => none
  | .inletTailWrite => none
  | .inletCancelWrite => none
  | .fabricLaunchPacket => none
  | .fabricCancelPacket => none
  | .dispatchDecision => none
  | .waitWordRead => none
  | .levelAgeing => none
  | .reservationStart => none
  | .cancelDelivery => none
  | .taskStop => none
  | .groupEngineCommand => none
  | .forkAccept => none
  | .groupDeadline => none
  | .groupBarrierComplete => none
  | .groupStatusMirror => none
  | .preemptRequest => none
  | .preemptTake => none
  | .contextSave => none
  | .pitchWriteOut => none
  | .resumption => none
  | .wearInterval => none
  | .coreStateChange => none
  | .lifetimeCheckpoint => none
  | .periodStretch => none
  | .claim => none
  | .claimWindowClose => none
  | .handover => none
  | .thaw => none
  | .preempt => none
  | .fwupd => none
  | .fwCheckDone => none
  | .fwcommit => none
  | .attest => none
  | .attestDone => none
  | .mgmtRegisterWrite => none
  | .accessControlWrite => none
  | .linkReset => none
  | .hostMemAccess => none
  | .peerFabWrite => none
  | .bringUp => none
  | .linkTraining => none
  | .malformedBundle => none
  | .powerOff => none

/-- The literal syllable with a payload (R53). -/
def litWord (p : BitVec 24) : Half := BitVec.ofNat 7 0x7F ++ (0 : BitVec 1) ++ p

/-- The bundle that holds an instruction alone, its literal in the position above it and NOP elsewhere (R45, R53). -/
def Words.bundle (x : Words) : BitVec 128 :=
  (x.syl.setWidth 128 <<< (32 * x.pos.val)) |||
    (match x.lit with
     | none => 0
     | some p => (litWord p).setWidth 128 <<< (32 * (x.pos.val + 1)))

/-- The 16 bytes of a bundle, in memory order (R15). -/
def bundleBytes (b : BitVec 128) : List Byte := (List.range 16).map fun i => b.extractLsb' (8 * i) 8

/-- What issues of a bundle that holds one instruction. -/
def Bundle.only (b : Bundle) : Instr :=
  if b.s ≠ .nop then b.s else if b.v ≠ .nop then b.v else if b.m ≠ .nop then b.m else b.c

/-- The position in which a 32-bit word of the opcode table is laid: the table does not name a row's slot and majors repeat
from slot to slot (R58), so it is the first position, from 0, in which the word decodes (log 10). -/
def tablePos (w : Half) : Option (Fin 4) :=
  if (decodeSyl 0 w none).isSome then some 0
  else if (decodeSyl 1 w none).isSome then some 1
  else if (decodeSyl 2 w none).isSome then some 2
  else if (decodeSyl 3 w none).isSome then some 3
  else none

/-- The bundle of the bits w: 32 bits or fewer are one syllable in its position (log 10); more are the bundle itself. -/
def tableBundle (nbits w : Nat) : BitVec 128 :=
  if nbits ≤ 32 then
    match tablePos (BitVec.ofNat 32 w) with
    | some p => (BitVec.ofNat 32 w).setWidth 128 <<< (32 * p.val)
    | none => BitVec.ofNat 128 w
  else BitVec.ofNat 128 w

/-- The instruction the decoder reads from the bits w, numbered as the opcode table numbers them. -/
def decodeTableWord (nbits w : Nat) : Option Instr :=
  match decodeBytes (bundleBytes (tableBundle nbits w)) with
  | .ok b => some b.only
  | .error _ => none

/-- An instruction whose bundle heads a region (R37). -/
def Instr.opens : Instr → Bool
  | .region _ => true
  | .regionc _ _ _ => true
  | _ => false
/-- A bundle whose S syllable is REGION or REGIONC heads a region, whatever its other syllables are (R37). -/
def opensAt (b : BitVec 128) : Bool := (decodeAt b 0).any Instr.opens
/-- REGIONC, part of whose bundle enters its region's CRC as zero (R333). -/
def Instr.isChecked : Instr → Bool
  | .regionc _ _ _ => true
  | _ => false
/-- The syllables of a bundle in slot order. -/
def Bundle.syls (b : Bundle) : List Instr := [b.s, b.v, b.m, b.c]

end Sys2Proof
end

