-- ==== Sys2Proof/Machine/Num.lean ====
section
/-! DEFINITION. Number formats, rounding, residues and the stochastic-rounding generator (R68 to R83). -/

namespace Sys2Proof.Machine

/-- The floating-point formats (R70). -/
inductive FltFmt where
  | f32 | bf16 | e4m3 | e5m2 | fp4
  deriving DecidableEq, Repr

/-- Fraction bits m (R70). -/
def FltFmt.m : FltFmt → Nat
  | .f32 => 23
  | .bf16 => 7
  | .e4m3 => 3
  | .e5m2 => 2
  | .fp4 => 1
/-- Width in bits (R70). -/
def FltFmt.width : FltFmt → Nat
  | .f32 => 32
  | .bf16 => 16
  | .e4m3 => 8
  | .e5m2 => 8
  | .fp4 => 4
/-- The exponent of the smallest normal (R71, R80). -/
def FltFmt.emin : FltFmt → Int
  | .f32 => -126
  | .bf16 => -126
  | .e4m3 => -6
  | .e5m2 => -14
  | .fp4 => 0
/-- The code of the largest finite value, without sign (R71). -/
def FltFmt.maxCode : FltFmt → Nat
  | .f32 => 0x7F7FFFFF
  | .bf16 => 0x7F7F
  | .e4m3 => 0x7E
  | .e5m2 => 0x7B
  | .fp4 => 7
/-- The NaN the device produces; the FP4 entry is what a NaN source becomes (R71, R82). -/
def FltFmt.nanCode : FltFmt → Nat
  | .f32 => 0x7FC00000
  | .bf16 => 0x7FC0
  | .e4m3 => 0x7F
  | .e5m2 => 0x7F
  | .fp4 => 0
/-- The sign bit. -/
def FltFmt.signBit (f : FltFmt) : Nat := 2 ^ (f.width - 1)

/-- A datum of a floating-point format: a NaN, an infinity, or the exact number (-1)^neg * mag * 2^exp. -/
inductive Flt where
  | nan
  | inf (neg : Bool)
  | fin (neg : Bool) (mag : Nat) (exp : Int)
  deriving DecidableEq, Repr

/-- The datum of a code (R70). -/
def fltOf (f : FltFmt) (c : Nat) : Flt :=
  let neg := c / f.signBit % 2 == 1
  let a := c % f.signBit
  let e := a / 2 ^ f.m
  let fr := a % 2 ^ f.m
  let special : Bool := match f with
    | .f32 => a > 0x7F7FFFFF
    | .bf16 => a > 0x7F7F
    | .e4m3 => a > 0x7E
    | .e5m2 => a > 0x7B
    | .fp4 => false
  if special then (if fr = 0 then .inf neg else .nan)
  else if e = 0 then .fin neg fr (f.emin - f.m)
  else .fin neg (2 ^ f.m + fr) (f.emin - f.m + (e - 1 : Nat))

/-- Whether a datum is a zero. -/
def Flt.isZero : Flt → Bool
  | .fin _ 0 _ => true
  | _ => false
/-- Whether a datum is a NaN. -/
def Flt.isNan : Flt → Bool
  | .nan => true
  | _ => false
/-- Whether a datum is an infinity. -/
def Flt.isInf : Flt → Bool
  | .inf _ => true
  | _ => false
/-- Whether a datum is a finite number. -/
def Flt.isFin : Flt → Bool
  | .fin _ _ _ => true
  | _ => false
/-- The sign of a datum; false for a NaN. -/
def Flt.sign : Flt → Bool
  | .nan => false
  | .inf n => n
  | .fin n _ _ => n

/-- Floor(Log2(mag * 2^exp)) for a non-zero mag. -/
def floorLog2 (mag : Nat) (exp : Int) : Int := (Nat.log2 mag : Int) + exp

/-- The exponent e of Ulp (R80): the unit is 2^(e - m). -/
def ulpExp (f : FltFmt) (mag : Nat) (exp : Int) : Int := max (floorLog2 mag exp) f.emin

/-- Floor(|x| / u) and the discarded remainder over its denominator (R80). -/
def splitAt (f : FltFmt) (mag : Nat) (exp : Int) : Nat × Nat × Nat :=
  let sh := exp - ulpExp f mag exp + f.m
  if 0 ≤ sh then (mag <<< sh.toNat, 0, 1)
  else
    let k := (-sh).toNat
    (mag >>> k, mag % 2 ^ k, 2 ^ k)

/-- The code of q units at exponent e, without sign and with an exponent range unbounded above: a subnormal, a normal and a
carry into the next binade all have this one form. -/
def codeOf (f : FltFmt) (e : Int) (q : Nat) : Nat := (e - f.emin).toNat * 2 ^ f.m + q

/-- RoundRNE up to the overflow table (R80). sticky says that a non-zero amount below every kept bit was left out of mag. -/
def rneCode (f : FltFmt) (mag : Nat) (exp : Int) (sticky : Bool) : Nat :=
  if mag = 0 then 0
  else
    let (q, r, d) := splitAt f mag exp
    let up := 2 * r > d || (2 * r == d && (sticky || q % 2 == 1))
    codeOf f (ulpExp f mag exp) (if up then q + 1 else q)

/-- RoundRTZ up to the overflow table (R80). -/
def rtzCode (f : FltFmt) (mag : Nat) (exp : Int) : Nat :=
  if mag = 0 then 0 else codeOf f (ulpExp f mag exp) (splitAt f mag exp).1

/-- RoundSR up to the overflow table (R81): d0 is the draw and srcExp the exponent of Ulp(src, x). -/
def srCode (src f : FltFmt) (mag : Nat) (exp : Int) (d0 : BitVec 32) : Nat :=
  if mag = 0 then 0
  else
    let (q, r, d) := splitAt f mag exp
    let fr := r * 2 ^ 32 / d
    let w := min ((ulpExp f mag exp - f.m) - (ulpExp src mag exp - src.m)).toNat 32
    let dd := d0.toNat / 2 ^ (32 - w) * 2 ^ (32 - w)
    codeOf f (ulpExp f mag exp) (if fr + dd ≥ 2 ^ 32 then q + 1 else q)

/-- The code with a sign. -/
def withSign (f : FltFmt) (neg : Bool) (c : Nat) : Nat := if neg then f.signBit + c else c

/-- What a finite overflow or an infinite source becomes (R82). -/
def overflowCode (f : FltFmt) (sat neg : Bool) : Nat :=
  withSign f neg (match f with
    | .f32 => 0x7F800000
    | .bf16 => 0x7F80
    | .e4m3 => if sat then 0x7E else 0x7F
    | .e5m2 => if sat then 0x7B else 0x7C
    | .fp4 => 7)

/-- Overflow: the fate of a rounded magnitude (R80, R82). -/
def finishCode (f : FltFmt) (sat neg : Bool) (c : Nat) : Nat :=
  if c ≤ f.maxCode then withSign f neg c else overflowCode f sat neg

/-- RoundRNE of a finite number (R80). -/
def roundRne (f : FltFmt) (sat neg : Bool) (mag : Nat) (exp : Int) (sticky : Bool := false) : Nat :=
  finishCode f sat neg (rneCode f mag exp sticky)

/-- A datum rounded to nearest into a format (R80, R82). -/
def rneOf (f : FltFmt) (sat : Bool) : Flt → Nat
  | .nan => f.nanCode
  | .inf n => overflowCode f sat n
  | .fin n m e => roundRne f sat n m e

/-- A datum of format src rounded stochastically into f with the draw d0 (R81, R82). -/
def srOf (src f : FltFmt) (sat : Bool) (d0 : BitVec 32) : Flt → Nat
  | .nan => f.nanCode
  | .inf n => overflowCode f sat n
  | .fin n m e => finishCode f sat n (srCode src f m e d0)

/-- The exact signed numerator of a finite number over the common exponent lo, which is no larger than exp. -/
def scaleTo (lo : Int) (neg : Bool) (mag : Nat) (exp : Int) : Int :=
  let k : Int := (mag <<< (exp - lo).toNat : Nat)
  if neg then -k else k

/-- The exact sum of two data; the sum of opposite infinities is a NaN, and an exact zero is negative only when both terms are
(R72, R87). -/
def fltAdd : Flt → Flt → Flt
  | .nan, _ => .nan
  | _, .nan => .nan
  | .inf a, .inf b => if a = b then .inf a else .nan
  | .inf a, _ => .inf a
  | _, .inf b => .inf b
  | .fin a m e, .fin b n g =>
    let lo := min e g
    let z := scaleTo lo a m e + scaleTo lo b n g
    if z = 0 then .fin (a && b) 0 lo else .fin (z < 0) z.natAbs lo

/-- The exact product of two data; infinity times zero is a NaN. -/
def fltMul : Flt → Flt → Flt
  | .nan, _ => .nan
  | _, .nan => .nan
  | .inf a, .inf b => .inf (a != b)
  | .inf a, .fin b n _ => if n = 0 then .nan else .inf (a != b)
  | .fin a m _, .inf b => if m = 0 then .nan else .inf (a != b)
  | .fin a m e, .fin b n g => .fin (a != b) (m * n) (e + g)

/-- A datum with its sign turned. -/
def fltNeg : Flt → Flt
  | .nan => .nan
  | .inf a => .inf (!a)
  | .fin a m e => .fin (!a) m e

/-- a < b for data that are no NaN; zeros are equal. -/
def fltLt : Flt → Flt → Bool
  | .nan, _ => false
  | _, .nan => false
  | .inf a, .inf b => a && !b
  | .inf a, .fin _ _ _ => a
  | .fin _ _ _, .inf b => !b
  | .fin a m e, .fin b n g => let lo := min e g; scaleTo lo a m e < scaleTo lo b n g

/-- a = b for data that are no NaN; zeros are equal. -/
def fltEq : Flt → Flt → Bool
  | .nan, _ => false
  | _, .nan => false
  | .inf a, .inf b => a == b
  | .fin a m e, .fin b n g => let lo := min e g; scaleTo lo a m e == scaleTo lo b n g
  | _, _ => false

/-- One rounded F32 or BF16 addition (R89). -/
def addCode (f : FltFmt) (a b : Nat) : Nat := rneOf f false (fltAdd (fltOf f a) (fltOf f b))
/-- One rounded subtraction. -/
def subCode (f : FltFmt) (a b : Nat) : Nat := rneOf f false (fltAdd (fltOf f a) (fltNeg (fltOf f b)))
/-- One rounded product. -/
def mulCode (f : FltFmt) (a b : Nat) : Nat := rneOf f false (fltMul (fltOf f a) (fltOf f b))
/-- a * b + c, rounded once (R89). -/
def fmaCode (f : FltFmt) (a b c : Nat) : Nat := rneOf f false (fltAdd (fltMul (fltOf f a) (fltOf f b)) (fltOf f c))

/-- The correctly rounded F32 quotient of two data: 60 quotient bits below the leading one and the rest as sticky. -/
def divCode : Flt → Flt → Nat
  | .nan, _ => FltFmt.f32.nanCode
  | _, .nan => FltFmt.f32.nanCode
  | .inf _, .inf _ => FltFmt.f32.nanCode
  | .inf a, .fin b _ _ => overflowCode .f32 false (a != b)
  | .fin a _ _, .inf b => withSign .f32 (a != b) 0
  | .fin a m e, .fin b n g =>
    if n = 0 then (if m = 0 then FltFmt.f32.nanCode else overflowCode .f32 false (a != b))
    else
      let k := 60 + Nat.log2 n
      roundRne .f32 false (a != b) ((m <<< k) / n) (e - g - k) ((m <<< k) % n != 0)

/-- The largest r with r * r ≤ x, bit k - 1 downwards from a first part r. -/
def isqrtFrom (x : Nat) : Nat → Nat → Nat
  | 0, r => r
  | k + 1, r => isqrtFrom x k (if (r + 2 ^ k) * (r + 2 ^ k) ≤ x then r + 2 ^ k else r)
/-- Floor(√x). -/
def isqrt (x : Nat) : Nat := isqrtFrom x (Nat.log2 x / 2 + 1) 0

/-- The correctly rounded F32 square root: the root of mag scaled by an even power that leaves 64 spare bits. -/
def sqrtCode : Flt → Nat
  | .nan => FltFmt.f32.nanCode
  | .inf a => if a then FltFmt.f32.nanCode else overflowCode .f32 false false
  | .fin a m e =>
    if m = 0 then withSign .f32 a 0
    else if a then FltFmt.f32.nanCode
    else
      let k : Nat := if (e % 2 == 0) then 64 else 65
      let x := m <<< k
      roundRne .f32 false false (isqrt x) ((e - k) / 2) (isqrt x * isqrt x != x)

/-! Residues (R73 to R76). -/

/-- The product of the moduli. -/
def rnsM : Nat := 16776960
/-- A container of three residues. -/
def rnsPack (c255 c256 c257 : Nat) : Half := BitVec.ofNat 32 (c257 * 65536 + c256 * 256 + c255)
/-- Residue modulo 255 as a dissipative reader takes it (R74). -/
def rns255 (x : Half) : Nat := x.toNat % 256 % 255
/-- Residue modulo 256. -/
def rns256 (x : Half) : Nat := x.toNat / 256 % 256
/-- Residue modulo 257 as a dissipative reader takes it (R74). -/
def rns257 (x : Half) : Nat := x.toNat / 65536 % 512 % 257
/-- A canonical container (R73). -/
def rnsCanon (x : Half) : Bool := x.toNat % 256 < 255 && x.toNat / 65536 ≤ 256
/-- Componentwise combination of two containers. -/
def rnsMap2 (f : Nat → Nat → Nat → Nat) (x y : Half) : Half :=
  rnsPack (f 255 (rns255 x) (rns255 y) % 255) (f 256 (rns256 x) (rns256 y) % 256) (f 257 (rns257 x) (rns257 y) % 257)
/-- Residue addition (R76). -/
def rnsAdd : Half → Half → Half := rnsMap2 fun _ a b => a + b
/-- Residue subtraction (R76). -/
def rnsSub : Half → Half → Half := rnsMap2 fun n a b => a + (n - b)
/-- Residue negation (R76). -/
def rnsNeg (x : Half) : Half := rnsSub 0 x
/-- Residue product (R76). -/
def rnsMul : Half → Half → Half := rnsMap2 fun _ a b => a * b
/-- ToRNS of an integer (R75). -/
def toRns (x : Int) : Half := rnsPack (x % 255).toNat (x % 256).toNat (x % 257).toNat
/-- CRT of a container read as a dissipative reader reads it (R74, R75). -/
def crt (x : Half) : Int :=
  let v := (rns255 x * 8421376 + rns256 x * 16711425 + rns257 x * 8421120) % rnsM
  if v ≥ 8388480 then (v : Int) - rnsM else v

/-- SrsNext: the next state and the 32-bit draw (R83). -/
def srsNext (x0 : Word) : Word × Half :=
  let x1 := x0 ^^^ (x0 >>> 12)
  let x2 := x1 ^^^ (x1 <<< 25)
  let x3 := x2 ^^^ (x2 >>> 27)
  (x3, (x3 * 0x2545F4914F6CDD1D#64).extractLsb' 32 32)

end Sys2Proof.Machine
end

