-- ==== Sys2Proof/Config.lean ====
section
/-! DEFINITION. The free values of the model: what the spec leaves open. Each is a constant without a body, so no proof can see
a value of it (log 8 and the entries it names). -/

namespace Sys2Proof.Config

/-- Values the spec calls unspecified (R105, R165, R169, R197, R228): the i-th part of the k-th draw. -/
opaque freeNat : Nat → Nat → Nat
/-- The time, in calendar clocks, that the k-th engine action takes where the spec fixes none (R353). -/
opaque delay : Nat → Nat
/-- The width of a RAW element of a shape record, in nibbles: R68 gives the others. -/
opaque rawNibbles : Nat

/-- The number of an island: R7 counts the islands and no rule numbers them (R350). The model's own order: the control and the array island
of core k at 2 * k and 2 * k + 1, then the others from 768 on. -/
opaque islandNo : Nat → Nat
/-- SLH-DSA accepts a firmware image of so many bytes under Driov's key (R9, R315). -/
opaque fwSigned : Nat → Nat → Bool

/-- An unspecified word of any width. -/
def freeBits (w k i : Nat) : BitVec w := BitVec.ofNat w (freeNat k i)

end Sys2Proof.Config
end

