-- ==== Sys2Proof/Machine/LifeRecord.lean ====
section
/-! DEFINITION. CRC-32C (R333, R344), and the bytes of a copy of the lifetime record (R344). -/

namespace Sys2Proof.Machine

/-- One byte into a CRC-32C (R333, R344). -/
def crcByte (crc : BitVec 32) (b : Byte) : BitVec 32 :=
  (List.range 8).foldl (fun x _ => (x >>> 1) ^^^ (if x.getLsbD 0 then 0x82F63B78#32 else 0)) (crc ^^^ b.setWidth 32)
/-- Bytes of a little-endian number into a CRC-32C, from the lowest. -/
def crcBytes (crc : BitVec 32) (v : Nat) : Nat → BitVec 32
  | 0 => crc
  | n + 1 => crcBytes (crcByte crc (BitVec.ofNat 8 v)) (v / 256) n

/-- The check of a copy of the record: over its bytes 0 to 59 and all its entries (R344). -/
def recordCheck (v : Nat) : BitVec 32 := ~~~crcBytes (crcBytes 0xFFFFFFFF v 60) (v / 2 ^ 512) 12288
/-- The 12,352 bytes of a copy, little-endian: generation, minimum, check, and the 32-byte entries (R344). -/
def recordImage (generation minimum : Nat) (entries : List Nat) : Nat :=
  let v := generation % 2 ^ 64 + 2 ^ 64 * (minimum % 2 ^ 32) + 2 ^ 512 * entries.foldr (fun e n => e % 2 ^ 256 + 2 ^ 256 * n) 0
  v + 2 ^ 480 * (recordCheck v).toNat
/-- The four doublewords of an entry (R344). -/
def recordEntry (st marks lifetime integral drift corrected : Nat) : Nat :=
  (st * 2 ^ 62 + marks * 2 ^ 48 + lifetime) + 2 ^ 64 * (integral * 2 ^ 20 + drift) + 2 ^ 128 * corrected

end Sys2Proof.Machine
end

