-- ==== Sys2Proof/Machine/State.lean ====
section
/-! DEFINITION. The state of the DRV-CQ9460 as plain data, and the state right after reset. -/

namespace Sys2Proof.Machine

/-! ### Tags, causes and small names -/

/-- Format tags (R31). -/
inductive Tag where
  | clean | raw | i32 | f32 | bf16 | fp8e4 | fp8e5 | fp4 | int8 | rns | poison
  deriving DecidableEq, Repr

/-- Trap causes (R318). -/
inductive Cause where
  | illegal | format | cleanRequired | staleHandle | swizzle | scaleNotPermitted | align | bounds | priv | segmentCheck
  | poisonUse | staleView | contextSaveFault | trapInstr | ringConfig | machineCheck
  deriving DecidableEq, Repr

/-- The state of a copy tag (R223). -/
inductive TagSt where
  | idle | pending | complete
  deriving DecidableEq, Repr

/-- A copy tag with its status word (R223, R224). -/
structure CTag where
  st : TagSt
  status : Word
  deriving DecidableEq, Repr

/-- The group flag of a parent (R267). -/
inductive GroupFlag where
  | none | opened | barrierSent
  deriving DecidableEq, Repr

/-- Memory as address and byte pairs, addresses strictly rising, no byte equal to what an unlisted address reads as (0). -/
abbrev Mem := List Host.Cell

/-! ### The context (R14, R27, R30) -/

/-- A vector register (R27, R31). -/
structure VecR where
  bits : Line
  tag : Tag
  deriving DecidableEq, Repr

/-- An accumulator tile with its clean bits and committed event word (R27, R90). -/
structure Tile where
  rows : Vector Row 128
  clean : BitVec 128
  events : BitVec 32
  tag : Tag
  deriving DecidableEq, Repr

/-- A weight buffer: scale byte b of line j is byte b of scales j (R27, R159). -/
structure WBuf where
  lines : Vector Line 128
  scales : Vector (BitVec 128) 128
  tag : Tag
  clean : Bool
  deriving DecidableEq, Repr

/-- A configured staging ring (R178); done marks stand beside the stamps (R179). -/
structure Ring where
  base : Nat
  size : Nat
  count : Nat
  free : Nat
  reserved : Nat
  fill : Nat
  prod : Nat
  cons : Nat
  stamps : List (Fin 4)
  done : List Bool
  deriving DecidableEq, Repr

/-- The special registers that belong to a context (R30). -/
structure Spr where
  tick : Word
  vrb : BitVec 6
  prb : BitVec 5
  lcnt : BitVec 32
  lstg : BitVec 8
  srs : Word
  tid : Word
  sib : BitVec 8
  grp : BitVec 32
  emet : Word
  wuc : Word
  priv : Bool
  tvec : Word
  trec : Word
  deriving DecidableEq, Repr

/-- The register state of a task (R14). resumed is the restart point of a resumption until the region that the resumption opened commits
(R278, R279, R283). -/
structure Ctx where
  s : Vector Word 64
  p : Vector Word 32
  v : Vector VecR 64
  a : Vector Tile 8
  w : Vector WBuf 2
  h : Vector (Option Ring) 16
  tags : Vector CTag 64
  x : Spr
  groupFlag : GroupFlag
  groupStatus : Word
  forks : Nat
  retry : Bool
  resumed : Option Word
  pc : Word
  pitch : List (Fin 64)
  deriving DecidableEq, Repr

/-! ### Results in flight (R17, R19, R21) -/

/-- What a store does to the bits of each line it writes (R114, R128). -/
inductive LineEff where
  | dirty | full | cleaned | poisoned
  deriving DecidableEq, Repr

/-- A vector result: the bits under mask are written; rev holds the energy of a reversible step, to be metered again by an
unwind (R104); zero says that the zero rule of R135 applies where it lands, and was is the destination's
tag as it was read at issue (R17). -/
structure VWrite where
  d : VReg
  mask : Line
  bits : Line
  tag : Option Tag
  needClean : Bool
  rev : Option Nat
  zero : Bool
  was : Tag
  deriving DecidableEq, Repr

/-- What lands of an S or V result. Register names are physical (R17); store addresses are bytes of the core's SRAM; a pair is the two
registers of an exchange, whose energy stands with the first. -/
inductive Landing where
  | scalar (d : SReg) (v : Word)
  | pred (d : PReg) (mask v : Word)
  | vec (w : VWrite)
  | pair (w x : VWrite)
  | vtag (d : VReg) (t : Tag)
  | store (addr : Nat) (mask : BitVec 256) (data : Line) (eff : LineEff)
  | spr (n : BitVec 8) (v : Word)
  | loop (lcnt : BitVec 32) (lstg : BitVec 8) (p8 : PReg) (v : Word)
  | cloop (vrb : BitVec 6) (prb : BitVec 5) (lcnt : BitVec 32) (lstg : BitVec 8) (p8 : PReg) (v : Word)
  deriving DecidableEq, Repr

/-- A result in flight: it lands at the end of the active or drain cycle that brings left to 0. ord counts
issued bundles, for ties (R19). -/
structure Flight where
  left : Nat
  ord : Nat
  region : Nat
  slot : Fin 4
  bundle : BitVec 48
  land : Landing
  deriving DecidableEq, Repr

/-- The MMA forms (R162). -/
inductive MmaFmt where
  | bf16 | e4 | e5 | fp4 | i8add | i8sub
  deriving DecidableEq, Repr

/-- The drains (R169). -/
inductive DrainKind where
  | f32 | bf16 | rns | i32 | add | addc
  deriving DecidableEq, Repr

/-- What an operation of the matrix unit does (R154). -/
inductive MKind where
  | wld (w : BufId) (t : Tag)
  | wldt (w : BufId) (t : Tag)
  | wclr (w : BufId)
  | mma (f : MmaFmt) (w : BufId) (acc : TileId)
  | aclr (acc : TileId)
  | afill (rns : Bool) (acc : TileId)
  | astat (d : SReg) (v : Word)
  | drain (k : DrainKind) (acc : TileId) (target : Fin 8)
  deriving DecidableEq, Repr

/-- An operation in the matrix unit: its issue matrix cycle, ramp, rows and data lines, the operand's first SRAM-logical line
address and swizzle, the scale bytes of each row or line, the lines and rows sampled and not yet landed (oldest first), the
energy of each row for an unwind, and whether its operands are poisoned so far (R157, R158). live says which rows an MMA
fetches and writes; an AFILL keeps there which of its tiles took a poisoned line. -/
structure MOp where
  kind : MKind
  start : Nat
  ord : Nat
  ramp : Nat
  rows : Nat
  dlines : Nat
  addr : Nat
  swz : Fin 4
  scales : List (BitVec 128)
  live : List Bool
  rowFj : List Nat
  lines : List (Line × Bool)
  out : List (Row × BitVec 32)
  poison : Bool
  rev : Bool
  wasTag : List Tag
  written : Nat
  region : Nat
  bundle : BitVec 48
  deriving DecidableEq, Repr

/-! ### Regions (R37 to R43) -/

/-- What the snapshot of a region head holds beyond tags and rings (R41). -/
structure Snap where
  s : Vector Word 64
  p : Vector Word 32
  srs : Word
  vrb : BitVec 6
  prb : BitVec 5
  lcnt : BitVec 32
  lstg : BitVec 8
  groupFlag : GroupFlag
  retry : Bool
  deriving DecidableEq, Repr

/-- What a landed step changed, as that stood before (R104, R105): lanes of a vector register with its tag; a row with its clean bit and the
tile's tag; a line of a weight buffer, a buffer's tag and clean bit, or a whole buffer; bytes of one SRAM line with the line's clean bit, and
its poison bit where the step wrote it. -/
inductive Undo where
  | vreg (d : VReg) (mask : Line) (old : Line) (tag : Tag)
  | row (t : TileId) (r : Fin 128) (old : Row) (clean : Bool) (tag : Tag)
  | line (w : BufId) (j : Fin 128) (old : Line) (scales : BitVec 128)
  | ready (w : BufId) (tag : Tag) (clean : Bool)
  | buf (w : BufId) (old : WBuf)
  | bytes (addr : Nat) (mask : BitVec 256) (old : Line) (clean : Bool) (poison : Option Bool)
  deriving DecidableEq, Repr

/-- A landed step of a region: what it changed, and the energy of its inverse; none where it is dissipative, an erase or a store (R100,
R101, R104). -/
structure Landed where
  what : Undo
  fj : Option Nat
  deriving DecidableEq, Repr

/-- A change that a region made to a ring, to be undone by a trap (R41, R321). -/
inductive RingUndo where
  | set (h : RingId) (old : Option Ring)
  | advp (h : RingId) (c : Nat) (stamps : List (Fin 4))
  | advc (h : RingId) (c : Nat)
  | rin (h : RingId) (slot : Nat)
  deriving DecidableEq, Repr

/-- A pending change of the tag table: way 4 * set + way takes an entry (R177). -/
structure TagOp where
  way : Nat
  entry : Word
  deriving DecidableEq, Repr

/-- A record of a log, or of a pending segment: kind 1 word, 2 doubleword, 3 vector (R241). -/
structure LogRec where
  kind : Fin 4
  addr : BitVec 48
  data : Line
  deriving DecidableEq, Repr

/-- The effect instructions' commands (R38). -/
inductive EffKind where
  | synAdd | synCas | synMin | synMax | synXch | synLd | synPost | synWait | synBar
  | rel | acq | acqs | phase | publish
  | fork | grwd | gbar | gcancel | gquit
  | launch | cancel
  deriving DecidableEq, Repr

/-- A command of an effect instruction, with its syllable and every operand it read at issue (R216): s_a, s_b, s_(b+1), and the
image of a LAUNCH record, a FORK descriptor or the expected value of a SYN.CAS. -/
structure EffCmd where
  syll : BitVec 32
  kind : EffKind
  tag : Option TagId
  a : Word
  b : Word
  c : Word
  image : Line
  deriving DecidableEq, Repr

/-- A region that has not committed (R37, R39). resumed says that it is the one a resumption opened (R278). -/
structure Region where
  id : Nat
  head : Word
  resumed : Bool
  priv : Bool
  snap : Snap
  closed : Bool
  checked : Option (BitVec 32)
  headTick : Word
  lastTick : Word
  crc : BitVec 32
  issued : Nat
  looped : Bool
  drainAdd : Bool
  csyl : Nat
  segment : List LogRec
  cleared : BitVec 8
  raised : Vector (BitVec 32) 8
  tagOps : List TagOp
  landed : List Landed
  rings : List RingUndo
  ended : Bool
  claims : List (TagId × CTag)
  tclrs : List (TagId × CTag)
  effect : Option EffCmd
  tlbis : List Nat
  corr : Nat
  deriving DecidableEq, Repr

/-! ### Copies (R225 to R233) -/

/-- The copy forms (R225), and VSPILL and VFILL, which the copy engines carry out (R133). -/
inductive CopyKind where
  | cin | inx | out | peer | mc | tr | fab | rin | host | spill | fill
  deriving DecidableEq, Repr

/-- What an atom of a command is for: its bytes, a unit of the scratchpad that takes padding alone (R226), its shape record (R182), or an
entry of a page table (R297). -/
inductive Role where
  | bytes | fill | record | entry
  deriving DecidableEq, Repr

/-- One 32-byte atom of a command: its virtual address, its address in HBM, its pseudo-channel, the pairs it moves (its own byte, and
the scratchpad or staging byte; nibbles for the reads of a CPY.T), the padding that its unit of the scratchpad takes with it (R202, R226),
whether its page is owned, whether and at which clock its engine has started
it, the slips that count and whether it slipped at all, whether it was served, whether its bytes are written, its data once read or
taken from the view, and whether that is of a poisoned page (R189 to R191, R194, R197). An atom of a peer copy or multicast is a unit of 32 bytes: va is its offset in the footprint, dpa its target task. -/
structure Atom where
  role : Role
  va : Nat
  dpa : Nat
  chan : ChanId
  write : Bool
  owned : Bool
  moves : List (Nat × Nat)
  pads : List (Nat × Byte)
  started : Bool
  start : Nat
  slips : Nat
  slipped : Bool
  served : Bool
  done : Bool
  data : BitVec 256
  bad : Bool
  deriving DecidableEq, Repr

/-- A task's view of logged memory at a point: its horizon for every log, those that differ by holder, how many records its own log had
joined, and those among them of the reading command's own region (R205 to R209). -/
structure View where
  all : Nat
  some : List (Nat × Nat)
  own : Nat
  hole : Nat × Nat
  deriving DecidableEq, Repr

/-- Where a command stands: waiting for its start rule, or started. -/
inductive CmdPhase where
  | waiting | running
  deriving DecidableEq, Repr

/-- A walk under way: the address it translates, and the level and table of the entry it reads (R297). -/
structure Walk where
  va : Nat
  level : Nat
  table : Nat
  deriving DecidableEq, Repr

/-- A command of the copy engines (R132, R225 to R233). tag is absent for a spill or fill. waits names the acquires before it, after the
commands a QFENCE puts before it; hole the records its own region has joined (R208); recs the records of its view, and kept what
folding has since replaced in home copies (R207, R212). left counts the cycles to the completion of a CPY.INX, spill or fill. planned
says that its atoms are laid out, halted that no more are started (R228); clock is the clock at which atoms start next and how many have
started in it; pages the translations it uses; got how many unpoisoned bytes each line has taken, bad the lines that received poisoned data; source the task a peer copy reads; stage the nibbles of a CPY.T on their way; regs a spill's or fill's registers by physical number as they stood at issue, and guard its guard; size the bytes of a peer copy's footprint. -/
structure Cmd where
  id : Nat
  kind : CopyKind
  tag : Option TagId
  queue : Option (Fin 4)
  a : Word
  b : Word
  handle : BitVec 32
  region : Nat
  ord : Nat
  head : BitVec 48
  bundle : BitVec 48
  index : Nat
  priv : Bool
  waits : List Nat
  after : List Nat
  hole : Nat × Nat
  ring : Option (RingId × Nat)
  recs : List LogRec
  kept : List (Nat × Byte)
  source : Word
  phase : CmdPhase
  left : Nat
  planned : Bool
  halted : Bool
  stale : Bool
  walk : Option Walk
  clock : Nat × Nat
  atoms : List Atom
  pages : List (Nat × Nat × Word)
  got : List (Nat × Nat)
  bad : List Nat
  stage : Mem
  regs : List (VReg × VecR)
  guard : Word
  size : Nat
  swz : Fin 4
  status : Word
  deriving DecidableEq, Repr

/-! ### Traps and the running of a core -/

/-- What becomes of a trap once its region is back at its head: the handler or escalation (R324, R325), a restart without a
record after a first signature mismatch (R332), or the stop of a frozen task whose region returns to its head (R25). -/
inductive TrapKind where
  | normal | retry | quiet
  deriving DecidableEq, Repr

/-- A trap under way or held, with the fields of its record (R319, R323). -/
structure Trap where
  cause : Cause
  pos : Fin 4
  bundle : BitVec 48
  region : Option Nat
  head : Option (BitVec 48)
  detail : BitVec 32
  index : Nat
  status : Word
  kind : TrapKind
  deriving DecidableEq, Repr

/-- What a core is doing: without a task, issuing or frozen, after END, after a cancel's stop, in a trap sequence, or past the taking
point of a pre-emption (R26). -/
inductive Phase where
  | idle | running | ended | stopping | trapping | preempting
  deriving DecidableEq, Repr

/-- The rows of a DRAIN.ADD or DRAIN.ADDC between the tile and the target, each with its number and whether its tile was POISON
(R171). tid is the task the target core held at issue. -/
structure DrainBuf where
  region : Nat
  clamp : Bool
  tile : TileId
  target : CoreId
  tid : Word
  addr : Nat
  total : Nat
  rows : List (Nat × Row × Bool)
  applied : Nat
  deriving DecidableEq, Repr

/-- The running state of a core: what the rules imply it holds while a task runs. mcycle counts matrix cycles; regions stand newest
first; openNext says that the next bundle opens a region; acqs names the tags of acquires not yet complete; drain holds rem once a
loop drain has begun (R277); fresh says that the pre-emption request has come since the last period (R275); atHead makes the next head the
taking point whatever the loop (R326); take is the restart kind and point of a pre-emption taken (R275); fullSince is the clock at which a
log-full freeze began (R213). The first 32 of effects are the entries of the queue of unsent commands (R216); those of regions that committed
while it was full wait behind them: log 83. -/
structure Run where
  phase : Phase
  code : BitVec 8
  bubbles : Nat
  target : Option Word
  issues : Nat
  frozen : List Nat
  flights : List Flight
  mops : List MOp
  mcycle : Nat
  regions : List Region
  nextRegion : Nat
  openNext : Bool
  copies : List Cmd
  nextCmd : Nat
  fences : List (BitVec 4 × List Nat)
  effects : List EffCmd
  sent : Option EffCmd
  acqs : List Nat
  drainBuf : Option DrainBuf
  tagTable : List (Nat × Word)
  trap : Option Trap
  held : List Trap
  preempt : Bool
  fresh : Bool
  yielded : Option Nat
  cancel : Bool
  drain : Option Nat
  stages : Nat
  loopTop : Word
  atHead : Bool
  take : Fin 3 × Word
  fullSince : Option Nat
  escalated : Option Cause
  deriving DecidableEq, Repr

/-- The scratchpad SRAM of a core by physical address, with the poisoned and the clean lines (R95, R175), and the count of
corrected errors. -/
structure Sram where
  bytes : Mem
  poison : List Nat
  clean : List Nat
  corr : BitVec 32
  deriving DecidableEq, Repr

/-- A free crossing: its D, in periods of its receiver, and the clock before which no later item is delivered (R347, R348). -/
structure Crossing where
  d : Nat
  last : Nat
  deriving DecidableEq, Repr

/-- The clock of a core: when its next period starts; start the clock from which a context that has come to it may issue, none once it
does; the number of the next period; the stretches due on its control island and on
its array island, by period; how many periods the first has stretched more than the second; whether a paired crossing is late, and
whether the period just taken was an imposed stretch that made up for it; the requests of this sampling interval, of the array island or
not, by period, and the last of the one before (R345, R346, R350). cross are the core's free crossings: 0 to 4 out to its site's fabric, its
copy engines, the controllers, the quadrants and the base die, and 5 to 9 in from the base die, the quadrants, the fabric, the copy engines
and the controllers (R347). -/
structure Clk where
  edge : Nat
  period : Nat
  ctl : List Nat
  arr : List Nat
  skew : Int
  late : Bool
  paid : Bool
  start : Option Nat
  asked : List (Bool × Nat)
  old : List (Bool × Nat)
  cross : Vector Crossing 10
  deriving DecidableEq, Repr

/-- An island outside the cores (R7): how many periods it has stretched; its requests of this sampling interval by period, and the last of
the one before (R345, R350). For a memory controller, shift is how many clocks its slots lag the calendar, and next the number, counted
from reset, of the slot that begins next while they lag (R192). -/
structure Isle where
  taken : Nat
  asked : List Nat
  old : List Nat
  shift : Nat
  next : Nat
  deriving DecidableEq, Repr

/-- A bundle address held by an instruction cache, with the address space it was fetched in, by tag and root (R296): the bundle's bytes, or the cause and the
copy status of a failed translation, to be raised when the bundle would issue (R3, R299, R302). -/
structure ILine where
  space : BitVec 16
  root : Nat
  addr : Nat
  priv : Bool
  data : Option (BitVec 128)
  cause : Cause
  status : Word
  deriving DecidableEq, Repr

/-- Core states of the Lantern (R342). -/
inductive CoreSt where
  | healthy | derated | draining | retired
  deriving DecidableEq, Repr

/-- What the lifetime record keeps of a core (R344). -/
structure Wear where
  st : CoreSt
  marks : Nat
  lifetime : Nat
  integral : Nat
  drift : Nat
  corrected : Nat
  deriving DecidableEq, Repr

/-- What the Lantern gathers of a core within a sampling interval (R340): the accumulator kept across contexts, the active cycles and
the energy of contexts that have left, TICK and EMET of the running one at the start of its share, the context that ran last by the
number taken at its start, and whether one ran. -/
structure Sample where
  acc : Nat
  act : Nat
  fj : Nat
  tick0 : Word
  emet0 : Word
  last : Option Nat
  ran : Bool
  deriving DecidableEq, Repr

/-- A core of the package (R1). usable says that it is in service (R343, R348). -/
structure Core where
  ctx : Ctx
  run : Run
  sram : Sram
  clk : Clk
  icache : List ILine
  wear : Wear
  sample : Sample
  usable : Bool
  deriving DecidableEq, Repr

/-- Why the machine stops. The spec gives every instruction and every step of the device an effect, so no reason is needed: the
one constructor is raised by nobody, and is safe. -/
inductive Fault where
  /-- Raised by no meaning (safe). -/
  | unreachable
  deriving DecidableEq, Repr

/-- Why an instruction is refused. -/
inductive Refusal where
  /-- Raised by Dispatch for an instruction without a meaning yet (safe: the run stops). -/
  | notModelled (mnemonic : String)
  deriving DecidableEq, Repr

/-- A record that has joined a log, at its offset in the area and by its number in the log; entry none is a pad. holder is the task that
wrote it, by the number taken at its start; release is the number it was published under (R209, R241). -/
structure Joined where
  off : Nat
  len : Nat
  ix : Nat
  holder : Nat
  entry : Option LogRec
  release : Option Nat
  deriving DecidableEq, Repr

/-- The log of a TID (R241, R242): its launch; the task the TID names, by the number taken at its start, or 0 where that one never started
(R243, R289); its area, absent where the launch has none; the offset at which the next record goes; how many records have joined; the
records not yet reclaimed, oldest first; the sticky fault code and the segments dropped. -/
structure Log where
  tid : Word
  launch : Nat
  holder : Nat
  base : Option Nat
  size : Nat
  next : Nat
  count : Nat
  recs : List Joined
  sticky : Word
  dropped : Nat
  deriving DecidableEq, Repr

/-! ### Launches, tasks and groups (R252 to R273) -/

/-- An address space, fixed for a launch at its dispatch (R296). -/
structure Space where
  tag : BitVec 16
  root : Nat
  tvec : Word
  trec : Word
  deriving DecidableEq, Repr

/-- The fields of a launch record (R252). -/
structure LRec where
  entry : Nat
  prio : Nat
  pitches : Nat
  floor : Fin 4
  place : Nat
  cores : Nat
  shapes : Nat
  timeout : Nat
  logsize : Nat
  deadline : Nat
  wear : Nat
  done : Nat
  waits : List Nat
  owner : BitVec 16
  preload : List Nat
  logbase : Nat
  deriving DecidableEq, Repr

/-- A launch that has been dispatched (R253, R254): its number, record and space, and what its completion word gathers from tasks that
have retired. -/
structure Launch where
  num : Nat
  lrec : LRec
  space : Space
  code : Nat
  wear : Nat
  cancelled : Bool
  overWear : Bool
  faulted : Bool
  deriving DecidableEq, Repr

/-- Where a task is (R14, R273): on its core, suspended, or a parent that has left its core and waits for its siblings. -/
inductive Stand where
  | onCore | suspended | parked
  deriving DecidableEq, Repr

/-- Where a logical pitch of a task off its core is (R285). -/
inductive PitchAt where
  | resident (core : CoreId) (phys : Fin 64)
  | saved
  deriving DecidableEq, Repr

/-- A task that has not retired. born is the number taken at its start, which no other task has; core the one it runs on or last ran on;
area its save area; horizon its horizon for every log but those in horizons, by the log's holder; order the order of suspension; cycle
the distributor cycle of its dispatch; code, forks, seeds and status what a task off its core keeps beside its save area (seeds for
unsent commands); sent and cmds the command on its way and those behind it, of a task cancelled off its core (R216, R261), and of a suspended
one the commands that no entry of the queue of 32 holds;
held the faults due at its resumption (R213, R351). -/
structure Task where
  tid : Word
  born : Nat
  launch : Nat
  core : CoreId
  area : Nat
  stand : Stand
  pitches : List PitchAt
  horizon : Nat
  horizons : List (Nat × Nat)
  group : BitVec 32
  cancel : Bool
  order : Nat
  cycle : Nat
  code : BitVec 8
  forks : Nat
  seeds : List (Word × Nat)
  sent : Option EffCmd
  cmds : List EffCmd
  status : Word
  held : List Trap
  faulted : Bool
  deriving DecidableEq, Repr

/-- The outcome of a slot of a group (R270). -/
inductive Slot where
  | pending
  | deposited (r : BitVec 32)
  | cancelled | withdrawn | timedOut | faulted | noSibling
  deriving DecidableEq, Repr

/-- The wait of a candidate of the distributor: its level, the clock since which it has been ready without being placed at that
level, and whether it reserves (R258). -/
structure Cand where
  level : Nat
  since : Option Nat
  reserving : Bool
  deriving DecidableEq, Repr

/-- A sample group (R268 to R273). srs is the parent's SRS at the FORK; result the result area; barrier says that GBAR has arrived. -/
structure Group where
  handle : BitVec 32
  launch : Nat
  parent : Word
  n : Nat
  entry : Word
  arg : Word
  arena : Nat
  stride : Word
  prompt : Nat
  length : Nat
  srs : Word
  result : Nat
  slots : List Slot
  placed : Bool
  failed : Bool
  barrier : Bool
  done : Bool
  stat : BitVec 3
  count : Nat
  cand : Cand
  deriving DecidableEq, Repr

/-- A SYN.WAIT or SYN.BAR pending at a Weir: the task, its tag and result word, and k or the position of arrival (R246, R247). -/
structure Waiter where
  var : Nat
  tid : Word
  tag : TagId
  addr : Nat
  n : Nat
  deriving DecidableEq, Repr

/-- An Inlet queue (R256): its slots, HEAD and TAIL, the owner tag and priority a LAUNCH or a peer binds a slot to (R257, R264), the slots cancelled before they became the head (R260), and
the head as a candidate; ready says that its wait words all read final, checked the launch number it was accepted under. -/
structure Queue where
  slots : Vector Line 64
  head : Fin 64
  tail : Fin 64
  bound : List (Fin 64 × BitVec 16 × Nat)
  holes : List (Fin 64)
  cand : Cand
  ready : Bool
  checked : Option Nat
  deriving DecidableEq, Repr

/-! ### Memory, caches and channels -/

/-- A page-table entry held by a site's engines, a leaf or not: the space, by its tag and the root fixed at dispatch (R296), the level, the
virtual address above what the entry covers, and the entry (R250, R301). -/
structure Tlb where
  tag : BitVec 16
  root : Nat
  level : Nat
  page : Nat
  pte : Word
  deriving DecidableEq, Repr

/-- A shape record held by a site's engines: the space, by its tag and root, its virtual address, its address in HBM, and its bits (R250). -/
structure ShapeLine where
  tag : BitVec 16
  root : Nat
  va : Nat
  dpa : Nat
  bits : BitVec 512
  deriving DecidableEq, Repr

/-- The caches of a site's engines: up to 64 shape records, most recent first; translations (R250); and the commands, by core and number,
whose record or walk under way was dropped after it had been read in part, and is not to be held (R250, R302). -/
structure Site where
  records : List ShapeLine
  tlb : List Tlb
  dropped : List (CoreId × Nat)
  deriving DecidableEq, Repr

/-- What a pseudo-channel keeps of its rows: the open row of each bank, activation counts by bank and row, counts whose parity
fails, and the targeted-refresh queue (R195). -/
structure Dram where
  chan : ChanId
  opened : List (Nat × Nat)
  counts : List (Nat × Nat)
  corrupt : List Nat
  queue : List Nat
  deriving DecidableEq, Repr

/-- An atom that a peer writes, on its way to its slot: the space and the virtual address it was translated from, the shootdowns that wait for
it, its pseudo-channel, address, the bytes it writes, and the port to answer by (R189, R201, R302). -/
structure Inbound where
  space : BitVec 16
  va : Nat
  shoots : List Nat
  chan : ChanId
  dpa : Nat
  mask : BitVec 32
  data : BitVec 256
  port : PortId
  deriving DecidableEq, Repr

/-- A shootdown in progress: the space and the range it names, or every space, and the copies it waits for (R302). -/
structure Shoot where
  id : Nat
  core : CoreId
  region : Nat
  space : Option (BitVec 16)
  lo : Nat
  hi : Nat
  waits : List (CoreId × Nat)
  deriving DecidableEq, Repr

/-! ### Management (R306 to R317, R344) -/

/-- An event of the ring (R314). -/
structure Event where
  seq : Nat
  code : Nat
  kind : Nat
  source : Nat
  d0 : Word
  d1 : Word
  deriving DecidableEq, Repr

/-- A firmware image: how many bytes it has, and its bytes as a little-endian number (R315). -/
structure Image where
  len : Nat
  bytes : Nat
  deriving DecidableEq, Repr

/-- A copy of the lifetime record: its 12,352 bytes as a little-endian number (R344). -/
structure LifeCopy where
  bytes : Nat
  deriving DecidableEq, Repr

/-- What a master's last request was answered with: it was taken; it was refused, over CXL.io by Completer Abort, over a fabric port by NAK
and over I3C by NACK (R257, R311); or a peer's write failed with a status (R313). -/
inductive Answer where
  | taken | completerAbort | nak | nack
  | failed (status : Word)
  deriving DecidableEq, Repr

/-- The management space (R306 to R317). open_ is the clock at which an open claim window closes; claims the last claim of each
port in it; links the ports whose link is up; tried the ports whose first training attempt is over; body the report
that is being signed; newest the place in the firmware store of the update accepted last, kept with the store (R315); via the fabric port by
which each frozen peer's violation came. -/
structure Mgmt where
  owned : Bool
  open_ : Option Nat
  epoch : BitVec 16
  prio : BitVec 8
  succ : BitVec 5
  owner : BitVec 5
  claims : List (PortId × BitVec 8)
  frozen : BitVec 20
  devid : BitVec 12
  astbase : BitVec 40
  spbase : Word
  spctl : Word
  ovf : Vector Word 4
  grants : Vector Word 20
  hostWin : Vector (Word × Word) 16
  cxlWin : Vector (Vector Word 4) 8
  acl : List (Nat × Word)
  via : List (Nat × Nat)
  fwstat : Word
  fwAddr : Word
  fwBusy : Bool
  store : Vector (Option Image) 2
  newest : Fin 2
  running : Option Image
  nonce : Vector Word 4
  atBusy : Bool
  body : List Word
  report : List Word
  links : BitVec 20
  tried : BitVec 20
  deriving DecidableEq, Repr

/-- The answer of the device to the last access of a host over CXL.mem (R305, R311). -/
structure Reply where
  data : BitVec 256
  poison : Bool
  error : Bool
  deriving DecidableEq, Repr

/-! ### Steps that are due -/

/-- The horizons that an acquire raises to its number once it is complete: none, those of every log, or those of the logs of holders (R205,
R206). -/
inductive Raise where
  | none
  | all (n : Nat)
  | logs (ws : List Nat) (n : Nat)
  deriving DecidableEq, Repr

/-- What a step of the device acts on. The table of operations gives these steps no fields. arrive is the command a task has sent, at the end
of its crossing; reply the answer to one, at the end of its own (R347). -/
inductive StepArg where
  | none
  | core (k : CoreId)
  | take (k : CoreId) (head : Bool)
  | matrix (k : CoreId) (hold : Bool)
  | bundle (pos : Fin 4)
  | fetch (k : CoreId) (addr : Nat)
  | cmd (k : CoreId) (id : Nat)
  | arrive (tid : Word) (born : Nat)
  | reply (tid : Word) (born : Nat) (tag : TagId) (addr : Nat) (word : Option Word) (status : Word) (up : Raise)
  | atom (k : CoreId) (id i : Nat)
  | service (c : ChanId) (slot : Nat)
  | chan (c : ChanId)
  | four (c : Fin 768)
  | shoot (id : Nat)
  | launch (n : Nat)
  | task (tid : Word)
  | born (tid : Word) (n : Nat)
  | place (tid : Word) (k : CoreId)
  | pitch (tid : Word) (i : Nat)
  | group (h : BitVec 32)
  | slot (h : BitVec 32) (i : Nat)
  | status (h : BitVec 32) (tid : Word)
  | queue (q : Fin 16)
  | sense (temp drift amps : List Nat)
  | state (k : CoreId) (st : CoreSt)
  | island (k : CoreId) (array : Bool)
  | isle (n : Fin 256)
  | write (m : PortId) (off : Nat) (v : Word)
  | line (m : PortId) (q : Fin 16) (i : Fin 64) (image : Line)
  | packet (peer : Fin 4096) (port : Fin 18) (q : Fin 16) (image : Line)
  | cancel (peer : Fin 4096) (port : Fin 18) (addr : BitVec 48)
  | fab (peer : Fin 4096) (port : Fin 18) (addr : BitVec 48) (mask : BitVec 32) (data : BitVec 256)
  | host (write : Bool) (addr : Nat) (mask : BitVec 32) (data : BitVec 256)
  | link (m : PortId) (up : Bool)
  | bring (n : Nat)
  deriving DecidableEq, Repr

/-- What the next step does: the clock of a core, or a step of the device. An item is a step of the device on its way over a free crossing of a
core: it is taken once the receiver's period has come to a number (R347). -/
inductive Due where
  | core (k : CoreId)
  | dev (i : Instr) (a : StepArg)
  | item (k : CoreId) (j : Fin 10) (p : Nat) (i : Instr) (a : StepArg)
  deriving DecidableEq, Repr

/-- The whole device. MODEL fields, none of the spec's: cur, the core whose clock it is; arg, what the step of the device acts on;
todo, the steps of this clock still to take; agenda, the steps due at later clocks; free, the number of free values drawn. isles are the
islands outside the cores; inbox the atoms that peers write, in order of arrival; brought is the last step of bring-up that has been
passed (R349). Of the islands, 0 to 47 are the sites' fabric, 48 to 143 the memory controllers, each of 32 pseudo-channels, 144 to 239 the copy
engines, 240 to 255 the quadrants (R1, R7). -/
structure State where
  now : Nat
  cur : CoreId
  arg : StepArg
  todo : List Due
  agenda : List (Nat × Due)
  free : Nat
  powered : Bool
  ready : Bool
  cores : Vector Core 384
  hbm : Mem
  pagePoison : List Nat
  host : Mem
  hpat : Vector Word 8
  dram : List Dram
  quiet : List (Nat × Nat)
  asleep : List Nat
  writeback : List (ChanId × Nat)
  inbox : List Inbound
  isles : Vector Isle 256
  sites : Vector Site 48
  shoots : List Shoot
  sync : List (Nat × Word)
  sems : List Waiter
  bars : List Waiter
  seq : Nat
  logs : List Log
  tasks : List Task
  launches : List Launch
  groups : List Group
  nextLaunch : Nat
  queues : Vector Queue 16
  lastQueue : Fin 16
  orders : Nat
  events : List Event
  evcount : Nat
  mgmt : Mgmt
  life : Vector LifeCopy 2
  reply : Option Reply
  answers : Vector (Option Answer) 20
  brought : Nat
  sentFab : List (BitVec 12 × Nat × Byte)
  deriving DecidableEq, Repr

/-! ### Reset -/

/-- The context of a core that no task has run on yet: log 1. -/
def Ctx.reset : Ctx :=
  { s := Vector.replicate 64 0, p := Vector.replicate 32 0, v := Vector.replicate 64 ⟨0, .clean⟩
    a := Vector.replicate 8 ⟨Vector.replicate 128 0, BitVec.allOnes 128, 0, .clean⟩
    w := Vector.replicate 2 ⟨Vector.replicate 128 0, Vector.replicate 128 (BitVec.ofNat 128 0x80808080808080808080808080808080), .clean, true⟩
    h := Vector.replicate 16 none, tags := Vector.replicate 64 ⟨.idle, 0⟩
    x := ⟨0, 0, 0, 0, 0, 0x9E3779B97F4A7C15, 0, 0, 0, 0, 0, false, 0, 0⟩
    groupFlag := .none, groupStatus := 0, forks := 0, retry := false, resumed := none, pc := 0, pitch := [] }

/-- A core that runs nothing. -/
def Run.reset : Run :=
  { phase := .idle, code := 0, bubbles := 0, target := none, issues := 0, frozen := [], flights := [], mops := [], mcycle := 0
    regions := [], nextRegion := 0, openNext := true, copies := [], nextCmd := 0, fences := [], effects := []
    sent := none, acqs := [], drainBuf := none, tagTable := [], trap := none, held := [], preempt := false, fresh := false, yielded := none, cancel := false
    drain := none, stages := 0, loopTop := 0, atHead := false, take := (0, 0), fullSince := none, escalated := none }

/-- A new core's wear (R344): log 3. -/
def Wear.reset : Wear := ⟨.healthy, 0, 0, 0, 0, 0⟩

/-- A core at reset: logs 1 to 3. -/
def Core.reset : Core :=
  { ctx := Ctx.reset, run := Run.reset, sram := ⟨[], [], [], 0⟩, clk := ⟨0, 0, [], [], 0, false, false, none, [], [], Vector.replicate 10 ⟨2, 0⟩⟩, icache := [], wear := Wear.reset
    sample := ⟨0, 0, 0, 0, 0, none, false⟩, usable := true }

/-- The management space at reset: log 6. The images of the firmware store are free values: log 7. -/
def Mgmt.reset : Mgmt :=
  { owned := false, open_ := none, epoch := 0, prio := 0, succ := 31, owner := 0, claims := [], frozen := 0, devid := 0, astbase := 0
    spbase := 0, spctl := 0, ovf := Vector.replicate 4 0, grants := Vector.replicate 20 0
    hostWin := Vector.replicate 16 (0, 0), cxlWin := Vector.replicate 8 (Vector.replicate 4 0), acl := [], via := [], fwstat := 0, fwAddr := 0
    fwBusy := false, store := #v[some ⟨Config.freeNat 0 0, Config.freeNat 0 1⟩, some ⟨Config.freeNat 0 2, Config.freeNat 0 3⟩], newest := 0, running := none, nonce := Vector.replicate 4 0, atBusy := false
    body := List.replicate 16 0, report := List.replicate 16 0, links := 0, tried := 0 }

/-- A new part's copy of the lifetime record: log 3. -/
def LifeCopy.reset : LifeCopy := ⟨recordImage 0 0 (List.replicate 384 (recordEntry 0 0 0 0 0 0))⟩

/-- The device right after reset: nothing brought up yet; bring-up is due (R349). HPAT as R187 gives it; the sequencer stands at 1
(R204); the first launch number is 1 (R253). That R258's round of the queues starts from queue 0 is a DESIGN CHOICE (log 6). -/
def State.reset : State :=
  { now := 0, cur := 0, arg := .none, todo := [], agenda := [(1, .dev .bringUp (.bring 1))], free := 1, powered := true
    ready := false, cores := Vector.replicate 384 Core.reset, hbm := [], pagePoison := [], host := []
    hpat := #v[0, 0x14131211100F0E0D, 0, 0, 0, 0, 0, 0], dram := [], quiet := [], asleep := [], writeback := [], inbox := []
    isles := Vector.replicate 256 ⟨0, [], [], 0, 0⟩
    sites := Vector.replicate 48 ⟨[], [], []⟩, shoots := [], sync := [], sems := [], bars := [], seq := 1, logs := [], tasks := []
    launches := [], groups := [], nextLaunch := 1
    queues := Vector.replicate 16 ⟨Vector.replicate 64 0, 0, 0, [], [], ⟨0, none, false⟩, false, none⟩, lastQueue := 15, orders := 0
    events := [], evcount := 0, mgmt := Mgmt.reset, life := Vector.replicate 2 LifeCopy.reset, reply := none, answers := Vector.replicate 20 none, brought := 0, sentFab := [] }

end Sys2Proof.Machine
end

