-- ==== Sys2Proof/Machine/Ops.lean ====
section
/-! DEFINITION. The named operations of one core over its registers, scratchpad, results in flight and regions (R14 to R43). -/

namespace Sys2Proof.Machine

/-! ### Memory in canonical form -/

/-- The byte at an address; an unlisted address reads as 0. -/
def memGet (m : Mem) (a : Nat) : Byte :=
  match m with
  | [] => 0
  | c :: r => if c.1 = a then c.2 else if a < c.1 then 0 else memGet r a

/-- A byte written, keeping the canonical form. -/
def memSet (m : Mem) (a : Nat) (b : Byte) : Mem :=
  match m with
  | [] => if b = 0 then [] else [(a, b)]
  | c :: r =>
    if c.1 = a then (if b = 0 then r else (a, b) :: r)
    else if a < c.1 then (if b = 0 then c :: r else (a, b) :: c :: r)
    else c :: memSet r a b

/-- n bytes from an address, little-endian (R12). -/
def memLe (m : Mem) (a : Nat) : Nat → Nat
  | 0 => 0
  | n + 1 => (memGet m a).toNat + 256 * memLe m (a + 1) n

/-- n bytes from an address as a word of w bits (R12). -/
def memBits (m : Mem) (w a n : Nat) : BitVec w := BitVec.ofNat w (memLe m a n)

/-- The bytes of a value written from an address, little-endian (R12). -/
def memPut (m : Mem) (a : Nat) (v : Nat) : Nat → Mem
  | 0 => m
  | n + 1 => memPut (memSet m a (BitVec.ofNat 8 v)) (a + 1) (v / 256) n

/-- The bytes of a value written from an address where the mask has a one, bit k for byte k. -/
def memPutMask (m : Mem) (a mask v : Nat) : Nat → Mem
  | 0 => m
  | n + 1 => memPutMask (if mask % 2 = 1 then memSet m a (BitVec.ofNat 8 v) else m) (a + 1) (mask / 2) (v / 256) n

/-- A number put into an ordered list without repeats. -/
def setInsert (l : List Nat) (n : Nat) : List Nat :=
  match l with
  | [] => [n]
  | x :: r => if x = n then l else if n < x then n :: l else x :: setInsert r n

/-- A number taken out of a list. -/
def setErase (l : List Nat) (n : Nat) : List Nat := l.filter (· != n)

/-- A number put into an ordered list or taken out of it. -/
def setPut (l : List Nat) (n : Nat) (b : Bool) : List Nat := if b then setInsert l n else setErase l n

/-- An entry of a list by number. -/
def pairGet {α : Type} (l : List (Nat × α)) (k : Nat) : Option α := (l.find? (·.1 == k)).map (·.2)
/-- An entry of a list put by number. -/
def pairPut {α : Type} (l : List (Nat × α)) (k : Nat) (v : α) : List (Nat × α) := (k, v) :: l.filter (·.1 != k)
/-- A count kept by number raised by one. -/
def bump (l : List (Nat × Nat)) (k : Nat) : List (Nat × Nat) :=
  match l with
  | [] => [(k, 1)]
  | x :: r => if x.1 = k then (k, x.2 + 1) :: r else x :: bump r k

/-- An element put into a list by a key, behind those of the same key. -/
def insertOn {α : Type} (key : α → Nat) (x : α) : List α → List α
  | [] => [x]
  | y :: r => if key x < key y then x :: y :: r else y :: insertOn key x r
/-- A list in the order of a key; elements of one key keep their order. -/
def sortOn {α : Type} (key : α → Nat) (l : List α) : List α := l.foldl (fun l x => insertOn key x l) []

/-! ### Registers (R27 to R29) -/

/-- A scalar register; s0 reads zero (R27). -/
def Ctx.sreg (c : Ctx) (r : SReg) : Word := if r = 0 then 0 else c.s[r]
/-- A predicate by physical number; p0 reads all ones (R27). -/
def Ctx.preg (c : Ctx) (r : PReg) : Word := if r = 0 then BitVec.allOnes 64 else c.p[r]
/-- A scalar written; s0 discards (R27). -/
def Ctx.setS (c : Ctx) (r : SReg) (v : Word) : Ctx := if r = 0 then c else { c with s := c.s.set r v }
/-- The bits of a predicate under a mask written; p0 discards (R27). -/
def Ctx.setP (c : Ctx) (r : PReg) (mask v : Word) : Ctx :=
  if r = 0 then c else { c with p := c.p.set r ((c.p[r] &&& ~~~mask) ||| (v &&& mask)) }

/-- The physical vector register of a logical one under a base (R29). -/
def physVOf (vrb : BitVec 6) (r : VReg) : VReg :=
  if r.val < 16 then r else Fin.ofNat 64 ((r.val - 16 + vrb.toNat) % 48 + 16)
/-- The physical predicate of a logical one under a base (R29). -/
def physPOf (prb : BitVec 5) (r : PReg) : PReg :=
  if r.val < 8 then r else Fin.ofNat 32 ((r.val - 8 + prb.toNat) % 24 + 8)
/-- The physical vector register of a logical one (R29). -/
def Core.physV (c : Core) (r : VReg) : VReg := physVOf c.ctx.x.vrb r
/-- The physical predicate of a logical one (R29). -/
def Core.physP (c : Core) (r : PReg) : PReg := physPOf c.ctx.x.prb r
/-- A scalar source (R17). -/
def Core.s (c : Core) (r : SReg) : Word := c.ctx.sreg r
/-- A predicate source or a guard, all 64 bits (R17, R28). -/
def Core.pr (c : Core) (r : PReg) : Word := c.ctx.preg (c.physP r)
/-- A vector source (R17). -/
def Core.vr (c : Core) (r : VReg) : VecR := c.ctx.v[c.physV r]
/-- The guard of an S, M or C syllable: bit 0 (R28). -/
def Core.g0 (c : Core) (g : PReg) : Bool := (c.pr g).getLsbD 0

/-- The register file behind a context update. -/
def Core.onCtx (c : Core) (f : Ctx → Ctx) : Core := { c with ctx := f c.ctx }
/-- The running state updated. -/
def Core.onRun (c : Core) (f : Run → Run) : Core := { c with run := f c.run }
/-- The special registers updated. -/
def Core.onSpr (c : Core) (f : Spr → Spr) : Core := { c with ctx := { c.ctx with x := f c.ctx.x } }

/-- Energy charged to the context, in femtojoules (R98, R99). -/
def Core.meter (c : Core) (fj : Nat) : Core := c.onSpr fun x => { x with emet := x.emet + BitVec.ofNat 64 fj }

/-- The copy-tag bitmap: bit n is 1 exactly when tag n is complete (R30, R223). -/
def Ctx.ctb (c : Ctx) : Word :=
  BitVec.ofNat 64 (c.tags.toList.foldr (fun t acc => (if t.st = .complete then 1 else 0) + 2 * acc) 0)

/-- A copy tag written. -/
def Ctx.setTag (c : Ctx) (t : TagId) (v : CTag) : Ctx := { c with tags := c.tags.set t v }

/-! ### The scratchpad (R174, R175) -/

/-- The number of granted bytes: logical pitches 0 to n - 1 (R174). -/
def Core.granted (c : Core) : Nat := 65536 * c.ctx.pitch.length
/-- n bytes from an address lie below 0x40_0000 and in granted pitches (R114). The granted pitches are the first n, so the
last byte decides. -/
def Core.inBounds (c : Core) (a n : Nat) : Bool := a < 0x400000 && a + n ≤ c.granted
/-- The SRAM byte of a logical scratchpad byte (R174). -/
def Ctx.phys (c : Ctx) (a : Nat) : Nat := (c.pitch.getD (a / 65536) 0).val * 65536 + a % 65536
/-- Whether the line of a logical byte is poisoned (R175). -/
def Core.poisonAt (c : Core) (a : Nat) : Bool := c.sram.poison.contains (c.ctx.phys a / 256)
/-- Whether the line of a logical byte is clean (R95). -/
def Core.cleanAt (c : Core) (a : Nat) : Bool := c.sram.clean.contains (c.ctx.phys a / 256)
/-- n logical bytes of one line, little-endian. -/
def Core.load (c : Core) (a n : Nat) : Nat := memLe c.sram.bytes (c.ctx.phys a) n
/-- A logical line as it stands. -/
def Core.line (c : Core) (a : Nat) : Line := BitVec.ofNat 2048 (c.load a 256)

/-- The poison and clean bits of an SRAM line after a store (R95, R128). -/
def Sram.mark (m : Sram) (line : Nat) (eff : LineEff) : Sram :=
  match eff with
  | .dirty => { m with clean := setErase m.clean line }
  | .full => { m with clean := setErase m.clean line, poison := setErase m.poison line }
  | .cleaned => { m with clean := setInsert m.clean line, poison := setErase m.poison line }
  | .poisoned => { m with clean := setErase m.clean line, poison := setInsert m.poison line }

/-- Masked bytes of one line stored from an SRAM address, and the bits of that line (R114, R128). -/
def Sram.store (m : Sram) (a : Nat) (mask : BitVec 256) (data : Line) (eff : LineEff) : Sram :=
  if mask = 0 then m
  else ({ m with bytes := memPutMask m.bytes a mask.toNat data.toNat 256 } : Sram).mark (a / 256) eff

/-- One byte written by an engine: it lands between cycles and clears its line's clean bit (R95, R219). -/
def Sram.poke (m : Sram) (a : Nat) (b : Byte) : Sram :=
  { m with bytes := memSet m.bytes a b, clean := setErase m.clean (a / 256) }

/-- The logical bytes a to a + 255, across two lines and two pitches where a is no multiple of 256 (R127). -/
def Core.window (c : Core) (a : Nat) : Line :=
  let k := 256 - a % 256
  BitVec.ofNat 2048 (c.load a k + 2 ^ (8 * k) * c.load (a + k) (256 - k))

/-- The address of the bundle at issue as a trap record holds it (R323). -/
def Core.pc48 (c : Core) : BitVec 48 := c.ctx.pc.setWidth 48

/-! ### Faults and freezes at issue (R23, R106, R126) -/

/-- The first of several faults, in the order of a slot (R106, R126, R157, R222). -/
def firstFault : List (Bool × Cause) → Option Cause
  | [] => none
  | (b, c) :: r => if b then some c else firstFault r

/-- A fault raised at issue by the syllable in a position: the trap begins and the bundle does not issue (R319, R320). -/
def Core.raise (c : Core) (pos : Fin 4) (cause : Cause) (detail : BitVec 32 := 0) : Core :=
  c.onRun fun r => { r with
    phase := .trapping
    trap := some ⟨cause, pos, c.pc48, (r.regions.head?).map (·.id), none, detail, 0, 0, .normal⟩ }

/-- An effect behind the checks of its syllable. -/
def Core.checked (c : Core) (pos : Fin 4) (l : List (Bool × Cause)) (f : Core → Core) : Core :=
  match firstFault l with
  | some cause => c.raise pos cause
  | none => f c

/-- The bundle freezes under a cause of R23. -/
def Core.freeze (c : Core) (cause : Nat) : Core := c.onRun fun r => { r with frozen := r.frozen ++ [cause] }

/-! ### Results in flight (R17) -/

/-- The region that issues: the newest one (R37). -/
def Core.regionId (c : Core) : Nat := ((c.run.regions.head?).map (·.id)).getD 0
/-- The head of the region that issues. -/
def Core.regionHead (c : Core) : Word :=
  match c.run.regions with
  | [] => c.ctx.pc
  | r :: _ => r.head
/-- The C syllables the region has issued. -/
def Core.regionCsyl (c : Core) : Nat :=
  match c.run.regions with
  | [] => 0
  | r :: _ => r.csyl
/-- The region that issues, updated. -/
def Core.onRegion (c : Core) (f : Region → Region) : Core :=
  c.onRun fun r => { r with regions := match r.regions with
    | [] => []
    | x :: l => f x :: l }
/-- The region of a number, updated. -/
def Core.onRegionId (c : Core) (id : Nat) (f : Region → Region) : Core :=
  c.onRun fun r => { r with regions := r.regions.map fun x => if x.id = id then f x else x }

/-- A result issued with latency lat: it lands at the end of cycle t + lat - 1 (R17). -/
def Core.fly (c : Core) (lat : Nat) (slot : Fin 4) (l : Landing) : Core :=
  c.onRun fun r => { r with flights := r.flights ++ [⟨lat, r.issues, c.regionId, slot, c.pc48, l⟩] }

/-- A scalar result from a slot. -/
def Core.flyS (c : Core) (lat : Nat) (slot : Fin 4) (d : SReg) (v : Word) : Core := c.fly lat slot (.scalar d v)
/-- A whole predicate result of the S slot, mapped at issue (R17, R111). -/
def Core.flyP (c : Core) (d : PReg) (v : Word) : Core := c.fly 1 0 (.pred (c.physP d) (BitVec.allOnes 64) v)

/-! ### Landing (R17, R19, R35, R41) -/

/-- A scalar that lands is written to the register and to the snapshot of every region issued after its own (R41). -/
def Core.landS (c : Core) (region : Nat) (d : SReg) (v : Word) : Core :=
  let c := c.onCtx (·.setS d v)
  c.onRun fun r => { r with regions := r.regions.map fun x =>
    if x.id > region && d != 0 then { x with snap := { x.snap with s := x.snap.s.set d v } } else x }

/-- The same for a predicate, under a mask. -/
def Core.landP (c : Core) (region : Nat) (d : PReg) (mask v : Word) : Core :=
  let c := c.onCtx (·.setP d mask v)
  c.onRun fun r => { r with regions := r.regions.map fun x =>
    if x.id > region && d != 0 then
      { x with snap := { x.snap with p := x.snap.p.set d ((x.snap.p[d] &&& ~~~mask) ||| (v &&& mask)) } }
    else x }

/-- A fault found at a landing belongs to the region that issued the result (R319). One under way that belongs to an earlier
region stays; otherwise this region becomes the trapping one (R351). -/
def Core.landFault (c : Core) (region : Nat) (slot : Fin 4) (bundle : BitVec 48) (cause : Cause) (detail : BitVec 32)
    (status : Word) : Core :=
  let t : Trap := ⟨cause, slot, bundle, some region, none, detail, 0, status, .normal⟩
  match c.run.trap with
  | none => c.onRun fun r => { r with phase := .trapping, trap := some t }
  | some u =>
    match u.region with
    | none => c.onRun fun r => { r with phase := .trapping, trap := some t, held := r.held ++ [u] }
    | some k => if region < k then c.onRun fun r => { r with phase := .trapping, trap := some t } else c

/-- The tag a register takes from a result that leaves it the given bits. A partial write leaves POISON as it is, and one whose destination
had the result tag at issue leaves the register the tag it has, unless it is CLEAN by then (R33, R151); under the zero rule a register of
zeros becomes CLEAN unless it is POISON (R135). -/
def VWrite.tagOver (w : VWrite) (old : Tag) (bits : Line) : Tag :=
  let part := w.mask != BitVec.allOnes 2048
  let t := if part && (old == .poison || (w.tag == some w.was && w.was != .poison && old != .clean)) then old else w.tag.getD old
  if w.zero && t != .poison && bits == 0 then .clean else t

/-- What a step changed is kept with its region, for an unwind (R104, R105). -/
def Core.keep (c : Core) (region : Nat) (u : Undo) (fj : Option Nat) : Core :=
  c.onRegionId region fun r => { r with landed := ⟨u, fj⟩ :: r.landed }

/-- A result that lands behind a step of a later region on the same register is part of what that step's undoing gives back, as a scalar
is part of the later region's snapshot (R41, R42). -/
def VWrite.beneath (w : VWrite) (mask : Line) (l : Landed) : Landed :=
  match l.what with
  | .vreg d m old tag =>
    if d = w.d then
      let bits := (old &&& ~~~mask) ||| (w.bits &&& mask)
      { l with what := .vreg d m bits (w.tagOver tag bits) }
    else l
  | _ => l

/-- A vector result lands: the destination check of R35, which a result that loses all its lanes meets as well, then the masked bits and the
tag. What it changed is kept for an unwind (R104). -/
def Core.landV (c : Core) (f : Flight) (w : VWrite) (mask : Line) : Core :=
  let old := c.ctx.v[w.d]
  if w.needClean && old.tag != .clean then c.landFault f.region f.slot f.bundle .cleanRequired 0 0
  else if w.mask != 0 && mask == 0 then c
  else
    let bits := (old.bits &&& ~~~mask) ||| (w.bits &&& mask)
    let c1 := c.onCtx fun x => { x with v := x.v.set w.d ⟨bits, w.tagOver old.tag bits⟩ }
    let c2 := c1.onRun fun r => { r with regions := r.regions.map fun g =>
      if g.id > f.region then { g with landed := g.landed.map (w.beneath mask) } else g }
    c2.keep f.region (.vreg w.d mask old.bits old.tag) w.rev

/-- The 32-bit lanes that a mask reaches into, whole. -/
def lanesOf (m : Line) : Line :=
  BitVec.ofNat 2048 ((List.range 64).foldr (fun i x => (if m.extractLsb' (32 * i) 32 = 0 then 0 else 2 ^ 32 - 1) + 2 ^ 32 * x) 0)
/-- The lanes of a vector register that results landing later in the same cycle take: ties are settled lane by lane, and a result that
writes some bits of a lane takes all of it (R19). -/
def laterMask (d : VReg) : List Flight → Line
  | [] => 0
  | f :: r =>
    match f.land with
    | .vec w => if w.d = d then lanesOf w.mask ||| laterMask d r else laterMask d r
    | .pair w x => (if w.d = d then lanesOf w.mask else 0) ||| (if x.d = d then lanesOf x.mask else 0) ||| laterMask d r
    | _ => laterMask d r

/-- The bits a result writes in the lanes that no later result of the cycle takes. -/
def VWrite.wins (w : VWrite) (later : List Flight) : Line := w.mask &&& ~~~laterMask w.d later

/-- The special register of a number written by a WRSR at the end of its cycle (R30, R122, R329). HPAT is the package's. -/
def Spr.write (x : Spr) (n : BitVec 8) (v : Word) : Spr :=
  match n.toNat with
  | 0x01 => { x with vrb := BitVec.ofNat 6 (v.toNat % 48) }
  | 0x02 => { x with prb := BitVec.ofNat 5 (v.toNat % 24) }
  | 0x03 => { x with lcnt := v.setWidth 32 }
  | 0x04 => { x with lstg := v.setWidth 8 }
  | 0x06 => { x with srs := if v = 0 then 1 else v }
  | 0x0E => { x with priv := v != 0 }
  | 0x10 => { x with tvec := v }
  | 0x11 => { x with trec := v }
  | _ => x

/-- One result lands, with the results that land after it in the same cycle (R19). Of an exchange that loses its first register the second
carries the energy. A register that is CLEAN or POISON when a VRETAG lands keeps its tag (R152), and a copying form makes its CLEAN check
though all of its lanes are lost: log 84. -/
def Core.land (c : Core) (f : Flight) (later : List Flight) : Core :=
  match f.land with
  | .scalar d v => c.landS f.region d v
  | .pred d m v => c.landP f.region d m v
  | .vec w => c.landV f w (w.wins later)
  | .pair w x =>
    (c.landV f w (w.wins later)).landV f (if w.mask != 0 && w.wins later == 0 then { x with rev := w.rev } else x) (x.wins later)
  | .vtag d t =>
    let old := c.ctx.v[d]
    if old.tag == .clean || old.tag == .poison then c
    else (c.onCtx fun x => { x with v := x.v.set d ⟨old.bits, t⟩ }).keep f.region (.vreg d 0 old.bits old.tag) (some 0)
  | .store a m data eff =>
    let line := a / 256
    ({ c with sram := c.sram.store a m data eff } : Core).keep f.region
      (.bytes a m (BitVec.ofNat 2048 (memLe c.sram.bytes a 256)) (c.sram.clean.contains line)
        (if eff == .dirty then none else some (c.sram.poison.contains line))) none
  | .spr n v => c.onSpr (·.write n v)
  | .loop lcnt lstg p8 v => (c.landP f.region p8 (BitVec.allOnes 64) v).onSpr fun x => { x with lcnt := lcnt, lstg := lstg }
  | .cloop vrb prb lcnt lstg p8 v =>
    (c.landP f.region p8 (BitVec.allOnes 64) v).onSpr fun x => { x with vrb := vrb, prb := prb, lcnt := lcnt, lstg := lstg }

/-- The results that are due land in issue order, and within a bundle in slot order (R19). -/
def Core.landAll (c : Core) : List Flight → Core
  | [] => c
  | f :: r => (c.land f r).landAll r

/-- The end of a cycle for the S and V latencies: each falls by one and what is due lands (R17). -/
def Core.landCycle (c : Core) : Core :=
  let fs := c.run.flights.map fun f => { f with left := f.left - 1 }
  (c.onRun fun r => { r with flights := fs.filter (·.left != 0) }).landAll (fs.filter (·.left == 0))

/-- A result put into the list of results in issue order (R19). -/
def insertFlight (f : Flight) : List Flight → List Flight
  | [] => [f]
  | g :: r => if f.ord < g.ord || (f.ord == g.ord && f.slot.val < g.slot.val) then f :: g :: r else g :: insertFlight f r

/-! ### Regions (R37 to R41) -/

/-- The snapshot of a region head (R41). -/
def Ctx.snap (c : Ctx) : Snap := ⟨c.s, c.p, c.x.srs, c.x.vrb, c.x.prb, c.x.lcnt, c.x.lstg, c.groupFlag, c.retry⟩

/-- The snapshot restored (R41). -/
def Ctx.restore (c : Ctx) (p : Snap) : Ctx :=
  { c with
    s := p.s, p := p.p, groupFlag := p.groupFlag, retry := p.retry
    x := { c.x with srs := p.srs, vrb := p.vrb, prb := p.prb, lcnt := p.lcnt, lstg := p.lstg } }

/-- A region whose head is the bundle at pc. -/
def Region.fresh (id : Nat) (c : Ctx) (checked : Option (BitVec 32)) : Region :=
  { id := id, head := c.pc, resumed := false, priv := c.x.priv, snap := c.snap, closed := false, checked := checked, headTick := c.x.tick, lastTick := c.x.tick
    crc := 0xFFFFFFFF, issued := 0, looped := false, drainAdd := false, csyl := 0, segment := [], cleared := 0
    raised := Vector.replicate 8 0, tagOps := [], landed := [], rings := [], ended := false, claims := [], tclrs := []
    effect := none, tlbis := [], corr := 0 }

/-- The newest region closes: its last bundle has issued or is issuing (R37). -/
def Core.closeRegion (c : Core) : Core := (c.onRegion fun r => { r with closed := true }).onRun fun r => { r with openNext := true }

/-- A region opening at pc is the one a resumption opens: it stands at the restart point, for the first time or after a trap in it, and none
that has yet to commit is that region already (R278, R279). -/
def Core.resumes (c : Core) : Bool := c.ctx.resumed == some c.ctx.pc && !c.run.regions.any (·.resumed)
/-- A region opening at pc, with the signature it is to be checked against; the one that a resumption opens is checked against none, and
every other one is (R278, R332). -/
def Core.newRegion (c : Core) (id : Nat) (checked : Option (BitVec 32)) : Region :=
  { Region.fresh id c.ctx (if c.resumes then none else checked) with resumed := c.resumes }

/-- A region opens at the bundle at pc, unless it has just been opened there; the one before it closes (R37). -/
def Core.openRegion (c : Core) (checked : Option (BitVec 32)) : Core :=
  match c.run.regions with
  | r :: _ =>
    if r.issued = 0 && r.head == c.ctx.pc && !c.run.openNext then
      c.onRegion fun x => { x with checked := if x.resumed then none else checked }
    else
      (c.closeRegion).onRun fun r => { r with
        regions := c.newRegion r.nextRegion checked :: r.regions, nextRegion := r.nextRegion + 1, openNext := false }
  | [] => c.onRun fun r => { r with
        regions := [c.newRegion r.nextRegion checked], nextRegion := r.nextRegion + 1, openNext := false }

/-- The bytes of a bundle into the CRC of a region (R333). -/
def crcBundle (crc : BitVec 32) (b : BitVec 128) : BitVec 32 :=
  (List.range 16).foldl (fun x i => crcByte x (b.extractLsb' (8 * i) 8)) crc

/-- The bits of a REGIONC bundle that enter the CRC as zero: the 16 expected CRC bits in the syllable and in its literal
(R333). -/
def crcBlank (b : BitVec 128) : BitVec 128 :=
  b &&& ~~~((0x1FE0#128) ||| ((0xFF#128) <<< 32))

/-- A spill or a fill, whose region waits for it (R42, R133). -/
def CopyKind.moves (k : CopyKind) : Bool := k == .spill || k == .fill
/-- The commands that complete in a cycle of their own, 1,023 after their issue (R133, R193). -/
def CopyKind.exact (k : CopyKind) : Bool := k == .inx || k.moves

/-- The copies whose atoms are on no calendar: within a site, and to what is outside the device (R200, R231, R233). -/
def CopyKind.offCalendar (k : CopyKind) : Bool := k == .peer || k == .mc || k == .fab || k == .host

/-- A command with nothing but its operands filled in (R132, R225). -/
def Core.newCmd (c : Core) (k : CopyKind) (t : Option TagId) (q : Option (Fin 4)) (a b : Word) (handle : BitVec 32) : Cmd :=
  { id := c.run.nextCmd, kind := k, tag := t, queue := q, a := a, b := b, handle := handle, region := c.regionId, ord := c.run.issues
    head := c.regionHead.setWidth 48, bundle := c.pc48
    index := c.regionCsyl, priv := c.ctx.x.priv, waits := c.run.acqs
    after := (c.run.fences.filter fun f => (q.map fun n => f.1.getLsbD n.val).getD false).flatMap (·.2)
    hole := (0, 0), ring := none, recs := [], kept := [], source := 0, phase := .waiting, left := 1024, planned := false
    halted := false, stale := false, walk := none, clock := (0, 0), atoms := [], pages := [], got := [], bad := []
    stage := [], regs := [], guard := 0, size := 0, swz := 0, status := 0 }
/-- A command goes to its engines. -/
def Core.enqueue (c : Core) (m : Cmd) : Core := c.onRun fun r => { r with copies := r.copies ++ [m], nextCmd := r.nextCmd + 1 }

/-- Whether results, transfers or shootdowns of a region are still outstanding (R39). -/
def Core.pendingOf (c : Core) (r : Region) : Bool :=
  c.run.flights.any (·.region == r.id) || c.run.mops.any (·.region == r.id) || c.run.copies.any (fun m => m.kind.moves && m.region == r.id) ||
    !r.tlbis.isEmpty

end Sys2Proof.Machine
end

