-- ==== Sys2Proof/Machine/Operands.lean ====
section
/-! DEFINITION. The operand forms: immediates, scratchpad addresses, matrix operands and descriptors (R53, R56, R113, R155,
R156). -/

namespace Sys2Proof.Machine

/-- imm8, or imm8 extended by a literal to 32 bits, sign-extended to 64 (R53, R109). -/
def imm8Sext (i : Imm8) : Word :=
  match i.lit with
  | none => i.low.signExtend 64
  | some p => (p ++ i.low : BitVec 32).signExtend 64

/-- imm14 sign-extended, or with a literal the 32-bit extended immediate sign-extended (R110). -/
def imm14Sext (i : Imm14) : Word :=
  match i.lit with
  | none => i.low.signExtend 64
  | some p => (p ++ i.low.extractLsb' 0 8 : BitVec 32).signExtend 64

/-- The immediate of LIH, zero-extended (R110). -/
def imm14Zext (i : Imm14) : Word :=
  match i.lit with
  | none => i.low.setWidth 64
  | some p => (p ++ i.low.extractLsb' 0 8 : BitVec 32).setWidth 64

/-- The effective address of a scalar or vector access (R113, R127). -/
def Core.ea (c : Core) (a : SReg) (i : Imm8) : Nat := (c.s a + imm8Sext i).toNat

/-- The target of a branch by displacement (R52). -/
def branchTarget (pc : Word) (disp : BitVec 20) : Word := pc + (disp.signExtend 64 <<< 4)

/-- The bit mask of a predicate's lanes over a vector's bits (R28). -/
def laneMaskFrom (g : Word) : Nat → Nat
  | 0 => 0
  | n + 1 => (if g.getLsbD (63 - n) then 0xFFFFFFFF else 0) * 2 ^ (32 * (63 - n)) + laneMaskFrom g n
/-- The bit mask of a predicate's lanes over a vector's bits (R28). -/
def laneMask (g : Word) : Line := BitVec.ofNat 2048 (laneMaskFrom g 64)

/-- Lane i of a vector (R28). -/
def lane (x : Line) (i : Nat) : Half := x.extractLsb' (32 * i) 32

/-- A vector of 64 lanes, lane i from f i. -/
def ofLanesFrom (f : Nat → Half) : Nat → Nat
  | 0 => 0
  | n + 1 => (f (63 - n)).toNat * 2 ^ (32 * (63 - n)) + ofLanesFrom f n
/-- A vector of 64 lanes, lane i from f i. -/
def ofLanes (f : Nat → Half) : Line := BitVec.ofNat 2048 (ofLanesFrom f 64)

/-- The executed lanes of a guard. -/
def popcount (g : Word) : Nat := (List.range 64).foldl (fun n i => if g.getLsbD i then n + 1 else n) 0

/-- The executed lanes in ascending order. -/
def execLanes (g : Word) : List Nat := (List.range 64).filter fun i => g.getLsbD i

/-! ### Matrix operands (R56) -/

/-- The descriptor in s_b (R56). -/
structure Desc where
  rows : Nat
  off : Nat
  swz : Nat
  high : Bool
  deriving DecidableEq, Repr

/-- The descriptor's fields (R56). -/
def descOf (b : Word) : Desc :=
  ⟨(b.extractLsb' 0 16).toNat, (b.extractLsb' 16 16).toNat, (b.extractLsb' 32 8).toNat, b.extractLsb' 40 24 != 0⟩

/-- Where an operand of the M slot lies: a scratchpad address, or a consumer slot with its size in bytes and its stamp. -/
structure MSrc where
  addr : Nat
  ring : Bool
  illegal : Bool
  ringConfig : Bool
  outside : Bool
  slotBytes : Nat
  stamp : Nat
  deriving DecidableEq, Repr

/-- The operand that s_a names (R56, R156). -/
def Core.msrc (c : Core) (a : Word) : MSrc :=
  if a.getLsbD 63 then
    let n : RingId := Fin.ofNat 16 a.toNat
    let bad := a.extractLsb' 4 59 != 0
    match c.ctx.h[n] with
    | none => ⟨0, true, bad, true, false, 0, 0⟩
    | some r => ⟨r.base + 256 * r.size * r.cons, true, bad, false, r.fill == 0, 256 * r.size, (r.stamps.getD r.cons 0).val⟩
  else ⟨(a.extractLsb' 0 22).toNat, false, false, false, a.extractLsb' 22 42 != 0, 0, 0⟩

/-- Where the chunk of 32 bytes in position pos of line l of an operand is held (R181). -/
def swzChunk (z : Nat) (l pos : Nat) : Nat :=
  match z with
  | 0 => pos
  | 1 => pos ^^^ (l % 8)
  | 2 => pos ^^^ (l / 2 % 8)
  | _ => pos ^^^ (l / 4 % 8)

/-- Line l read back through a swizzle (R181). -/
def unswizzle (z l : Nat) (x : Line) : Line :=
  if z = 0 then x
  else BitVec.ofNat 2048 ((List.range 8).foldl
    (fun acc q => acc + (x.extractLsb' (256 * swzChunk z l q) 256).toNat * 2 ^ (256 * q)) 0)

/-- The bytes of a scale area: n bytes from a logical address, at most 16, as one row's scales (R155). -/
def Core.scaleRow (c : Core) (a n : Nat) : BitVec 128 :=
  BitVec.ofNat 128 ((List.range n).foldr (fun i acc => c.load (a + i) 1 + 256 * acc) 0)

/-- Whether any line of n bytes from a logical address is poisoned. -/
def Core.poisonIn (c : Core) (a n : Nat) : Bool :=
  n != 0 && (List.range ((a + n - 1) / 256 - a / 256 + 1)).any fun k => c.poisonAt ((a / 256 + k) * 256)

/-- A scale byte as a shift count; -128 marks an absent block (R77). -/
def scaleAt (x : BitVec 128) (b : Nat) : Int := (x.extractLsb' (8 * b) 8).toInt

/-- Sixteen scale bytes of -128. -/
def scalesAbsent : BitVec 128 := BitVec.ofNat 128 0x80808080808080808080808080808080

end Sys2Proof.Machine
end

