-- ==== Sys2Proof/Machine/Syl.lean ====
section
/-! DEFINITION. How a syllable acts: on the core whose clock it is, under its guard (R16, R28). -/

namespace Sys2Proof.Machine

/-- The core whose clock it is. -/
def State.core (s : State) : Core := s.cores[s.cur]
/-- That core updated. -/
def State.onCur (s : State) (f : Core → Core) : State := { s with cores := s.cores.set s.cur (f s.cores[s.cur]) }
/-- Any core updated. -/
def State.onCore (s : State) (k : CoreId) (f : Core → Core) : State := { s with cores := s.cores.set k (f s.cores[k]) }

/-- The outcome type of a meaning. -/
abbrev Out := Host.Outcome State Fault Refusal

/-- A syllable of the S, M or C slot: bit 0 of its guard decides whether it acts (R28). -/
def State.syl (s : State) (g : PReg) (f : Core → Core) : Out := .next (s.onCur fun c => if c.g0 g then f c else c)

/-- A syllable that acts whatever its guard, or whose guard acts per lane. -/
def State.act (s : State) (f : Core → Core) : Out := .next (s.onCur f)

end Sys2Proof.Machine
end

