-- ==== Sys2Proof/Machine/VectorOps.lean ====
section
/-! DEFINITION. The rules the V forms share: tags, partial writes, energy, and the reversible steps (R31 to R35, R123 to R126,
R135). -/

namespace Sys2Proof.Machine

/-- All 64 lanes. -/
def allLanes : Word := BitVec.allOnes 64
/-- All bits of a vector. -/
def allBits : Line := BitVec.allOnes 2048

/-- A source tag that a required format accepts: CLEAN satisfies every format and POISON raises nothing (R32). -/
def tagOk (t want : Tag) : Bool := t == want || t == .clean || t == .poison

/-- Tags that are equal, or one of them CLEAN or POISON (R125). -/
def tagsEqual (a b : Tag) : Bool := a == b || a == .clean || b == .clean || a == .poison || b == .poison

/-- The ordinary passed tag: that of the first source that is neither CLEAN nor POISON, else RAW (R125). -/
def passedTag : List Tag → Tag
  | [] => .raw
  | t :: r => if t == .clean || t == .poison then passedTag r else t

/-- The tag a vector write lands with, or none for FORMAT (R33, R124): old is the destination's at issue, rt the form's ordinary
result tag, full whether every bit is written, pois whether a source is POISON. A partial write keeps a POISON destination POISON and raises
no FORMAT, whichever the form: log 81. -/
def writeTag (old rt : Tag) (full pois : Bool) : Option Tag :=
  if full then some (if pois then .poison else rt)
  else if old == .poison then some .poison
  else if old == .clean || old == rt then some (if pois then .poison else rt)
  else none

/-- The energy of a dissipative form: 40 fJ a lane, and 24 a written lane of a register that is not CLEAN (R96, R123). -/
def dissipFj (lanes : Nat) (old : Tag) : Nat := 40 * lanes + (if old == .clean then 0 else 24 * lanes)

/-- A dissipative write (R123 to R126). gm is the guard, elems the bits of an executed lane the form writes, bad whether a source
tag is refused, faults the later checks in the slot's order, extra the energy beyond R123's. A guard that enables no lane does
nothing (R33). Over a destination that is CLEAN at issue the other elements of an executed lane are written as zero (R124). -/
def Core.dissip (c : Core) (lat : Nat) (gm : Word) (elems : Line) (d : VReg) (rt : Tag) (pois bad : Bool)
    (faults : List (Bool × Cause)) (extra : Nat) (bits : Line) : Core :=
  if gm = 0 then c
  else
    let old := c.vr d
    let mask := if old.tag == .clean then laneMask gm else laneMask gm &&& elems
    let tag := writeTag old.tag rt (mask == allBits) pois
    c.checked 1 ([(bad || tag.isNone, .format)] ++ faults) fun c =>
      (c.meter (dissipFj (popcount gm) old.tag + extra)).fly lat 1 (.vec ⟨c.physV d, mask, bits &&& elems, tag, false, none, false, old.tag⟩)

/-- A dissipative form of two vector sources, lane by lane, with a fixed source and result tag (R140, R141, R145). -/
def Core.lanes2 (c : Core) (lat : Nat) (g : PReg) (d a b : VReg) (src rt : Tag) (f : Half → Half → Half) : Core :=
  let x := c.vr a
  let y := c.vr b
  c.dissip lat (c.pr g) allBits d rt (x.tag == .poison || y.tag == .poison) (!tagOk x.tag src || !tagOk y.tag src) [] 0
    (ofLanes fun i => f (lane x.bits i) (lane y.bits i))

/-- A dissipative form of one vector source, lane by lane. -/
def Core.lanes1 (c : Core) (lat : Nat) (g : PReg) (d a : VReg) (src rt : Tag) (f : Half → Half) : Core :=
  let x := c.vr a
  c.dissip lat (c.pr g) allBits d rt (x.tag == .poison) (!tagOk x.tag src) [] 0 (ofLanes fun i => f (lane x.bits i))

/-- An accumulating form: vd is read as well (R140). -/
def Core.lanes3 (c : Core) (lat : Nat) (g : PReg) (d a b : VReg) (t : Tag) (f : Half → Half → Half → Half) : Core :=
  let x := c.vr a
  let y := c.vr b
  let z := c.vr d
  c.dissip lat (c.pr g) allBits d t (x.tag == .poison || y.tag == .poison || z.tag == .poison)
    (!tagOk x.tag t || !tagOk y.tag t || !tagOk z.tag t) [] 0
    (ofLanes fun i => f (lane x.bits i) (lane y.bits i) (lane z.bits i))

/-- A bitwise form of two sources with equal tags, the tag passed (R125, R141). -/
def Core.bitwise (c : Core) (g : PReg) (d a b : VReg) (f : Line → Line → Line) : Core :=
  let x := c.vr a
  let y := c.vr b
  c.dissip 2 (c.pr g) allBits d (passedTag [x.tag, y.tag]) (x.tag == .poison || y.tag == .poison) (!tagsEqual x.tag y.tag) [] 0
    (f x.bits y.bits)

/-- A compare (R143): bit i of the predicate from executed lane i. A guard that enables no lane lifts POISON-USE; the tags are checked in
any case (R32). -/
def Core.cmpV (c : Core) (g d : PReg) (a b : VReg) (src : Tag) (f : Half → Half → Bool) : Core :=
  let gm := c.pr g
  let x := c.vr a
  let y := c.vr b
  c.checked 1 [(!tagOk x.tag src || !tagOk y.tag src, .format),
    (gm != 0 && (x.tag == .poison || y.tag == .poison), .poisonUse)] fun c =>
      if gm = 0 then c else (c.meter (40 * popcount gm)).fly 2 1 (.pred (c.physP d) gm
        (BitVec.ofNat 64 ((List.range 64).foldr (fun i acc => (if f (lane x.bits i) (lane y.bits i) then 1 else 0) + 2 * acc) 0)))

/-- The factor of a ramp (R51, R92). -/
def rampL : Ramp → Nat
  | .one => 1
  | .two => 2
  | .four => 4
  | .eight => 8

/-- What a reversible step writes to one register: the lanes of the mask ex; fj is what an unwind meters again, zero whether the zero rule
applies where it lands. -/
def Core.revWrite (c : Core) (ex : Word) (d : VReg) (bits : Line) (t : Option Tag) (needClean : Bool) (fj : Nat) (zero : Bool) :
    VWrite := ⟨c.physV d, laneMask ex, bits, t, needClean, some fj, zero, (c.vr d).tag⟩
/-- A reversible result on one register (R135): latency 2L. -/
def Core.flyRev (c : Core) (r : Ramp) (ex : Word) (d : VReg) (bits : Line) (t : Option Tag) (needClean : Bool) (fj : Nat)
    (zero : Bool) : Core :=
  c.fly (2 * rampL r) 1 (.vec (c.revWrite ex d bits t needClean fj zero))

/-- The energy of a reversible vector step (R96). -/
def revFj (r : Ramp) (gm : Word) : Nat := 16 / rampL r * popcount gm

/-- An in-place reversible step on vd: checks in the slot's order, then the result under the guard with its tag (R135). -/
def Core.inPlace (c : Core) (r : Ramp) (g : PReg) (d : VReg) (t : Tag) (pois : Bool) (faults : List (Bool × Cause))
    (bits : Line) : Core :=
  let gm := c.pr g
  if gm = 0 then c
  else c.checked 1 faults fun c =>
    (c.meter (revFj r gm)).flyRev r gm d bits (some (if pois then .poison else t)) false (revFj r gm) (gm == allLanes)

end Sys2Proof.Machine
end

