-- ==== Sys2Proof/Machine/Approx.lean ====
section
/-! DEFINITION. The approximate functions and the correctly rounded root and quotient (R147, R148). -/

namespace Sys2Proof.Machine

/-- Q(j) in units of 2^-13: the nearest integer to 2^13 / sqrt(2^p * (129 + 2i) / 128) (R147). -/
def entryQ (p i : Nat) : Nat := (isqrt (4 * 2 ^ 33 / (2 ^ p * (129 + 2 * i))) + 1) / 2
/-- T(k) in units of 2^-13: 2^13 * 256 / (257 + 2k), to nearest even (R147). -/
def entryT (k : Nat) : Nat :=
  let d := 257 + 2 * k
  let q := 2 ^ 21 / d
  let r := 2 ^ 21 % d
  if 2 * r > d || (2 * r == d && q % 2 == 1) then q + 1 else q
/-- The largest m below 2^n * step with m^128 ≤ x. -/
def root128 (x : Nat) : Nat → Nat → Nat
  | 0, r => r
  | n + 1, r => root128 x n (if (r + 2 ^ n) ^ 128 ≤ x then r + 2 ^ n else r)
/-- E(k) in units of 2^-12: the nearest integer to 2^12 * 2^((2k + 1)/128) (R147). -/
def entryE (k : Nat) : Nat := (root128 (2 ^ (13 * 128 + 2 * k + 1)) 15 0 + 1) / 2
/-- L(k) in units of 2^-12: the nearest integer to 4096 * log2((129 + 2k)/128) (R147). -/
def entryL (k : Nat) : Nat := (Nat.log2 ((129 + 2 * k) ^ 8192) - 7 * 8192 + 1) / 2

/-- The exponent and the 23 fraction bits of a finite non-zero F32, a subnormal normalised (R147). -/
def normF32 (m : Nat) (e : Int) : Int × Nat := (floorLog2 m e, m <<< (23 - Nat.log2 m) - 2 ^ 23)

/-- VRSQA on a datum (R147). -/
def rsqa : Flt → Nat
  | .nan => FltFmt.f32.nanCode
  | .inf n => if n then FltFmt.f32.nanCode else 0
  | .fin n m e =>
    if m = 0 then overflowCode .f32 false n
    else if n then FltFmt.f32.nanCode
    else
      let (x, f) := normF32 m e
      let p := (x % 2).toNat
      roundRne .f32 false false (entryQ p (f / 2 ^ 17)) (-13 - (x - p) / 2)
/-- VRCPA on a datum (R147). -/
def rcpa : Flt → Nat
  | .nan => FltFmt.f32.nanCode
  | .inf n => withSign .f32 n 0
  | .fin n m e =>
    if m = 0 then overflowCode .f32 false n
    else
      let (x, f) := normF32 m e
      roundRne .f32 false n (entryT (f / 2 ^ 16)) (-13 - x)
/-- VEXP2A on a datum (R147): Floor(64x) gives n and k together. -/
def exp2a : Flt → Nat
  | .nan => FltFmt.f32.nanCode
  | .inf n => if n then 0 else overflowCode .f32 false false
  | .fin s m e =>
    let num : Int := if s then -(m : Int) else m
    let fl : Int := if 0 ≤ e + 6 then num * 2 ^ (e + 6).toNat else num / 2 ^ (-(e + 6)).toNat
    let n := fl / 64
    if n ≥ 128 then overflowCode .f32 false false
    else if n < -150 then 0
    else roundRne .f32 false false (entryE (fl % 64).toNat) (n - 12)
/-- VLOG2A on a datum (R147). -/
def log2a : Flt → Nat
  | .nan => FltFmt.f32.nanCode
  | .inf n => if n then FltFmt.f32.nanCode else overflowCode .f32 false false
  | .fin n m e =>
    if m = 0 then overflowCode .f32 false true
    else if n then FltFmt.f32.nanCode
    else
      let (x, f) := normF32 m e
      let v : Int := x * 4096 + entryL (f / 2 ^ 17)
      roundRne .f32 false (v < 0) v.natAbs (-12)

/-- VRSQA.F32 (R147). -/
def execVrsqaF32 (g : PReg) (d a : VReg) (s : State) : Out :=
  s.act (·.lanes1 6 g d a .f32 .f32 fun h => BitVec.ofNat 32 (rsqa (fltOf .f32 h.toNat)))
/-- VRCPA.F32 (R147). -/
def execVrcpaF32 (g : PReg) (d a : VReg) (s : State) : Out :=
  s.act (·.lanes1 6 g d a .f32 .f32 fun h => BitVec.ofNat 32 (rcpa (fltOf .f32 h.toNat)))
/-- VEXP2A.F32 (R147). -/
def execVexp2aF32 (g : PReg) (d a : VReg) (s : State) : Out :=
  s.act (·.lanes1 6 g d a .f32 .f32 fun h => BitVec.ofNat 32 (exp2a (fltOf .f32 h.toNat)))
/-- VLOG2A.F32 (R147). -/
def execVlog2aF32 (g : PReg) (d a : VReg) (s : State) : Out :=
  s.act (·.lanes1 6 g d a .f32 .f32 fun h => BitVec.ofNat 32 (log2a (fltOf .f32 h.toNat)))
/-- VSQRT.F32 (R148). -/
def execVsqrtF32 (g : PReg) (d a : VReg) (s : State) : Out :=
  s.act (·.lanes1 18 g d a .f32 .f32 fun h => BitVec.ofNat 32 (sqrtCode (fltOf .f32 h.toNat)))
/-- VDIV.F32 (R148). -/
def execVdivF32 (g : PReg) (d a b : VReg) (s : State) : Out :=
  s.act (·.lanes2 18 g d a b .f32 .f32 (f32div))
where
  /-- The rounded quotient of two lanes. -/
  f32div (x y : Half) : Half := BitVec.ofNat 32 (divCode (fltOf .f32 x.toNat) (fltOf .f32 y.toNat))

end Sys2Proof.Machine
end

