-- ==== Sys2Proof/Machine/VectorArith.lean ====
section
/-! DEFINITION. Dissipative arithmetic, selects, compares, reductions, permutes and tags (R140 to R143, R149 to R153). -/

namespace Sys2Proof.Machine

/-- An F32 operation on lanes. -/
def f32op (f : Nat → Nat → Nat) (a b : Half) : Half := BitVec.ofNat 32 (f a.toNat b.toNat)
/-- A BF16 operation on both elements of a lane (R68, R140). -/
def bf16op (f : Nat → Nat → Nat) (a b : Half) : Half :=
  BitVec.ofNat 32 (f (a.toNat % 65536) (b.toNat % 65536) + 65536 * f (a.toNat / 65536) (b.toNat / 65536))
/-- The smaller or the larger of two F32 data: -0 below +0, the device NaN if either is a NaN (R140, R149). -/
def minmax (mx : Bool) (a b : Nat) : Nat :=
  let x := fltOf .f32 a
  let y := fltOf .f32 b
  if x.isNan || y.isNan then FltFmt.f32.nanCode
  else
    let aLess := fltLt x y || (fltEq x y && x.sign && !y.sign)
    if aLess != mx then a else b

/-- VADD.F32 (R140). -/
def execVaddF32 (g : PReg) (d a b : VReg) (s : State) : Out := s.act (·.lanes2 4 g d a b .f32 .f32 (f32op (addCode .f32)))
/-- VSUB.F32 (R140). -/
def execVsubF32 (g : PReg) (d a b : VReg) (s : State) : Out := s.act (·.lanes2 4 g d a b .f32 .f32 (f32op (subCode .f32)))
/-- VMUL.F32 (R140). -/
def execVmulF32 (g : PReg) (d a b : VReg) (s : State) : Out := s.act (·.lanes2 4 g d a b .f32 .f32 (f32op (mulCode .f32)))
/-- VFMA.F32 (R140). -/
def execVfmaF32 (g : PReg) (d a b : VReg) (s : State) : Out :=
  s.act (·.lanes3 5 g d a b .f32 fun x y z => BitVec.ofNat 32 (fmaCode .f32 x.toNat y.toNat z.toNat))
/-- VFMS.F32: vd - va * vb (R140). -/
def execVfmsF32 (g : PReg) (d a b : VReg) (s : State) : Out :=
  s.act (·.lanes3 5 g d a b .f32 fun x y z => BitVec.ofNat 32
    (rneOf .f32 false (fltAdd (fltOf .f32 z.toNat) (fltNeg (fltMul (fltOf .f32 x.toNat) (fltOf .f32 y.toNat))))))
/-- VMIN.F32 (R140). -/
def execVminF32 (g : PReg) (d a b : VReg) (s : State) : Out := s.act (·.lanes2 2 g d a b .f32 .f32 (f32op (minmax false)))
/-- VMAX.F32 (R140). -/
def execVmaxF32 (g : PReg) (d a b : VReg) (s : State) : Out := s.act (·.lanes2 2 g d a b .f32 .f32 (f32op (minmax true)))
/-- VABS.F32: bits alone (R140). -/
def execVabsF32 (g : PReg) (d a : VReg) (s : State) : Out := s.act (·.lanes1 2 g d a .f32 .f32 (· &&& 0x7FFFFFFF))
/-- VNEG.F32: bits alone (R140). -/
def execVnegF32 (g : PReg) (d a : VReg) (s : State) : Out := s.act (·.lanes1 2 g d a .f32 .f32 (· ^^^ 0x80000000))
/-- VADD.BF16 (R140). -/
def execVaddBf16 (g : PReg) (d a b : VReg) (s : State) : Out := s.act (·.lanes2 4 g d a b .bf16 .bf16 (bf16op (addCode .bf16)))
/-- VMUL.BF16 (R140). -/
def execVmulBf16 (g : PReg) (d a b : VReg) (s : State) : Out := s.act (·.lanes2 4 g d a b .bf16 .bf16 (bf16op (mulCode .bf16)))
/-- VFMA.BF16 (R140). -/
def execVfmaBf16 (g : PReg) (d a b : VReg) (s : State) : Out :=
  s.act (·.lanes3 4 g d a b .bf16 fun x y z => BitVec.ofNat 32
    (fmaCode .bf16 (x.toNat % 65536) (y.toNat % 65536) (z.toNat % 65536) +
      65536 * fmaCode .bf16 (x.toNat / 65536) (y.toNat / 65536) (z.toNat / 65536)))

/-- VADD.I32 (R141). -/
def execVaddI32 (g : PReg) (d a b : VReg) (s : State) : Out := s.act (·.lanes2 2 g d a b .i32 .i32 (· + ·))
/-- VSUB.I32 (R141). -/
def execVsubI32 (g : PReg) (d a b : VReg) (s : State) : Out := s.act (·.lanes2 2 g d a b .i32 .i32 (· - ·))
/-- VMUL.I32 (R141). -/
def execVmulI32 (g : PReg) (d a b : VReg) (s : State) : Out := s.act (·.lanes2 2 g d a b .i32 .i32 (· * ·))
/-- VMULH.I32 (R141). -/
def execVmulhI32 (g : PReg) (d a b : VReg) (s : State) : Out :=
  s.act (·.lanes2 2 g d a b .i32 .i32 fun x y => BitVec.ofInt 32 (x.toInt * y.toInt / 2 ^ 32))
/-- VAND (R141). -/
def execVand (g : PReg) (d a b : VReg) (s : State) : Out := s.act (·.bitwise g d a b (· &&& ·))
/-- VOR (R141). -/
def execVor (g : PReg) (d a b : VReg) (s : State) : Out := s.act (·.bitwise g d a b (· ||| ·))
/-- VANDN (R141). -/
def execVandn (g : PReg) (d a b : VReg) (s : State) : Out := s.act (·.bitwise g d a b fun x y => x &&& ~~~y)
/-- VSHL.I32 (R141). -/
def execVshlI32 (g : PReg) (d a b : VReg) (s : State) : Out :=
  s.act (·.lanes2 2 g d a b .i32 .i32 fun x y => x <<< (y.toNat % 32))
/-- VSHR.I32 (R141). -/
def execVshrI32 (g : PReg) (d a b : VReg) (s : State) : Out :=
  s.act (·.lanes2 2 g d a b .i32 .i32 fun x y => x >>> (y.toNat % 32))
/-- VSRA.I32 (R141). -/
def execVsraI32 (g : PReg) (d a b : VReg) (s : State) : Out :=
  s.act (·.lanes2 2 g d a b .i32 .i32 fun x y => x.sshiftRight (y.toNat % 32))
/-- VMIN.I32 (R141). -/
def execVminI32 (g : PReg) (d a b : VReg) (s : State) : Out :=
  s.act (·.lanes2 2 g d a b .i32 .i32 fun x y => if y.toInt < x.toInt then y else x)
/-- VMAX.I32 (R141). -/
def execVmaxI32 (g : PReg) (d a b : VReg) (s : State) : Out :=
  s.act (·.lanes2 2 g d a b .i32 .i32 fun x y => if x.toInt < y.toInt then y else x)

/-- VSEL (R142). -/
def execVsel (g : PReg) (d a b : VReg) (s : State) : Out :=
  s.act fun c =>
    let x := c.vr a
    let y := c.vr b
    let z := c.vr d
    c.dissip 2 (c.pr g) allBits d (passedTag [x.tag, y.tag]) (x.tag == .poison || y.tag == .poison || z.tag == .poison)
      (!tagsEqual x.tag y.tag) [] 0 (ofLanes fun i => if lane z.bits i != 0 then lane x.bits i else lane y.bits i)
/-- VMOV (R142). -/
def execVmov (g : PReg) (d a : VReg) (s : State) : Out :=
  s.act fun c =>
    c.dissip 2 (c.pr g) allBits d (passedTag [(c.vr a).tag]) ((c.vr a).tag == .poison) false [] 0 (c.vr a).bits
/-- The tag selector of VBCST, VMOVS and VSPLAT (R130). -/
def selTag : Fin 4 → Tag
  | 0 => .raw
  | 1 => .i32
  | 2 => .f32
  | 3 => .rns
/-- VSPLAT (R142). -/
def execVsplat (g : PReg) (d : VReg) (a : SReg) (t : Fin 4) (s : State) : Out :=
  s.act fun c =>
    let w : Half := (c.s a).setWidth 32
    c.dissip 2 (c.pr g) allBits d (selTag t) false (t == 3 && !rnsCanon w) [] 0 (ofLanes fun _ => w)

/-- VCMPEQ.F32 (R143). -/
def execVcmpeqF32 (g d : PReg) (a b : VReg) (s : State) : Out :=
  s.act (·.cmpV g d a b .f32 fun x y => fltEq (fltOf .f32 x.toNat) (fltOf .f32 y.toNat))
/-- VCMPLT.F32 (R143). -/
def execVcmpltF32 (g d : PReg) (a b : VReg) (s : State) : Out :=
  s.act (·.cmpV g d a b .f32 fun x y => fltLt (fltOf .f32 x.toNat) (fltOf .f32 y.toNat))
/-- VCMPLE.F32 (R143). -/
def execVcmpleF32 (g d : PReg) (a b : VReg) (s : State) : Out :=
  s.act (·.cmpV g d a b .f32 fun x y =>
    fltLt (fltOf .f32 x.toNat) (fltOf .f32 y.toNat) || fltEq (fltOf .f32 x.toNat) (fltOf .f32 y.toNat))
/-- VCMPUN.F32 (R143). -/
def execVcmpunF32 (g d : PReg) (a b : VReg) (s : State) : Out :=
  s.act (·.cmpV g d a b .f32 fun x y => (fltOf .f32 x.toNat).isNan || (fltOf .f32 y.toNat).isNan)
/-- VCMPEQ.I32 (R143). -/
def execVcmpeqI32 (g d : PReg) (a b : VReg) (s : State) : Out := s.act (·.cmpV g d a b .i32 (· == ·))
/-- VCMPLT.I32 (R143). -/
def execVcmpltI32 (g d : PReg) (a b : VReg) (s : State) : Out := s.act (·.cmpV g d a b .i32 fun x y => x.toInt < y.toInt)
/-- VCMPLTU.I32 (R143). -/
def execVcmpltuI32 (g d : PReg) (a b : VReg) (s : State) : Out := s.act (·.cmpV g d a b .i32 fun x y => x < y)

/-- Neighbouring pairs combined (R149). -/
def pairUp (f : Half → Half → Half) : List Half → List Half
  | x :: y :: r => f x y :: pairUp f r
  | l => l
/-- The fixed pairwise tree of six levels (R149). -/
def treeReduce (f : Half → Half → Half) (x : Line) : Half :=
  (pairUp f (pairUp f (pairUp f (pairUp f (pairUp f (pairUp f ((List.range 64).map (lane x)))))))).headD 0
/-- A reduction: all lanes of va, the result to every executed lane (R149). -/
def Core.reduce (c : Core) (g : PReg) (d a : VReg) (t : Tag) (f : Half → Half → Half) : Core :=
  let x := c.vr a
  c.dissip 8 (c.pr g) allBits d t (x.tag == .poison) (!tagOk x.tag t) [] 0 (ofLanes fun _ => treeReduce f x.bits)
/-- VREDADD.F32 (R149). -/
def execVredaddF32 (g : PReg) (d a : VReg) (s : State) : Out := s.act (·.reduce g d a .f32 (f32op (addCode .f32)))
/-- VREDMAX.F32 (R149). -/
def execVredmaxF32 (g : PReg) (d a : VReg) (s : State) : Out := s.act (·.reduce g d a .f32 (f32op (minmax true)))
/-- VREDADD.I32 (R149). -/
def execVredaddI32 (g : PReg) (d a : VReg) (s : State) : Out := s.act (·.reduce g d a .i32 (· + ·))

/-- VBCASTL (R150). -/
def execVbcastl (g : PReg) (d a : VReg) (n : Fin 64) (s : State) : Out :=
  s.act fun c =>
    let x := c.vr a
    c.dissip 3 (c.pr g) allBits d (passedTag [x.tag]) (x.tag == .poison) false [] 0 (ofLanes fun _ => lane x.bits n.val)
/-- VPERM: vb carries I32, RAW or CLEAN indices; the tag is passed from va, then vb (R125, R150). -/
def execVperm (g : PReg) (d a b : VReg) (s : State) : Out :=
  s.act fun c =>
    let x := c.vr a
    let y := c.vr b
    c.dissip 3 (c.pr g) allBits d (passedTag [x.tag, y.tag]) (x.tag == .poison || y.tag == .poison)
      (!tagOk y.tag .i32 && y.tag != .raw) [] 0 (ofLanes fun i => lane x.bits ((lane y.bits i).toNat % 64))

/-- VERASE: the only form that leaves a tag as it was when it is partial (R151). -/
def execVerase (g : PReg) (d : VReg) (s : State) : Out :=
  s.act fun c =>
    let gm := c.pr g
    if gm = 0 then c
    else (c.meter (if (c.vr d).tag == .clean then 0 else 24 * popcount gm)).fly 2 1
      (.vec ⟨c.physV d, laneMask gm, 0, if gm == allLanes then some .clean else none, false, none, false, (c.vr d).tag⟩)
/-- The tag of a code; reserved codes read as POISON. -/
def tagOfCode (n : Nat) : Tag :=
  match n with
  | 0 => .clean
  | 1 => .raw
  | 2 => .i32
  | 3 => .f32
  | 4 => .bf16
  | 5 => .fp8e4
  | 6 => .fp8e5
  | 7 => .fp4
  | 8 => .int8
  | 9 => .rns
  | _ => .poison
/-- The code of a tag (R31). -/
def Tag.code : Tag → Nat
  | .clean => 0
  | .raw => 1
  | .i32 => 2
  | .f32 => 3
  | .bf16 => 4
  | .fp8e4 => 5
  | .fp8e5 => 6
  | .fp4 => 7
  | .int8 => 8
  | .rns => 9
  | .poison => 15
/-- VRETAG: CLEAN and POISON registers keep their tags (R152). -/
def execVretag (g : PReg) (d : VReg) (t : Fin 16) (s : State) : Out :=
  s.act fun c =>
    let old := (c.vr d).tag
    if c.pr g = 0 || old == .clean || old == .poison then c else c.fly 2 1 (.vtag (c.physV d) (tagOfCode t.val))
/-- VTAGQ (R153). -/
def execVtagq (g : PReg) (d : SReg) (a : VReg) (s : State) : Out :=
  s.act fun c => if c.pr g = 0 then c else c.flyS 2 1 d (BitVec.ofNat 64 (c.vr a).tag.code)

end Sys2Proof.Machine
end

