-- ==== Sys2Proof/Machine/Flags.lean ====
section
/-! DEFINITION. Flag words: accumulator event words and status words (R90, R91, R168, R224). -/

namespace Sys2Proof.Machine

/-- OVF (R90). -/
def evOvf : BitVec 32 := 1
/-- INV (R90). -/
def evInv : BitVec 32 := 2
/-- SATC (R90). -/
def evSatc : BitVec 32 := 4
/-- UFZ (R90). -/
def evUfz : BitVec 32 := 8

/-- The event word of a tile with the pending bits and clears of a list of regions, newest first (R91). -/
def eventsWith (t : TileId) (w : BitVec 32) : List Region → BitVec 32
  | [] => w
  | r :: older => (if r.cleared.getLsbD t.val then 0 else eventsWith t w older) ||| r.raised[t]

/-- The word ASTAT returns (R168). -/
def Core.astatWord (c : Core) (t : TileId) : Word :=
  let x := c.ctx.a[t]
  let n := (List.range 128).foldl (fun k i => if x.clean.getLsbD i then k + 1 else k) 0
  BitVec.ofNat 64 (n * 2 ^ 36 + x.tag.code * 2 ^ 32 + (eventsWith t x.events c.run.regions).toNat)

/-- A region raises event bits on a tile; they stay pending with it (R91). -/
def Region.raise (r : Region) (t : TileId) (e : BitVec 32) : Region := { r with raised := r.raised.set t (r.raised[t] ||| e) }

/-- A region clears a tile's word: only bits raised afterwards count (R91). -/
def Region.clear (r : Region) (t : TileId) : Region :=
  { r with cleared := r.cleared ||| BitVec.twoPow 8 t.val, raised := r.raised.set t 0 }

/-- A region's pending bits and clears commit (R91). -/
def Region.commitEvents (r : Region) (c : Ctx) : Ctx :=
  { c with a := c.a.mapIdx fun i x =>
    { x with events := (if r.cleared.getLsbD i then 0 else x.events) ||| r.raised.toList.getD i 0 } }

/-! Status words (R224). -/

/-- A tag's status word while its command runs. -/
def stPending : Word := 0x8000
/-- OK. -/
def stOk : Word := 0
/-- SLIP. -/
def stSlip : Word := 1
/-- ECC-CORRECTED. -/
def stEcc : Word := 2
/-- TRANSLATION. -/
def stTranslation : Word := 3
/-- PERMISSION. -/
def stPermission : Word := 4
/-- POISON. -/
def stPoison : Word := 5
/-- CANCELLED. -/
def stCancelled : Word := 6
/-- FABRIC. -/
def stFabric : Word := 7

/-- The order in which failures take precedence (R224). -/
def failRank (code : Word) : Nat :=
  if code = stCancelled then 5 else if code = stPermission then 4 else if code = stTranslation then 3
  else if code = stPoison then 2 else if code = stFabric then 1 else 0

/-- A failure added to a status word: the code of the higher precedence stays, and so do the informational bits. -/
def addFail (status code : Word) : Word :=
  if failRank code > failRank (status &&& 0xF) then (status &&& 0x300) ||| code else status

/-- The final status word: a failure's code, else what the informational bits say (R224). -/
def finalStatus (status : Word) : Word :=
  if failRank (status &&& 0xF) > 0 then status
  else (status &&& 0x300) ||| (if status.getLsbD 9 then stEcc else if status.getLsbD 8 then stSlip else stOk)

end Sys2Proof.Machine
end

