-- ==== Sys2Proof/Machine/CSlot.lean ====
section
/-! DEFINITION. What every C syllable shares: tags, checks, effect instructions (R57, R222, R223, R243). -/

namespace Sys2Proof.Machine

/-- The first and the second scalar of a pair (R57). -/
def Core.pairLo (c : Core) (b : SPair) : Word := c.s (Fin.ofNat 64 (2 * b.val))
/-- The partner register b + 1 (R57). -/
def Core.pairHi (c : Core) (b : SPair) : Word := c.s (Fin.ofNat 64 (2 * b.val + 1))

/-- A tag that a claim refuses with BOUNDS: one that is pending (R223). -/
def Core.tagBusy (c : Core) (t : TagId) : Bool := c.ctx.tags[t].st == .pending

/-- The tag claimed at issue: pending, with status 0x8000; the region remembers the tag as a trap returns it (R223, R321). A tag
that a TCLR of the region cleared returns to what it was before that TCLR. A tag whose command, of an earlier region, has completed since the
region's head keeps that completion, which the snapshot has not: DEDUCED (log 118). -/
def Core.claim (c : Core) (t : TagId) : Core :=
  let old := c.ctx.tags[t]
  (c.onRegion fun r =>
    if r.claims.any (·.1 == t) then r
    else { r with claims := (t, ((r.tclrs.find? (·.1 == t)).map (·.2)).getD old) :: r.claims }).onCtx
    (·.setTag t ⟨.pending, stPending⟩)

/-- A tag completes: its status word and its CTB bit change together (R223). -/
def Core.completeTag (c : Core) (t : TagId) (status : Word) : Core := c.onCtx (·.setTag t ⟨.complete, status⟩)

/-- A result word's address outside the granted pitches; that the whole word lies in them follows from its alignment (R243). -/
def Core.resultBounds (c : Core) (a : Word) : Bool := !c.inBounds a.toNat 1
/-- A result word that is not aligned (R243). -/
def resultAlign (a : Word) : Bool := a.toNat % 8 != 0

/-- The queue of unsent effect commands is full: it holds 32 commands of regions that have committed (R216). -/
def Core.effectsFull (c : Core) : Bool := 32 ≤ c.run.effects.length

/-- An effect instruction (R37, R38, R216, R251): with its guard true its bundle waits while the queue of unsent commands is full; it closes
its region whatever its guard; with its guard true and its checks passed its command stays with the region. -/
def Core.effect (c : Core) (g : PReg) (faults : List (Bool × Cause)) (f : Core → Core) : Core :=
  if !c.g0 g then c.closeRegion
  else if c.effectsFull then c.freeze 2
  else c.checked 3 faults fun c => (f c).closeRegion

/-- The major of an effect instruction (R59). -/
def EffKind.major : EffKind → Nat
  | .rel => 0x2B | .acq => 0x2C | .acqs => 0x2D | .phase => 0x2E
  | .synAdd => 0x30 | .synCas => 0x31 | .synMin => 0x32 | .synMax => 0x33 | .synXch => 0x34 | .synLd => 0x35
  | .synPost => 0x36 | .synWait => 0x37 | .synBar => 0x38
  | .fork => 0x40 | .grwd => 0x41 | .gbar => 0x42 | .gcancel => 0x43 | .gquit => 0x44
  | .publish => 0x48 | .launch => 0x49 | .cancel => 0x4A

/-- The effect instructions. -/
def effKinds : List EffKind :=
  [.rel, .acq, .acqs, .phase, .synAdd, .synCas, .synMin, .synMax, .synXch, .synLd, .synPost, .synWait, .synBar,
    .fork, .grwd, .gbar, .gcancel, .gquit, .publish, .launch, .cancel]

/-- The syllable of an effect instruction in CP format, its queue field 0 (R49, R57). -/
def EffKind.syll (k : EffKind) (t : TagId) (a : SReg) (b : SPair) (g : PReg) : BitVec 32 :=
  BitVec.ofNat 32 (2 ^ 25 * k.major + 2 ^ 19 * t.val + 2 ^ 13 * a.val + 2 ^ 7 * (2 * b.val) + g.val)

/-- The command of the closing effect instruction (R39). -/
def Core.command (c : Core) (e : EffCmd) : Core := c.onRegion fun r => { r with effect := some e }

/-- A C syllable that is no effect instruction: checks in the order of R222 in position 3. -/
def State.csyl (s : State) (g : PReg) (faults : Core → List (Bool × Cause)) (f : Core → Core) : Out :=
  s.syl g fun c => c.checked 3 (faults c) f

/-- A scalar result of the C slot: it lands at the end of the issue cycle (R222). -/
def Core.flyC (c : Core) (d : SReg) (v : Word) : Core := c.flyS 1 3 d v

end Sys2Proof.Machine
end

