-- ==== Sys2Proof/Machine/Control.lean ====
section
/-! DEFINITION. Branches, the hardware loop, regions, END, TRAP, CALSYNC, special registers, SRET and TLBI
(R30, R116 to R122, R277, R327 to R332). -/

namespace Sys2Proof.Machine

/-! ### Branches (R116) -/

/-- The issue of a taken branch: two bubbles follow, then the target (R22). -/
def Core.jump (c : Core) (t : Word) : Core := c.onRun fun r => { r with target := some t, bubbles := 2 }
/-- The link register written (R27, R116). -/
def Core.link (c : Core) : Core := c.flyS 1 0 63 (c.ctx.pc + 16)
/-- A register jump whose target is no multiple of 16 (R15). -/
def jumpBad (t : Word) : Bool := t.toNat % 16 != 0

/-- BR (R116). -/
def execBr (g : PReg) (disp : BitVec 20) (s : State) : Out := s.syl g fun c => c.jump (branchTarget c.ctx.pc disp)
/-- BRL (R116). -/
def execBrl (g : PReg) (disp : BitVec 20) (s : State) : Out := s.syl g fun c => (c.jump (branchTarget c.ctx.pc disp)).link
/-- JMP (R116). -/
def execJmp (g : PReg) (a : SReg) (s : State) : Out :=
  s.syl g fun c => c.checked 0 [(jumpBad (c.s a), .align)] fun c => c.jump (c.s a)
/-- JMPL (R116). -/
def execJmpl (g : PReg) (a : SReg) (s : State) : Out :=
  s.syl g fun c => c.checked 0 [(jumpBad (c.s a), .align)] fun c => (c.jump (c.s a)).link

/-! ### The hardware loop (R117 to R119, R277) -/

/-- A loop is armed: LSTG.act (R117). -/
def Spr.armed (x : Spr) : Bool := x.lstg.getLsbD 7
/-- LSTG with act set and n epilogue passes (R117). -/
def lstgOf (n : Nat) : BitVec 8 := 0x80#8 ||| BitVec.ofNat 8 (n % 64)

/-- LOOP (R118): its faults in the order of R106, then the loop armed for the bundles issued after it. -/
def execLoop (g : PReg) (d : Fin 64) (a : SReg) (imm : Imm8) (s : State) : Out :=
  s.syl g fun c =>
    let n := if a = 0 then imm.zext.toNat else (c.s a).toNat
    let looped := match c.run.regions with
      | [] => false
      | r :: _ => r.looped || (r.checked.isSome && a != 0)
    c.checked 0 [(c.ctx.x.armed || looped, .segmentCheck), (n > 2 ^ 32, .bounds)] fun c =>
      (c.onRegion fun r => { r with looped := true }).fly 1 0
        (.loop (BitVec.ofNat 32 (Nat.max n 1 - 1)) (lstgOf d.val) (c.physP 8) (Word.ofBool (n > 0)))

/-- The base before a rotation by one (R29). -/
def rotDown (base n : Nat) : Nat := (base + n - 1) % n

/-- CLOOP (R119). While a pre-emption or a cancel is pending, the first CLOOP of an armed loop with passes left begins the drain of that loop:
the passes not started are kept as rem, and the loop goes to its epilogue (R277, R261). With LSTG.act 0 the pseudocode's cases decide: log 80. -/
def execCloop (g : PReg) (disp : BitVec 20) (s : State) : Out :=
  s.syl g fun c =>
    let x := c.ctx.x
    let t := branchTarget c.ctx.pc disp
    let begin_ := (c.run.preempt || c.run.cancel) && x.armed && x.lcnt != 0
    let c := if begin_ then
        c.onRun fun r => { r with drain := some x.lcnt.toNat, stages := (x.lstg.extractLsb' 0 6).toNat, loopTop := t }
      else c
    let lcnt := if begin_ then 0 else x.lcnt
    let vrb := BitVec.ofNat 6 (rotDown x.vrb.toNat 48)
    let prb := BitVec.ofNat 5 (rotDown x.prb.toNat 24)
    let p8 := physPOf prb 8
    let epi := x.lstg.extractLsb' 0 6
    if lcnt != 0 then
      (c.fly 1 0 (.cloop vrb prb (lcnt - 1) x.lstg p8 (BitVec.allOnes 64))).onRun fun r => { r with target := some t }
    else if epi != 0 then
      (c.fly 1 0 (.cloop vrb prb lcnt (x.lstg - 1) p8 0)).onRun fun r => { r with target := some t }
    else c.fly 1 0 (.cloop vrb prb lcnt (x.lstg &&& 0x7F) p8 0)

/-! ### Regions, the end of a task, traps (R37, R120, R327, R331, R332) -/

/-- REGION (R331): its bundle opens a region whatever its guard. -/
def execRegion (_g : PReg) (s : State) : Out := s.act (·.openRegion none)
/-- REGIONC (R332): the region is checked; the count stands in [31:16] and the CRC bits in [15:0]. -/
def execRegionc (_g : PReg) (imm : BitVec 8) (lit : BitVec 24) (s : State) : Out :=
  s.act (·.openRegion (some (lit ++ imm : BitVec 32)))
/-- END (R120): no bundle issues after it. -/
def execEndTask (g : PReg) (imm : BitVec 8) (s : State) : Out :=
  s.syl g fun c => ((c.onRegion fun r => { r with ended := true }).closeRegion).onRun fun r => { r with phase := .ended, code := imm }
/-- TRAP (R327). -/
def execTrap (g : PReg) (imm : BitVec 8) (s : State) : Out := s.syl g fun c => c.raise 0 .trapInstr (imm.setWidth 32)

/-! ### Calendar and special registers (R30, R121, R122, R329) -/

/-- CORE[6:0], the number of the core's calendar slot (R30, R188, R344). -/
def slotOf (k : CoreId) : Nat := k.val % 96
/-- The CORE register of a core (R30, R344). -/
def coreNumber (k : CoreId) : Nat := k.val / 96 * 128 + k.val % 96
/-- CALNEXT: calendar clocks to the start of the core's next slot (R30, R188). -/
def calNext (now : Nat) (k : CoreId) : Nat := (5 * slotOf k + 500 - now % 500) % 500

/-- CALSYNC (R121): it freezes under cause 8 until CALNEXT reads 0. -/
def execCalsync (g : PReg) (s : State) : Out := s.syl g fun c => if calNext s.now s.cur = 0 then c else c.freeze 8

/-- The value of a special register, zero-extended (R30). -/
def State.readSpr (s : State) (n : BitVec 8) : Word :=
  let c := s.core
  let x := c.ctx.x
  match n.toNat with
  | 0x00 => x.tick
  | 0x01 => x.vrb.setWidth 64
  | 0x02 => x.prb.setWidth 64
  | 0x03 => x.lcnt.setWidth 64
  | 0x04 => x.lstg.setWidth 64
  | 0x05 => c.ctx.ctb
  | 0x06 => x.srs
  | 0x07 => x.tid
  | 0x08 => x.sib.setWidth 64
  | 0x09 => x.grp.setWidth 64
  | 0x0A => BitVec.ofNat 64 (coreNumber s.cur)
  | 0x0B => BitVec.ofNat 64 (calNext s.now s.cur)
  | 0x0C => x.emet
  | 0x0D => x.wuc
  | 0x0E => if x.priv then 1 else 0
  | 0x10 => x.tvec
  | 0x11 => x.trec
  | m => if 0x18 ≤ m ∧ m ≤ 0x1F then s.hpat.toList.getD (m - 0x18) 0 else 0

/-- Registers whose task access is none: TVEC, TREC and HPAT0 to HPAT7 (R30). -/
def srSupervisor (n : BitVec 8) : Bool := n.toNat == 0x10 || n.toNat == 0x11 || (0x18 ≤ n.toNat && n.toNat ≤ 0x1F)
/-- A WRSR to a register whose access is read in the current privilege's column: ILLEGAL at decode (R30). -/
def srReadOnly (priv : Bool) (n : BitVec 8) : Bool :=
  !(n == 0x01 || n == 0x02 || n == 0x06 || srSupervisor n || (priv && (n == 0x03 || n == 0x04)))
/-- A pattern no HPAT register accepts (R187). -/
def hpatBad (v : Word) : Bool :=
  (List.range 8).any fun k =>
    let b := (v.extractLsb' (8 * k) 8).toNat
    !(b == 0 || (13 ≤ b && b ≤ 35))
/-- Values a WRSR refuses with ILLEGAL at issue (R187, R329). -/
def srBad (n : BitVec 8) (v : Word) : Bool :=
  match n.toNat with
  | 0x03 => v.extractLsb' 32 32 != 0
  | 0x04 => v.getLsbD 6
  | 0x10 => v.toNat % 16 != 0 || v.extractLsb' 48 16 != 0
  | 0x11 => v.toNat % 64 != 0 || v.extractLsb' 22 42 != 0
  | m => 0x19 ≤ m && m ≤ 0x1F && hpatBad v

/-- RDSR (R122). -/
def execRdsr (g : PReg) (d : SReg) (imm : BitVec 8) (s : State) : Out :=
  s.syl g fun c => c.checked 0 [(!c.ctx.x.priv && srSupervisor imm, .priv)] fun c => c.flyS 1 0 d (s.readSpr imm)

/-- WRSR (R122, R329). An HPAT register takes its value at once, for the whole package (R187). -/
def execWrsr (g : PReg) (a : SReg) (imm : BitVec 8) (s : State) : Out :=
  let c := s.core
  let v := c.s a
  let faults := [(srReadOnly c.ctx.x.priv imm || srBad imm v, Cause.illegal), (!c.ctx.x.priv && srSupervisor imm, .priv)]
  if imm.toNat < 0x18 then s.syl g fun c => c.checked 0 faults fun c => c.fly 1 0 (.spr imm v)
  else if !c.g0 g then .next s
  else if (firstFault faults).isSome then s.act fun c => c.checked 0 faults id
  else if imm.toNat = 0x18 then .next s
  else .next { s with hpat := s.hpat.setIfInBounds (imm.toNat - 0x18) v }

/-- A handler that returns elsewhere than to the restart point of a resumption does not execute the region again that the resumption opened:
no later region is that one (R278, R279). -/
def Core.returnsTo (c : Core) (t : Word) : Core :=
  c.onCtx fun x => { x with resumed := if c.run.regions.any (·.resumed) || x.resumed == some t then x.resumed else none }

/-- SRET (R328). The 8 bytes at TREC + 8 are read as they stand: poison raises nothing here (R336). -/
def execSret (g : PReg) (s : State) : Out :=
  s.syl g fun c =>
    let e := c.ctx.x.trec.toNat + 8
    let t := BitVec.ofNat 64 (c.load e 8)
    c.checked 0 [(!c.ctx.x.priv, .priv), (!c.inBounds e 8, .bounds), (t.extractLsb' 48 16 != 0 || t.toNat % 16 != 0, .align)] fun c =>
      (((c.fly 1 0 (.spr 0x0E 0)).closeRegion).jump t).returnsTo t

/-! ### Shootdowns (R302, R330) -/

/-- The operands TLBI refuses (R330). -/
def tlbiBad (x : Fin 4) (d a b : Word) : Bool :=
  match x with
  | 0 => d.extractLsb' 12 52 != 0 || a.toNat % 65536 != 0 || a.extractLsb' 48 16 != 0 || b == 0 || b.toNat % 65536 != 0 ||
      a.toNat + b.toNat > 2 ^ 48
  | 1 => d.extractLsb' 12 52 != 0
  | _ => false

/-- An address is in the scope of a shootdown. -/
def Shoot.covers (k : Shoot) (space : BitVec 16) (va : Nat) : Bool :=
  (k.space == none || k.space == some space) && k.lo ≤ va && va < k.hi

/-- The lowest address bit a level indexes (R297). -/
def levelBit (level : Nat) : Nat := if level = 0 then 39 else if level = 1 then 30 else if level = 2 then 21 else 16
/-- The bytes an entry of a level covers: what a leaf there maps (R297). -/
def leafSize (level : Nat) : Nat := 2 ^ levelBit level

/-- An entry of a level for a page is in the scope of a shootdown: when any byte below it is. -/
def Shoot.meets (k : Shoot) (space : BitVec 16) (level page : Nat) : Bool :=
  (k.space == none || k.space == some space) && k.lo < (page + 1) * leafSize level && page * leafSize level < k.hi

/-- The site of a core, counted over the package. -/
def siteOf (k : CoreId) : Fin 48 := Fin.ofNat 48 (k.val / 8)
/-- What a site's engines are reading for a command has been dropped, or is no longer (R250, R302). -/
def State.setDropped (s : State) (x : CoreId × Nat) (v : Bool) : State :=
  { s with sites := s.sites.set (siteOf x.1) { s.sites[siteOf x.1] with
      dropped := (if v then [x] else []) ++ s.sites[siteOf x.1].dropped.filter (· != x) } }
/-- What was read for a command is not to be held. -/
def State.isDropped (s : State) (x : CoreId × Nat) : Bool := s.sites[siteOf x.1].dropped.contains x

/-- The space a core's task runs in, by its owner tag. -/
def State.spaceTag (s : State) (tid : Word) : BitVec 16 :=
  match s.tasks.find? (·.tid == tid) with
  | some t => ((s.launches.find? (·.num == t.launch)).map (·.space.tag)).getD 0
  | none => 0

/-- The commands under whose walk an entry has been read that a shootdown covers: the walk has gone below its level, or its atom has been
served. -/
def State.walkers (s : State) (k : Shoot) : List (CoreId × Nat) :=
  (List.finRange 384).flatMap fun i =>
    let c := s.cores[i]
    (c.run.copies.filter fun m => m.walk.any fun w => (List.range (w.level + 1)).any fun l =>
      (l != w.level || m.atoms.any fun a => a.role == .entry && a.served) &&
        k.meets (s.spaceTag c.ctx.x.tid) l (w.va / leafSize l)).map fun m => (i, m.id)
/-- A shootdown reaches the engines and the cores: what it covers is dropped, and what a walk under way has read of it is not to be held
(R302). -/
def State.dropCached (s : State) (k : Shoot) : State :=
  (s.walkers k).foldl (fun s x => s.setDropped x true)
    { s with
      sites := s.sites.map fun t => { t with tlb := t.tlb.filter fun e => !k.meets e.tag e.level e.page }
      cores := s.cores.map fun c => { c with icache := c.icache.filter fun l => !k.covers l.space l.addr } }

/-- The pages of 64 KiB that a command has translated, or translates (R302). -/
def Cmd.touched (m : Cmd) : List Nat := (m.walk.map (·.va / 65536)).toList ++ m.pages.map (·.1)
/-- The commands that have translated an address a shootdown covers (R302). -/
def State.translated (s : State) (k : Shoot) : List (CoreId × Nat) :=
  (List.finRange 384).flatMap fun i =>
    let c := s.cores[i]
    (c.run.copies.filter fun m => m.touched.any fun p => k.covers (s.spaceTag c.ctx.x.tid) (65536 * p)).map
      fun m => (i, m.id)

/-- What peers write, translated in the scope of a shootdown and not yet served, is waited for (R302). -/
def Shoot.awaits (k : Shoot) (x : Inbound) : Inbound :=
  if k.covers x.space x.va then { x with shoots := k.id :: x.shoots } else x

/-- TLBI (R330): the shootdown is sent at issue; its region waits for it. -/
def execTlbi (g : PReg) (d a b : SReg) (x : Fin 4) (s : State) : Out :=
  let c := s.core
  let faults := [(tlbiBad x (c.s d) (c.s a) (c.s b), Cause.illegal), (!c.ctx.x.priv, .priv)]
  if !c.g0 g then .next s
  else if (firstFault faults).isSome then s.act fun c => c.checked 0 faults id
  else
    let k : Shoot :=
      { id := s.orders, core := s.cur, region := c.regionId, space := if x = 2 then none else some ((c.s d).setWidth 16)
        lo := if x = 0 then (c.s a).toNat else 0, hi := if x = 0 then (c.s a).toNat + (c.s b).toNat else 2 ^ 48, waits := [] }
    let k := { k with waits := s.translated k }
    let s := (s.dropCached k).onCur fun c => c.onRegion fun r => { r with tlbis := k.id :: r.tlbis }
    .next { s with
      shoots := s.shoots ++ [k], inbox := s.inbox.map k.awaits, orders := s.orders + 1, free := s.free + 1
      agenda := s.agenda ++ [(s.now + 1 + Config.delay s.free, .dev .shootdownComplete (.shoot k.id))] }

end Sys2Proof.Machine
end

