-- ==== Sys2Proof/Machine/LogStore.lean ====
section
/-! DEFINITION. Logged stores at issue and the space of a log (R240, R241). -/

namespace Sys2Proof.Machine

/-- Bytes of a record (R241). -/
def LogRec.len (r : LogRec) : Nat := if r.kind = 3 then 264 else 16

/-- Where a record goes when the next free offset is pos: its offset and the pad before it (R241). -/
def placeRec (size pos len : Nat) : Nat × Nat :=
  if pos + len ≤ size then (pos, 0) else (0, size - pos)

/-- The offset and the bytes taken after more records. -/
def placeAll (size : Nat) (st : Nat × Nat) : List LogRec → Nat × Nat
  | [] => st
  | r :: l =>
    let (o, pad) := placeRec size st.1 r.len
    placeAll size (o + r.len, st.2 + pad + r.len) l

/-- The bytes of joined records not yet reclaimed (R241). -/
def Log.used (g : Log) : Nat := g.recs.foldl (fun n r => n + r.len) 0

/-- The log of a task. -/
def State.logOf (s : State) (tid : Word) : Option Log := s.logs.find? (·.tid == tid)
/-- The task that a TID's log is of (R243); 0 while none has held the TID, or the last to be given it never started (R289). -/
def State.holderOf (s : State) (tid : Word) : Nat := ((s.logOf tid).map (·.holder)).getD 0

/-- The records of a core's pending segments, oldest first. -/
def Core.pendingRecs (c : Core) : List LogRec := (c.run.regions.reverse.map (·.segment)).flatten

/-- An append fits in its writer's log beside what is joined and what is pending (R241). -/
def Log.fits (g : Log) (pending : List LogRec) (r : LogRec) : Bool :=
  (placeAll g.size (g.next, g.used) (pending ++ [r])).2 ≤ g.size

/-- An append at issue (R240): it freezes its bundle under cause 3 while the log is full (R241), and joins the pending segment
otherwise. A task without a log area appends nothing that could be full. -/
def Core.append (c : Core) (g : Option Log) (r : LogRec) : Core :=
  match g with
  | some l => if l.base.isNone || l.fits c.pendingRecs r then c.onRegion fun x => { x with segment := x.segment ++ [r] } else c.freeze 3
  | none => c.onRegion fun x => { x with segment := x.segment ++ [r] }

/-- The checks and the append of a logged store of n bytes (R240). -/
def State.logStore (s : State) (g : PReg) (a : SReg) (n : Nat) (kind : Fin 4) (pois : Core → Bool) (data : Core → Line) : Out :=
  s.csyl g (fun c => [((c.s a).extractLsb' 48 16 != 0, .bounds), ((c.s a).toNat % n != 0, .align), (pois c, .poisonUse)])
    fun c => c.append (s.logOf c.ctx.x.tid) ⟨kind, (c.s a).setWidth 48, data c⟩

/-- LST.W (R240). -/
def execLstW (g : PReg) (a b : SReg) (s : State) : Out :=
  s.logStore g a 4 1 (fun _ => false) fun c => (c.s b &&& 0xFFFFFFFF).setWidth 2048
/-- LST.D (R240). -/
def execLstD (g : PReg) (a b : SReg) (s : State) : Out := s.logStore g a 8 2 (fun _ => false) fun c => (c.s b).setWidth 2048
/-- LSTV: all 256 bytes, bit 0 of the guard alone (R240). -/
def execLstv (g : PReg) (a : SReg) (b : VReg) (s : State) : Out :=
  s.logStore g a 256 3 (fun c => (c.vr b).tag == .poison) fun c => (c.vr b).bits

end Sys2Proof.Machine
end

