-- ==== Sys2Proof/Machine/Translate.lean ====
section
/-! DEFINITION. Translation, placement and the address hash; host windows; the view of logged memory
(R173, R185 to R187, R200, R205 to R209, R295 to R301). -/

namespace Sys2Proof.Machine

/-! ### The walk (R295 to R298) -/

/-- What an access does to its page (R185, R299). -/
inductive Access where
  | read | write | append | fetch
  deriving DecidableEq, Repr

/-- Where a translated address lies, and what its leaf says: pat is the pattern it names (R186, R187, R298). -/
structure Place where
  dpa : Nat
  chan : ChanId
  pat : Word
  logged : Bool
  exposed : Nat
  deriving DecidableEq, Repr

/-- The index of an address at a level; level 3 has 32 entries (R297). -/
def levelIndex (level va : Nat) : Nat := va / 2 ^ levelBit level % (if level = 3 then 32 else 512)
/-- Bits of an entry as a number. -/
def pteField (e : Word) (lo n : Nat) : Nat := (e.extractLsb' lo n).toNat
/-- The first offset of a stack's poison bitmap (R186). -/
def bitmapBase : Nat := 0xFFFE00000

/-- Layout faults of a leaf (R298, R299 step 2). A leaf that reaches into the poison bitmap maps it. -/
def leafBad (level : Nat) (e : Word) : Bool :=
  level == 0 || pteField e 40 13 != 0 || pteField e 0 8 != 0 || pteField e 36 4 > 11 || pteField e 54 2 == 3 ||
    (e.getLsbD 61 && e.getLsbD 60) || (e.getLsbD 60 && e.getLsbD 59) || pteField e 0 (levelBit level) != 0 ||
    pteField e 0 36 + leafSize level > bitmapBase
/-- Layout faults of a non-leaf entry (R298). -/
def tableBad (level : Nat) (e : Word) : Bool :=
  level == 3 || pteField e 53 9 != 0 || pteField e 40 13 != 0 || pteField e 0 8 != 0 || pteField e 36 4 > 11 ||
    (level ≤ 1 && pteField e 8 4 != 0)

/-- What the walk does at an entry it has read: it ends at a leaf, goes on in a table, or fails (R297, R299 steps 1 and 2). -/
inductive Seen where
  | leaf | table (next : Nat) | bad
  deriving DecidableEq, Repr
/-- An entry of a level judged. -/
def seenAt (level : Nat) (e : Word) : Seen :=
  if !e.getLsbD 63 then .bad
  else if e.getLsbD 62 then (if leafBad level e then .bad else .leaf)
  else if tableBad level e then .bad else .table (pteField e 0 40)

/-- The address of the entry a walk reads in a table (R297). -/
def entryAt (table level va : Nat) : Nat := table + 8 * levelIndex level va
/-- A page of 4 KiB is poisoned (R197). -/
def State.poisoned (s : State) (dpa : Nat) : Bool := s.pagePoison.contains (dpa / 4096)
/-- The walk from a table: the level and the word of the leaf, or TRANSLATION; an entry in a poisoned page fails it with POISON (R197). -/
def State.walkFrom (s : State) (va table : Nat) : List Nat → Except Word (Nat × Word)
  | [] => .error stTranslation
  | level :: rest =>
    let a := entryAt table level va
    let e := memBits s.hbm 64 a 8
    if s.poisoned a then .error stPoison
    else match seenAt level e with
      | .bad => .error stTranslation
      | .leaf => .ok (level, e)
      | .table next => s.walkFrom va next rest

/-- The walk of an address in a space. -/
def State.walk (s : State) (sp : Space) (va : Nat) : Except Word (Nat × Word) :=
  if va < 2 ^ 48 then s.walkFrom va sp.root [0, 1, 2, 3] else .error stTranslation
/-- The addresses of the entries that a walk from a table reads. -/
def State.walkReads (s : State) (va table : Nat) : List Nat → List Nat
  | [] => []
  | level :: rest =>
    let a := entryAt table level va
    match seenAt level (memBits s.hbm 64 a 8) with
    | .table next => a :: s.walkReads va next rest
    | _ => [a]

/-- Steps 3 to 5 of R299: the status of the first failure. -/
def leafDenies (e : Word) (priv : Bool) (acc : Access) : Option Word :=
  if e.getLsbD 53 && !priv then some stPermission
  else match acc with
    | .read => none
    | .write => if !e.getLsbD 61 || e.getLsbD 59 then some stPermission else none
    | .append => if !e.getLsbD 61 || !e.getLsbD 59 then some stPermission else none
    | .fetch => if !e.getLsbD 60 then some stPermission else none

/-- The hash of a pattern on a stack offset: offset[12:5] XOR H (R187). -/
def hashChan (pat : Word) (off : Nat) : Nat :=
  let h := (List.range 8).foldl (fun h k =>
    let sel := pteField pat (8 * k) 8
    if sel != 0 && off / 2 ^ sel % 2 == 1 then h + 2 ^ k else h) 0
  Nat.xor (off / 32 % 256) h

/-- The pseudo-channel of an address in HBM under a pattern (R186, R187). -/
def chanOf (pat : Word) (dpa : Nat) : ChanId := Fin.ofNat 3072 (dpa / 2 ^ 36 * 256 + hashChan pat (dpa % 2 ^ 36))

/-- Where the byte of an address lies in the stacks under a pattern: an atom's 32 bytes stand in the pseudo-channel that the hash names, so a
page read under another pattern than it was written under shows other bytes (R187). -/
def cellOf (pat : Word) (dpa : Nat) : Nat := dpa / 8192 * 8192 + 32 * hashChan pat (dpa % 2 ^ 36) + dpa % 32
/-- Where the byte of an address lies when its atom is in a pseudo-channel. -/
def cellAt (chan : ChanId) (dpa : Nat) : Nat := dpa / 8192 * 8192 + 32 * (chan.val % 256) + dpa % 32
/-- n bytes of device memory from an address under a pattern, little-endian (R12, R187). -/
def hbmLe (m : Mem) (pat : Word) (dpa : Nat) : Nat → Nat
  | 0 => 0
  | n + 1 => (memGet m (cellOf pat dpa)).toNat + 256 * hbmLe m pat (dpa + 1) n
/-- The bytes of a value written to device memory from an address under a pattern, little-endian (R12, R187). -/
def hbmPut (m : Mem) (pat : Word) (dpa v : Nat) : Nat → Mem
  | 0 => m
  | n + 1 => hbmPut (memSet m (cellOf pat dpa) (BitVec.ofNat 8 v)) pat (dpa + 1) (v / 256) n

/-- The place of an address under its leaf (R186, R187, R297). -/
def placeOf (hpat : Vector Word 8) (level : Nat) (e : Word) (va : Nat) : Place :=
  let dpa := pteField e 36 4 * 2 ^ 36 + pteField e 0 36 / leafSize level * leafSize level + va % leafSize level
  let pat := hpat.toList.getD (pteField e 56 3) 0
  { dpa := dpa, chan := chanOf pat dpa, pat := pat, logged := e.getLsbD 59, exposed := pteField e 54 2 }

/-- Translation of an address without engine caches (R299). -/
def State.resolve (s : State) (sp : Space) (priv : Bool) (acc : Access) (va : Nat) : Except Word Place :=
  match s.walk sp va with
  | .error x => .error x
  | .ok (level, e) =>
    match leafDenies e priv acc with
    | some x => .error x
    | none => .ok (placeOf s.hpat level e va)

/-- An entry is one of a space, whose tag and root are fixed at dispatch (R296). -/
def Tlb.isOf (e : Tlb) (sp : Space) : Bool := e.tag == sp.tag && e.root == sp.root
/-- A record held is one of a space (R296). -/
def ShapeLine.isOf (r : ShapeLine) (sp : Space) : Bool := r.tag == sp.tag && r.root == sp.root
/-- A bundle held is one of a space (R296). -/
def ILine.isOf (l : ILine) (sp : Space) : Bool := l.space == sp.tag && l.root == sp.root
/-- An entry held for an address at a level, a leaf or not (R250, R301). -/
def Site.entry (t : Site) (sp : Space) (va level : Nat) : Option Word :=
  (t.tlb.find? fun e => e.isOf sp && e.level == level && e.page == va / leafSize level).map (·.pte)
/-- A leaf that a site holds for an address (R250, R301). -/
def Site.held (t : Site) (sp : Space) (va : Nat) : Option (Nat × Word) :=
  (t.tlb.find? fun e => e.pte.getLsbD 62 && e.isOf sp && e.page == va / leafSize e.level).map fun e => (e.level, e.pte)
/-- Where the walk of an address begins: below the deepest table entry that the site holds, else at the root (R297, R301). -/
def Site.walkOf (t : Site) (sp : Space) (va : Nat) : Walk :=
  match [2, 1, 0].findSome? fun l => (t.entry sp va l).map fun e => (l + 1, pteField e 0 40) with
  | some x => ⟨va, x.1, x.2⟩
  | none => ⟨va, 0, sp.root⟩
/-- An entry that a walk has read is held from then on. -/
def Site.hold (t : Site) (sp : Space) (w : Walk) (e : Word) : Site :=
  { t with tlb := ⟨sp.tag, sp.root, w.level, w.va / leafSize w.level, e⟩ :: t.tlb }

/-- The cause that an instruction fetch raises for a failed translation, and the copy column's status (R299). A poisoned page raises nothing:
where an entry of the walk lies in one, the bundle's bits are unspecified (R197, R336): log 98. While an engine of any site still holds a
leaf that was not executable, no shootdown has followed the change of the page (R300). -/
def State.fetchFault (s : State) (sp : Space) (priv : Bool) (va : Nat) : Option (Cause × Word) :=
  match s.walk sp va with
  | .error x => if x == stPoison then none else some (.bounds, x)
  | .ok (_, e) =>
    if e.getLsbD 53 && !priv then some (.priv, stPermission)
    else if !e.getLsbD 60 || s.sites.toList.any fun t => (t.held sp va).any fun x => !x.2.getLsbD 60 then some (.bounds, stPermission)
    else none

/-! ### Spaces (R296) -/

/-- The address space of an owner tag, when bits [15:12] are zero and its entry is valid (R296). An entry in a poisoned page is unspecified, and
counts as invalid: log 98. -/
def State.spaceOf (s : State) (tag : BitVec 16) : Option Space :=
  let a := s.mgmt.astbase.toNat + 32 * tag.toNat
  let e := memBits s.hbm 64 a 8
  if tag.extractLsb' 12 4 != 0 || !e.getLsbD 63 || s.poisoned a then none
  else some ⟨tag, pteField e 0 40, memBits s.hbm 64 (a + 8) 6, memBits s.hbm 64 (a + 16) 6⟩

/-- The task of a TID. -/
def State.taskOf (s : State) (tid : Word) : Option Task := s.tasks.find? (·.tid == tid)
/-- A task updated. -/
def State.onTask (s : State) (tid : Word) (f : Task → Task) : State :=
  { s with tasks := s.tasks.map fun t => if t.tid == tid then f t else t }
/-- The launch of a number. -/
def State.launchOf (s : State) (n : Nat) : Option Launch := s.launches.find? (·.num == n)
/-- A launch updated. -/
def State.onLaunch (s : State) (n : Nat) (f : Launch → Launch) : State :=
  { s with launches := s.launches.map fun l => if l.num == n then f l else l }
/-- The launch a TID belongs to (R30). -/
def launchNo (tid : Word) : Nat := (tid.extractLsb' 16 48).toNat
/-- The launch of the task on a core. -/
def State.launchOn (s : State) (k : CoreId) : Option Launch := s.launchOf (launchNo s.cores[k].ctx.x.tid)
/-- The space of the task on a core. -/
def State.spaceOn (s : State) (k : CoreId) : Space := ((s.launchOn k).map (·.space)).getD ⟨0, 0, 0, 0⟩
/-- A core holds a task. -/
def Core.busy (c : Core) : Bool := c.run.phase != .idle

/-! ### Reads and writes of device agents -/

/-- n bytes at a virtual address, within one page (R297). -/
def State.readVa (s : State) (sp : Space) (va n : Nat) : Except Word Nat :=
  match s.resolve sp true .read va with
  | .error x => .error x
  | .ok p => .ok (hbmLe s.hbm p.pat p.dpa n)

/-- n bytes written at a virtual address of an owned page, within one page. -/
def State.writeVa (s : State) (sp : Space) (va n v : Nat) : Except Word State :=
  match s.resolve sp true .write va with
  | .error x => .error x
  | .ok p => .ok { s with hbm := hbmPut s.hbm p.pat p.dpa v n }

/-- The host address of an offset in a window, when the window is set and holds n bytes there (R173, R200). An address with
bits [59:48] not zero lies in no window. -/
def State.hostAddr (s : State) (a : Word) (n : Nat) : Except Word Nat :=
  let w := s.mgmt.hostWin.toList.getD (a.extractLsb' 60 4).toNat (0, 0)
  let off := (a.extractLsb' 0 48).toNat
  if a.extractLsb' 48 12 != 0 || w.2 == 0 || off + n > w.2.toNat then .error stPermission else .ok (w.1.toNat + off)

/-! ### The view of logged memory (R205 to R209) -/

/-- A task's horizon for the log of a holder (R205). -/
def View.at (v : View) (holder : Nat) : Nat := ((v.some.find? (·.1 == holder)).map (·.2)).getD v.all

/-- The view of a task as it stands: its horizons and its joined appends, but for those of a reading copy's own region (R207,
R208). -/
def State.viewOf (s : State) (t : Task) (hole : Nat × Nat) : View :=
  ⟨t.horizon, t.horizons, ((s.logOf t.tid).map (·.count)).getD 0, hole⟩
/-- A record of the task's own log is in its view as its own (R208). -/
def View.mine (v : View) (ix : Nat) : Bool := ix < v.own && !(v.hole.1 ≤ ix && ix < v.hole.2)

/-- A numbered record put among others in the order of numbers; equal numbers keep their order (R209). -/
def insertRec (r : Nat × LogRec) : List (Nat × LogRec) → List (Nat × LogRec)
  | [] => [r]
  | x :: l => if r.1 < x.1 then r :: x :: l else x :: insertRec r l

/-- The candidate records of a task's view in replay order (R209): its own are those it wrote, not those of an earlier task of its TID. That
they come from `Log.recs`, as they joined, and are not read back from the log's area in HBM, is a DESIGN CHOICE (log 112). -/
def State.replay (s : State) (tid : Word) (v : View) : List LogRec :=
  let mine (r : Joined) : Bool := v.mine r.ix && (s.taskOf tid).any (·.born == r.holder)
  let released := (s.logs.filter fun l => l.launch == launchNo tid).flatMap fun l => l.recs.filterMap fun r =>
    match r.entry, r.release with
    | some e, some n => if n < v.at r.holder || (l.tid == tid && mine r) then some (n, e) else none
    | _, _ => none
  let own := ((s.logOf tid).map (·.recs)).getD [] |>.filterMap fun r =>
    match r.release with
    | none => if mine r then r.entry else none
    | some _ => none
  ((released.foldl (fun l r => insertRec r l) []).map (·.2)) ++ own

/-- Bytes a record writes (R240, R241). -/
def LogRec.bytes (r : LogRec) : Nat := if r.kind = 3 then 256 else if r.kind = 2 then 8 else 4
/-- The byte a record writes at an address. -/
def LogRec.byteAt (r : LogRec) (va : Nat) : Option Byte :=
  if r.addr.toNat ≤ va && va < r.addr.toNat + r.bytes then some (r.data.extractLsb' (8 * (va - r.addr.toNat)) 8) else none
/-- The byte of a view: the last candidate that writes it, else the initial value in the home copy (R209). -/
def viewByte (rs : List LogRec) (va : Nat) (home : Byte) : Byte := rs.foldl (fun b r => (r.byteAt va).getD b) home
/-- n bytes of a view from a virtual address whose home copy lies at a DPA. -/
def viewBytes (rs : List LogRec) (home : Nat → Byte) (va dpa : Nat) : Nat → Nat
  | 0 => 0
  | n + 1 => (viewByte rs va (home dpa)).toNat + 256 * viewBytes rs home (va + 1) (dpa + 1) n

end Sys2Proof.Machine
end

