-- ==== Sys2Proof/Machine/VectorMem.lean ====
section
/-! DEFINITION. Vector loads, stores and scalar moves, and the issue of spills and fills (R127 to R134). -/

namespace Sys2Proof.Machine

/-- The word at a logical address, as a lane. -/
def Core.word (c : Core) (a : Nat) : Half := BitVec.ofNat 32 (c.load a 4)

/-- A list of numbers without repeats. -/
def distinct (l : List Nat) : List Nat := l.foldl setInsert []

/-- A load whose executed lane i reads the word at addr i (R127, R129): checks over executed lanes only, sampling at issue, POISON
from any poisoned line, 320 fJ for each distinct line. -/
def Core.gather (c : Core) (g : PReg) (d : VReg) (t : Tag) (addr : Nat → Nat) (bits : Unit → Line) : Core :=
  let gm := c.pr g
  let as := (execLanes gm).map addr
  c.dissip 6 gm allBits d t (as.any c.poisonAt) false
    [(as.any fun a => !c.inBounds a 4, .bounds), (as.any fun a => a % 4 != 0, .align)]
    (320 * (distinct (as.map (· / 256))).length) (bits ())

/-- VLD: lane i from EA + 4i (R127). -/
def Core.vld (c : Core) (g : PReg) (d : VReg) (a : SReg) (i : Imm8) (t : Tag) : Core :=
  let e := c.ea a i
  c.gather g d t (fun k => e + 4 * k) fun _ => c.window e

/-- VLD.RAW (R127). -/
def execVldRaw (g : PReg) (d : VReg) (a : SReg) (imm : Imm8) (s : State) : Out := s.act (·.vld g d a imm .raw)
/-- VLD.I32 (R127). -/
def execVldI32 (g : PReg) (d : VReg) (a : SReg) (imm : Imm8) (s : State) : Out := s.act (·.vld g d a imm .i32)
/-- VLD.F32 (R127). -/
def execVldF32 (g : PReg) (d : VReg) (a : SReg) (imm : Imm8) (s : State) : Out := s.act (·.vld g d a imm .f32)
/-- VLD.BF16 (R127). -/
def execVldBf16 (g : PReg) (d : VReg) (a : SReg) (imm : Imm8) (s : State) : Out := s.act (·.vld g d a imm .bf16)
/-- VLD.FP8E4 (R127). -/
def execVldFp8e4 (g : PReg) (d : VReg) (a : SReg) (imm : Imm8) (s : State) : Out := s.act (·.vld g d a imm .fp8e4)
/-- VLD.FP8E5 (R127). -/
def execVldFp8e5 (g : PReg) (d : VReg) (a : SReg) (imm : Imm8) (s : State) : Out := s.act (·.vld g d a imm .fp8e5)
/-- VLD.FP4 (R127). -/
def execVldFp4 (g : PReg) (d : VReg) (a : SReg) (imm : Imm8) (s : State) : Out := s.act (·.vld g d a imm .fp4)
/-- VLD.INT8 (R127). -/
def execVldInt8 (g : PReg) (d : VReg) (a : SReg) (imm : Imm8) (s : State) : Out := s.act (·.vld g d a imm .int8)
/-- VLD.RNS: no canonical check (R74, R127). -/
def execVldRns (g : PReg) (d : VReg) (a : SReg) (imm : Imm8) (s : State) : Out := s.act (·.vld g d a imm .rns)

/-- VLDS: lane i from (s_a + i * s_b) mod 2^64 (R129). -/
def execVlds (g : PReg) (d : VReg) (a b : SReg) (x : Fin 4) (s : State) : Out :=
  s.act fun c =>
    let addr := fun i : Nat => (c.s a + BitVec.ofNat 64 i * c.s b).toNat
    c.gather g d (selTag x) addr fun _ => ofLanes fun i => c.word (addr i)

/-- VBCST: the canonical test is made once the address has passed its checks (R130, R352). -/
def execVbcst (g : PReg) (d : VReg) (a : SReg) (t : Fin 4) (s : State) : Out :=
  s.act fun c =>
    let e := (c.s a).toNat
    let w := c.word e
    let oob := !c.inBounds e 4
    let mis := e % 4 != 0
    c.dissip 6 (c.pr g) allBits d (selTag t) (c.poisonAt e) (t == 3 && !oob && !mis && !rnsCanon w)
      [(oob, .bounds), (mis, .align)] 320 (ofLanes fun _ => w)

/-- VMOVS: lane n when guard bit n is 1 (R130). -/
def execVmovs (g : PReg) (d : VReg) (a : SReg) (t : Fin 4) (n : Fin 64) (s : State) : Out :=
  s.act fun c =>
    let w : Half := (c.s a).setWidth 32
    c.dissip 2 (c.pr g &&& BitVec.twoPow 64 n.val) allBits d (selTag t) false (t == 3 && !rnsCanon w) [] 0 (ofLanes fun _ => w)

/-- VMOVV: lane s_b[5:0] when its guard bit is 1 (R130). -/
def execVmovv (g : PReg) (d : SReg) (a : VReg) (b : SReg) (s : State) : Out :=
  s.act fun c =>
    let n := (c.s b).toNat % 64
    if (c.pr g).getLsbD n then
      c.checked 1 [((c.vr a).tag == .poison, .poisonUse)] fun c =>
        (c.meter 40).flyS 2 1 d ((lane (c.vr a).bits n).setWidth 64)
    else c

/-- The part of a 256-byte store that falls in one line, as a store of its own. -/
def Core.vstPart (c : Core) (a : Nat) (mask : BitVec 256) (data : Line) (eff : LineEff) : Core :=
  if mask = 0 then c else c.fly 1 1 (.store (c.ctx.phys a) mask data eff)

/-- The byte mask of a predicate's lanes. -/
def byteMask (gm : Word) : BitVec 256 :=
  BitVec.ofNat 256 ((List.range 64).foldr (fun i acc => (if gm.getLsbD i then 15 else 0) + 16 * acc) 0)

/-- VST (R128): it lands at the end of its issue cycle in the one or two lines it touches. -/
def execVst (g : PReg) (d : VReg) (a : SReg) (imm : Imm8) (s : State) : Out :=
  s.act fun c =>
    let e := c.ea a imm
    let gm := c.pr g
    let x := c.vr d
    let as := (execLanes gm).map fun k => e + 4 * k
    if gm = 0 then c
    else
      c.checked 1 [(as.any fun a => !c.inBounds a 4, .bounds), (e % 4 != 0, .align)] fun c =>
        let whole := gm == allLanes && e % 256 == 0
        let eff : LineEff :=
          if x.tag == .poison then .poisoned else if !whole then .dirty else if x.tag == .clean then .cleaned else .full
        let fj :=
          if eff == .cleaned then (if c.cleanAt e then 0 else 24 * 64)
          else 40 * popcount gm + 480 * (distinct (as.map (· / 256))).length
        let k := 256 - e % 256
        let m := byteMask gm
        let lo : BitVec 256 := BitVec.ofNat 256 (m.toNat % 2 ^ k)
        ((c.meter fj).vstPart e lo x.bits eff).vstPart (e + k) (BitVec.ofNat 256 (m.toNat / 2 ^ k)) (x.bits >>> (8 * k)) eff

/-- The run of n registers from vd, by physical number (R29, R132). -/
def Core.run16 (c : Core) (d : VReg) (n : Nat) : List VReg := (List.range n).map fun k => c.physV (Fin.ofNat 64 (d.val + k))

/-- A spill or fill at issue: its address checks, whatever its guard (R132), its energy, and its command with the registers as they stand
(R133). A guard that enables no lane moves nothing. -/
def Core.spillIssue (c : Core) (g : PReg) (d : VReg) (a : SReg) (b : Fin 64) (k : CopyKind) : Core :=
  let gm := c.pr g
  let n := b.val + 1
  let regs := (c.run16 d n).map fun r => (r, c.ctx.v[r])
  let ga := c.s a
  c.checked 1 [(ga.extractLsb' 48 16 != 0, .bounds), (ga.toNat % 256 != 0, .align)] fun c =>
    if gm = 0 then c
    else
      let erase := if k == .fill then (regs.filter (·.2.tag != .clean)).length * 24 * popcount gm else 0
      (c.meter (40 * n * popcount gm + erase)).enqueue { c.newCmd k none none ga 0 0 with regs := regs, guard := gm }

/-- The next free value's number. -/
def State.draw (s : State) : State := { s with free := s.free + 1 }

/-- VSPILL (R132, R133). -/
def execVspill (g : PReg) (d : VReg) (a : SReg) (b : Fin 64) (s : State) : Out := s.act (·.spillIssue g d a b .spill)
/-- VFILL (R132, R133). -/
def execVfill (g : PReg) (d : VReg) (a : SReg) (b : Fin 64) (s : State) : Out := s.act (·.spillIssue g d a b .fill)

end Sys2Proof.Machine
end

