-- ==== Sys2Proof/Machine/Device.lean ====
section
/-! DEFINITION. What the steps of the device share: due steps, sequence numbers, events, and the memory and the tags of a task
wherever it is held (R204, R223, R280, R282, R284 to R286, R314). -/

namespace Sys2Proof.Machine

/-! ### Steps that are due -/

/-- Steps to be taken later in this clock. -/
def State.soon (s : State) (l : List Due) : State := { s with todo := s.todo ++ l }
/-- Steps to be taken next. -/
def State.first (s : State) (l : List Due) : State := { s with todo := l ++ s.todo }
/-- A step at a clock. -/
def State.atClock (s : State) (t : Nat) (d : Due) : State := { s with agenda := s.agenda ++ [(t, d)] }
/-- A step whose time is not fixed (R353). -/
def State.later (s : State) (d : Due) : State := (s.draw).atClock (s.now + 1 + Config.delay s.free) d
/-- The period that begins at a clock, or next after it, by its number, and the clock at which it begins: the periods of a core that runs
nothing go on, and a stretched one takes two clocks (R345, R346). -/
def Clk.following (x : Clk) (now : Nat) : Nat × Nat :=
  let n := now - x.edge
  let r := (x.ctl.filter (x.period ≤ ·)).foldl (fun (r : Nat × Bool) c =>
    if c - x.period + r.1 < n then (r.1 + 1, c - x.period + r.1 + 1 == n) else r) (0, false)
  let mid := if r.2 then 1 else 0
  (x.period + n - r.1 + mid, max x.edge now + mid)
/-- The number of the next period of a core's islands; those of a core that runs nothing go on (R346). -/
def Clk.at (x : Clk) (now : Nat) : Nat := (x.following now).1
/-- The island outside the cores that receives over a free crossing of a core: its site's fabric, its copy engines, a controller, quadrant zero
of its die; the base die has none, and its periods are the reference's: log 89. -/
def receiver (k : CoreId) (j : Fin 10) : Option (Fin 256) :=
  match j with
  | 0 => some (Fin.ofNat 256 (k.val / 8))
  | 1 => some (Fin.ofNat 256 (144 + k.val / 4))
  | 2 => some (Fin.ofNat 256 (48 + k.val / 4))
  | 3 => some (Fin.ofNat 256 (240 + k.val / 96 * 4))
  | _ => none
/-- The number of the receiver's period that a clock belongs to; of one that begins at the clock or next after it where next is set. -/
def State.periodAt (s : State) (k : CoreId) (j : Fin 10) (t : Nat) (next : Bool) : Nat :=
  if 5 ≤ j.val then
    let x := s.cores[k].clk.following t
    if next || x.2 ≤ t then x.1 else x.1 - 1
  else match receiver k j with
    | some n => t - s.isles[n].taken
    | none => t
/-- A step as it is once it has crossed. -/
def Due.bare : Due → Due
  | .item _ _ _ i a => .dev i a
  | d => d
/-- A step of the device made an item of a crossing. -/
def Due.over (d : Due) (k : CoreId) (j : Fin 10) (p : Nat) : Due :=
  match d with
  | .dev i a => .item k j p i a
  | d => d
/-- A step is due at a clock; of an item the receiver's period has come as well, which stretches delay (R347). -/
def State.ripe (s : State) (t : Nat) (e : Nat × Due) : Bool :=
  e.1 ≤ t && match e.2 with
    | .item k j p _ _ => p ≤ s.periodAt k j t false
    | _ => true
/-- A step is on its way. -/
def State.onItsWay (s : State) (d : Due) : Bool := s.agenda.any (·.2.bare == d)
/-- An item of one of a core's free crossings: delivered no earlier than D periods of the receiver from now nor than the item before it, after a
time that is otherwise not fixed (R347, R353). -/
def State.cross (s : State) (k : CoreId) (j : Fin 10) (d : Due) : State :=
  let x := s.cores[k].clk.cross[j]
  let t := max (s.now + max 1 x.d + Config.delay s.free) x.last
  let p := s.periodAt k j (s.now + 1) true + max 1 x.d - 1
  ((s.draw).onCore k fun c => { c with clk := { c.clk with cross := c.clk.cross.set j ⟨x.d, t⟩ } }).atClock t (d.over k j p)
/-- A step of a core. -/
def devCore (i : Instr) (k : CoreId) : Due := .dev i (.core k)
/-- The core's engines look whether a copy can start, and its next effect command whether it can be sent. -/
def State.wake (s : State) (k : CoreId) : State := s.soon [devCore .copyStart k, devCore .effectCommandSend k]

/-- A request of a master answered. -/
def State.respond (s : State) (m : PortId) (a : Answer) : State := { s with answers := s.answers.set m (some a) }

/-! ### Sequence numbers and events (R204, R314) -/

/-- The next number of the package sequencer (R204). -/
def State.number (s : State) : Nat × State := (s.seq, { s with seq := s.seq + 1 })

/-- An event enters the ring: the newest 4,096 stay (R314). -/
def State.event (s : State) (code kind source : Nat) (d0 d1 : Word) : State :=
  { s with
    events := (⟨s.seq, code, kind, source, d0, d1⟩ :: s.events).take 4096
    seq := s.seq + 1
    evcount := s.evcount + 1 }

/-- An event whose detail the spec does not give: the detail is a free value. -/
def State.eventOpen (s : State) (code kind source : Nat) : State :=
  s.draw.event code kind source (Config.freeBits 64 s.free 0) (Config.freeBits 64 s.free 1)

/-! ### The check of what is read from HBM (R5, R196, R197) -/

/-- A page becomes poisoned, with its event (R197, R314). -/
def State.poisonPage (s : State) (dpa : Nat) : State :=
  if s.poisoned dpa then s
  else ({ s with pagePoison := setInsert s.pagePoison (dpa / 4096) } : State).eventOpen 0x21 0 (dpa / 2 ^ 36 / 3)
/-- What the check of a read finds is a free value: 1 a corrected error, 2 an uncorrectable one. -/
def State.eccOf (s : State) : Nat := Config.freeNat s.free 0 % 3
/-- What follows from the check of an atom: a corrected one is to be written back, an uncorrectable one poisons its page. -/
def State.checkAtom (s : State) (chan : ChanId) (dpa : Nat) : State :=
  let t := s.draw
  if s.eccOf = 2 then t.poisonPage dpa else if s.eccOf = 1 then { t with writeback := t.writeback ++ [(chan, dpa)] } else t
/-- The check of the atoms among n bytes of HBM that an agent of the device reads, the first of each page of 4 KiB that fails standing for
its page: which one it is, is free. -/
def State.checkRead (s : State) (pat : Word) (dpa n : Nat) : State :=
  if n = 0 then s
  else (List.range ((dpa + n - 1) / 4096 + 1 - dpa / 4096)).foldl (fun s i =>
    let lo := max dpa (4096 * (dpa / 4096 + i))
    let hi := min (dpa + n) (4096 * (dpa / 4096 + i + 1))
    let a := 32 * (lo / 32 + Config.freeNat s.free 1 % ((hi - 1) / 32 + 1 - lo / 32))
    s.checkAtom (chanOf pat a) a) s
/-- The check of the entries that a walk of an agent of the device reads. The tables have no pattern: HPAT0. -/
def State.checkWalk (s : State) (sp : Space) (va : Nat) : State :=
  if va < 2 ^ 48 then (s.walkReads va sp.root [0, 1, 2, 3]).foldl (fun s a => s.checkRead 0 a 8) s else s
/-- The check of an owner tag's entry of the space table, which is read by its address in HBM (R296). -/
def State.checkSpace (s : State) (tag : BitVec 16) : State :=
  if tag.extractLsb' 12 4 != 0 then s else s.checkRead 0 (s.mgmt.astbase.toNat + 32 * tag.toNat) 24
/-- The check of what an agent reads at a virtual address on one page of 64 KiB, the entries of its walk among it. -/
def State.checkOnPage (s : State) (sp : Space) (va n : Nat) : State :=
  let s := s.checkWalk sp va
  match s.resolve sp true .read va with
  | .ok p => s.checkRead p.pat p.dpa n
  | .error _ => s
/-- The check of n bytes that an agent reads at a virtual address, on one page of 64 KiB or on two. -/
def State.checkVa (s : State) (sp : Space) (va n : Nat) : State :=
  let here := min n (65536 - va % 65536)
  let s := s.checkOnPage sp va here
  if here < n then s.checkOnPage sp (va + here) (n - here) else s

/-! ### The save area (R282) -/

/-- Bytes of a save area (R282). -/
def areaSize : Nat := 5 * 2 ^ 20
/-- The virtual base of a save area (R282, R306). SPBASE is read at each access, and so is the owner tag of SPCTL, so that a write of them moves
the areas that are assigned: DESIGN CHOICE (log 116). -/
def State.areaBase (s : State) (i : Nat) : Nat := s.mgmt.spbase.toNat + areaSize * i
/-- The space of the save pool (R306). -/
def State.poolSpace (s : State) : Option Space := s.spaceOf (s.mgmt.spctl.extractLsb' 16 16)
/-- A byte of a save area lies in a poisoned page (R197). -/
def State.areaPoisoned (s : State) (i off : Nat) : Bool :=
  match s.poolSpace with
  | none => false
  | some sp =>
    match s.resolve sp true .read (s.areaBase i + off) with
    | .ok p => s.poisoned p.dpa
    | .error _ => false
/-- n bytes of a save area, within one page; those of a poisoned page are unspecified (R197). -/
def State.areaGet (s : State) (i off n : Nat) : Nat :=
  match s.poolSpace with
  | none => 0
  | some sp =>
    match s.readVa sp (s.areaBase i + off) n with
    | .ok v => if s.areaPoisoned i off then Config.freeNat s.free off % 2 ^ (8 * n) else v
    | .error _ => 0
/-- n bytes of a save area written, within one page. An asynchronous write whose page fails translation or permission is lost: DESIGN CHOICE
(log 123). -/
def State.areaPut (s : State) (i off n v : Nat) : State :=
  match s.poolSpace with
  | none => s
  | some sp =>
    match s.writeVa sp (s.areaBase i + off) n v with
    | .ok t => t
    | .error _ => s
/-- The check of what an access to a save area reads: the pool's entry of the space table, then f of its space (R196, R306). -/
def State.checkPool (s : State) (f : Space → State → State) : State :=
  let s := s.checkSpace (s.mgmt.spctl.extractLsb' 16 16)
  match s.poolSpace with
  | none => s
  | some sp => f sp s
/-- The check of n bytes that are read of a save area, within one page (R196). -/
def State.checkBytes (s : State) (i off n : Nat) : State := s.checkPool fun sp s => s.checkVa sp (s.areaBase i + off) n
/-- The check of what is read of the 64 KiB pages of a save area at offsets (R196). -/
def State.checkArea (s : State) (i : Nat) (l : List Nat) : State :=
  s.checkPool fun sp s => l.foldl (fun s off => s.checkVa sp (s.areaBase i + off / 65536 * 65536) 65536) s
/-- The check of the entries that the walks of stores into a save area at offsets read (R196). -/
def State.checkStores (s : State) (i : Nat) (l : List Nat) : State :=
  s.checkPool fun sp s => l.foldl (fun s off => s.checkWalk sp (s.areaBase i + off)) s
/-- The 64 KiB page of a save area at an offset answers an access; a read also needs it unpoisoned (R288). -/
def State.areaAllows (s : State) (acc : Access) (i off : Nat) : Bool :=
  match s.poolSpace with
  | none => false
  | some sp =>
    match s.resolve sp true acc (s.areaBase i + off / 65536 * 65536) with
    | .ok p => acc == .write || (List.range 16).all fun j => !s.poisoned (p.dpa + 4096 * j)
    | .error _ => false

/-- Offset of the data of a logical pitch in an area (R282). -/
def areaPitch (k : Nat) : Nat := 0xA0000 + 65536 * k
/-- Offset of the line bits of a logical pitch: 32 bytes of poison bits, then 32 of clean bits (R282). -/
def areaBits (k : Nat) : Nat := 0x96000 + 64 * k

/-! ### A task's scratchpad wherever it is held (R286) -/

/-- The core and the SRAM byte of a logical byte of a task, or its offset in the task's save area; nothing beyond its pitches. -/
inductive Held where
  | sram (k : CoreId) (a : Nat)
  | area (i off : Nat)
  | nowhere
  deriving DecidableEq, Repr

/-- Where a logical byte of a task is held. -/
def State.whereIs (s : State) (t : Task) (a : Nat) : Held :=
  if t.stand = .onCore then
    let c := s.cores[t.core]
    if a < c.granted then .sram t.core (c.ctx.phys a) else .nowhere
  else
    match t.pitches[a / 65536]? with
    | some (.resident k p) => .sram k (p.val * 65536 + a % 65536)
    | some .saved => .area t.area (areaPitch (a / 65536) + a % 65536)
    | none => .nowhere

/-- The check of what an access to a task's bytes, within one pitch, reads of its save area where it is held there: the bytes, and its lines'
bits (R196). -/
def State.checkTask (s : State) (t : Task) (a n : Nat) : State :=
  match s.whereIs t a with
  | .area i off => (s.checkBytes i off n).checkBytes i (areaBits (a / 65536)) 64
  | _ => s
/-- The same of n bytes from the start of a line, line by line. -/
def State.checkLines (s : State) (t : Task) (a n : Nat) : State :=
  (List.range ((n + 255) / 256)).foldl (fun s i => s.checkTask t (a + 256 * i) (min 256 (n - 256 * i))) s
/-- The check of what a change of a task's tags reads of its save area where they are held there (R196, R282). -/
def State.checkTags (s : State) (t : Task) : State :=
  if t.stand = .onCore then s else s.checkBytes t.area 0x580 24
/-- A byte of a task's pitch is held in a poisoned page of its save area (R197). -/
def State.taskLost (s : State) (t : Task) (a : Nat) : Bool :=
  match s.whereIs t a with
  | .area i off => s.areaPoisoned i off
  | _ => false
/-- The byte a task holds. -/
def State.taskByte (s : State) (t : Task) (a : Nat) : Byte :=
  match s.whereIs t a with
  | .sram k p => memGet s.cores[k].sram.bytes p
  | .area i off => BitVec.ofNat 8 (s.areaGet i off 1)
  | .nowhere => 0

/-- A byte written into a task's pitch: its line loses its clean bit (R95, R286). -/
def State.taskPoke (s : State) (t : Task) (a : Nat) (b : Byte) : State :=
  match s.whereIs t a with
  | .sram k p => s.onCore k fun c => { c with sram := c.sram.poke p b }
  | .area i off =>
    let line := a % 65536 / 256
    let o := areaBits (a / 65536) + 32 + line / 8
    let old := BitVec.ofNat 8 (s.areaGet i o 1)
    (s.areaPut i off 1 b.toNat).areaPut i o 1 (old &&& ~~~BitVec.twoPow 8 (line % 8)).toNat
  | .nowhere => s

/-- Bytes of a value written into a task's pitches from an address, little-endian. -/
def State.taskPut (s : State) (t : Task) (a v : Nat) : Nat → State
  | 0 => s
  | n + 1 => (s.taskPoke t a (BitVec.ofNat 8 v)).taskPut t (a + 1) (v / 256) n

/-- The poison bit of a task's line, read or set. -/
def State.taskPoison (s : State) (t : Task) (a : Nat) : Bool :=
  match s.whereIs t a with
  | .sram k p => s.cores[k].sram.poison.contains (p / 256)
  | .area i _ => (BitVec.ofNat 8 (s.areaGet i (areaBits (a / 65536) + a % 65536 / 2048) 1)).getLsbD (a % 65536 / 256 % 8)
  | .nowhere => false
/-- The poison bit of a task's line set or cleared. -/
def State.taskPoisonPut (s : State) (t : Task) (a : Nat) (v : Bool) : State :=
  match s.whereIs t a with
  | .sram k p => s.onCore k fun c => { c with sram := { c.sram with poison := setPut c.sram.poison (p / 256) v } }
  | .area i _ =>
    let o := areaBits (a / 65536) + a % 65536 / 2048
    let bit := BitVec.twoPow 8 (a % 65536 / 256 % 8)
    let old := BitVec.ofNat 8 (s.areaGet i o 1)
    s.areaPut i o 1 (if v then old ||| bit else old &&& ~~~bit).toNat
  | .nowhere => s

/-! ### A task's tags wherever it is held (R223, R280, R284) -/

/-- A tag completes: status word, state and CTB bit together, in the core or in the save area. -/
def State.taskTag (s : State) (t : Task) (tag : TagId) (status : Word) : State :=
  if t.stand = .onCore then s.onCore t.core (·.completeTag tag status)
  else
    let st := BitVec.ofNat 128 (s.areaGet t.area 0x580 16)
    let two : BitVec 128 := 3#128 <<< (2 * tag.val)
    let ctb := BitVec.ofNat 64 (s.areaGet t.area 0x590 8)
    ((s.areaPut t.area 0x580 16 ((st &&& ~~~two) ||| (1#128 <<< (2 * tag.val))).toNat).areaPut t.area 0x590 8
      (ctb ||| BitVec.twoPow 64 tag.val).toNat).areaPut t.area (0x800 + 8 * tag.val) 8 status.toNat

/-- An acquire has completed: copies that waited for it need wait no longer (R206). -/
def Core.acquired (c : Core) (tag : TagId) : Core :=
  c.onRun fun r => { r with
    acqs := r.acqs.erase tag.val, copies := r.copies.map fun m => { m with waits := m.waits.filter (· != tag.val) } }

/-! ### Who has sent an effect command: the task of a core, or one cancelled off its core (R215, R216, R261) -/

/-- The task that a step of an effect command is for, and its command on the way. -/
def State.sender (s : State) : StepArg → Option (Task × EffCmd)
  | .core k => (s.taskOf s.cores[k].ctx.x.tid).bind fun t => s.cores[k].run.sent.map (t, ·)
  | .task tid => (s.taskOf tid).bind fun t => if t.stand = .parked then t.sent.map (t, ·) else none
  | _ => none
/-- The command that a task which has not retired has on its way. -/
def State.sentOf (s : State) (t : Task) : Option EffCmd := if t.stand = .onCore then s.cores[t.core].run.sent else t.sent
/-- The effect command a task has sent is accepted: the next one may follow (R215). -/
def State.accept (s : State) (t : Task) : State :=
  if t.stand = .onCore then (s.onCore t.core fun c => c.onRun fun r => { r with sent := none }).wake t.core
  else (s.onTask t.tid fun t => { t with sent := none }).soon
    [.dev .effectCommandSend (.task t.tid), .dev .taskRetirement (.task t.tid)]

/-- The tasks of a launch that have not retired. -/
def State.tasksOf (s : State) (n : Nat) : List Task := s.tasks.filter (·.launch == n)

end Sys2Proof.Machine
end

