-- ==== Sys2Proof/Machine/CopyShape.lean ====
section
/-! DEFINITION. Shape records and the bytes a copy moves (R181 to R184, R226, R232). -/

namespace Sys2Proof.Machine

/-- A shape record (R183): extents, present extents, strides, scales, swizzle, format code and base. -/
structure Shape where
  e0 : Nat
  e1 : Nat
  e2 : Nat
  e3 : Nat
  p0 : Nat
  p1 : Nat
  p2 : Nat
  p3 : Nat
  t1 : Int
  t2 : Int
  t3 : Int
  gen : Nat
  scales : Nat
  swz : Fin 4
  fmt : Nat
  base : Nat
  sound : Bool
  deriving DecidableEq, Repr

/-- Bits of a record as a number. -/
def recField (r : BitVec 512) (lo n : Nat) : Nat := (r.extractLsb' lo n).toNat

/-- The record of 64 bytes; sound says that it has none of the faults of R183. -/
def shapeOf (r : BitVec 512) : Shape :=
  let f := recField r
  { e0 := f 128 32, e1 := f 160 32, e2 := f 192 32, e3 := f 224 32, p0 := f 384 32, p1 := f 416 32, p2 := f 448 32, p3 := f 480 32
    t1 := (r.extractLsb' 288 32).toInt, t2 := (r.extractLsb' 320 32).toInt, t3 := (r.extractLsb' 352 32).toInt
    gen := f 112 12, scales := f 64 48, swz := Fin.ofNat 4 (f 52 2), fmt := f 48 4, base := f 0 48
    sound := f 124 4 == 0 && f 54 10 == 0 && 1 ≤ f 48 4 && f 48 4 ≤ 9 && f 256 32 == 0 &&
      (List.range 4).all fun i => f (128 + 32 * i) 32 != 0 && f (384 + 32 * i) 32 ≤ f (128 + 32 * i) 32 }

/-- Nibbles of an element by tag code (R68); RAW has no width of its own. -/
def Shape.nibbles (h : Shape) : Nat :=
  match h.fmt with
  | 1 => Config.rawNibbles
  | 2 | 3 | 9 => 8
  | 4 => 4
  | 7 => 1
  | _ => 2

/-- The row pitch P (R226). -/
def Shape.pitch (h : Shape) : Nat := 256 * ((h.e0 * h.nibbles + 511) / 512)
/-- rows (R226). -/
def Shape.rows (h : Shape) : Nat := h.e1 * h.e2 * h.e3
/-- B0 (R184, R226). -/
def Shape.blocks (h : Shape) : Nat := (h.e0 + 31) / 32
/-- Blocks of a present row that hold a present element (R184). -/
def Shape.presentBlocks (h : Shape) : Nat := (h.p0 + 31) / 32
/-- Bytes of a footprint, scale area included (R226). -/
def Shape.footprint (h : Shape) : Nat := h.pitch * h.rows + if h.scales = 0 then 0 else h.blocks * h.rows
/-- Records that fail with PERMISSION beyond R183 (R226). -/
def Shape.unfit (h : Shape) : Bool :=
  !h.sound || (h.scales != 0 && !(h.fmt == 4 || h.fmt == 5 || h.fmt == 6 || h.fmt == 7 || h.fmt == 8)) ||
    (h.fmt == 7 && (h.e0 % 2 != 0 || h.p0 % 2 != 0))

/-- The indexes (i1, i2, i3) of row r (R226). -/
def Shape.index (h : Shape) (r : Nat) : Nat × Nat × Nat := (r % h.e1, r / h.e1 % h.e2, r / (h.e1 * h.e2))
/-- A row with present elements (R184). -/
def Shape.present (h : Shape) (r : Nat) : Bool :=
  let (i1, i2, i3) := h.index r
  i1 < h.p1 && i2 < h.p2 && i3 < h.p3 && 0 < h.p0
/-- The distance of row r from the origin (R226). -/
def Shape.far (h : Shape) (r : Nat) : Int :=
  let (i1, i2, i3) := h.index r
  i1 * h.t1 + i2 * h.t2 + i3 * h.t3

/-- A 64-bit address from an exact sum. -/
def wrap64 (x : Int) : Nat := (x % 2 ^ 64).toNat
/-- Bytes of a present row. -/
def Shape.rowBytes (h : Shape) : Nat := (h.p0 * h.nibbles + 1) / 2
/-- The scratchpad byte of byte o of the data area under the record's swizzle (R181, R226). -/
def Shape.scr (h : Shape) (x o : Nat) : Nat := x + o / 256 * 256 + 32 * swzChunk h.swz.val (o / 256) (o % 256 / 32) + o % 32

/-- The bytes a copy between far memory and a scratchpad moves, in element order: (far byte, scratchpad byte), then the scale bytes
of present blocks (R184, R226). The spec gives the scales field as a global address alone: that a CPY.FAB takes it as the remote address and
a CPY.HOST as the window offset is a DESIGN CHOICE (log 105). -/
def Shape.pairs (h : Shape) (origin : Int) (x : Nat) : List (Nat × Nat) :=
  let rs := (List.range h.rows).filter h.present
  (rs.flatMap fun r => (List.range h.rowBytes).map fun b : Nat => (wrap64 (origin + h.far r + b), h.scr x (r * h.pitch + b))) ++
    if h.scales = 0 then []
    else rs.flatMap fun r => (List.range h.presentBlocks).map fun b =>
      (h.scales + h.blocks * r + b, x + h.rows * h.pitch + h.blocks * r + b)

/-- The scratchpad bytes no atom brings: missing elements and padding are zero, absent blocks hold -128 (R184, R226). -/
def Shape.fills (h : Shape) (x : Nat) : List (Nat × Byte) :=
  let n := fun r => if h.present r then h.rowBytes else 0
  let m := fun r => if h.present r then h.presentBlocks else 0
  ((List.range h.rows).flatMap fun r => (List.range (h.pitch - n r)).map fun b => (h.scr x (r * h.pitch + n r + b), 0)) ++
    if h.scales = 0 then []
    else (List.range h.rows).flatMap fun r => (List.range (h.blocks - m r)).map fun b =>
      (x + h.rows * h.pitch + h.blocks * r + m r + b, 0x80#8)

/-- Bytes gathered into atoms: neighbours in element order that share an atom move together (R189, R202). -/
def gatherAtoms : List (Nat × Nat) → List (Nat × List (Nat × Nat))
  | [] => []
  | (f, x) :: r =>
    match gatherAtoms r with
    | [] => [(f / 32, [(f % 32, x)])]
    | (a, l) :: t => if a = f / 32 then (a, (f % 32, x) :: l) :: t else (f / 32, [(f % 32, x)]) :: (a, l) :: t

/-! ### Transposed copies (R232) -/

/-- The pitch of a destination row Q (R232). -/
def Shape.tPitch (h : Shape) : Nat := 256 * ((h.e1 * h.nibbles + 511) / 512)
/-- Destination rows. -/
def Shape.tRows (h : Shape) : Nat := h.e0 * h.e2 * h.e3
/-- The nibbles a transposed copy reads: (nibble of a far byte address, nibble of the destination) (R232). -/
def Shape.tPairs (h : Shape) (origin : Int) : List (Nat × Nat) :=
  let w := h.nibbles
  ((List.range h.rows).filter h.present).flatMap fun r =>
    let (i1, i2, i3) := h.index r
    (List.range h.p0).flatMap fun i0 => (List.range w).map fun k =>
      let n := i0 * w + k
      (2 * wrap64 (origin + h.far r + (n / 2 : Nat)) + n % 2, 2 * h.tPitch * (i0 + h.e0 * (i2 + h.e2 * i3)) + i1 * w + k)
/-- Nibbles gathered into atoms. -/
def gatherNibbles : List (Nat × Nat) → List (Nat × List (Nat × Nat))
  | [] => []
  | (f, x) :: r =>
    match gatherNibbles r with
    | [] => [(f / 64, [(f % 64, x)])]
    | (a, l) :: t => if a = f / 64 then (a, (f % 64, x) :: l) :: t else (f / 64, [(f % 64, x)]) :: (a, l) :: t

/-! ### Spills and fills (R132, R133) -/

/-- The bytes of a register's executed lanes. -/
def spillLanes (g : Word) : List Nat := (execLanes g).flatMap fun l => (List.range 4).map fun b => 4 * l + b
/-- The bytes of a spill or a fill in the order of its memory image: (byte in memory, byte of the image); the trailer bytes of the
image follow the registers. -/
def Cmd.imagePairs (m : Cmd) : List (Nat × Nat) :=
  let n := m.regs.length
  (((List.range n).flatMap fun r => (spillLanes m.guard).map fun b => 256 * r + b) ++ (List.range n).map fun r => 256 * n + r).map
    fun i => (m.a.toNat + i, i)
/-- The byte of a spill's image: a register's, as it stood at issue, or the code of its tag. -/
def Cmd.imageByte (m : Cmd) (i : Nat) : Byte :=
  let n := m.regs.length
  if i < 256 * n then ((m.regs[i / 256]?).map fun r => r.2.bits.extractLsb' (8 * (i % 256)) 8).getD 0
  else ((m.regs[i - 256 * n]?).map fun r => BitVec.ofNat 8 r.2.tag.code).getD 0

/-- The atoms of a command that have not started, from what each moves (R189). -/
def toAtoms (r : Role) (write : Bool) (l : List (Nat × List (Nat × Nat))) : List Atom :=
  l.map fun p => ⟨r, 32 * p.1, 0, 0, write, true, p.2, [], false, 0, 0, false, false, false, 0, false⟩

/-- The padding of an inbound copy put with its atoms: that of a unit of 32 scratchpad bytes goes with the last atom that brings bytes of the
unit, and a unit that takes padding alone is written on its own (R202, R226). -/
def padAtoms (l : List Atom) (fills : List (Nat × Byte)) : List Atom :=
  let last (u : Nat) : Option Nat := ((l.zipIdx.filter fun p => p.1.moves.any (·.2 / 32 == u)).getLast?).map (·.2)
  let pads (u : Nat) : List (Nat × Byte) := fills.filter (·.1 / 32 == u)
  let units := distinct (fills.map (·.1 / 32))
  (units.foldl (fun (r : List Atom) u => match last u with
    | some i => r.modify i fun a => { a with pads := a.pads ++ pads u }
    | none => r) l) ++
    (units.filter fun u => (last u).isNone).map fun u => ⟨.fill, 0, 0, 0, false, true, [], pads u, false, 0, 0, false, false, false, 0, false⟩

/-- The bytes that an atom puts into the scratchpad: those it moves, then the padding that goes with them (R202, R226). -/
def Atom.lands (a : Atom) : List (Nat × Byte) := a.moves.map (fun p => (p.2, a.data.extractLsb' (8 * p.1) 8)) ++ a.pads
/-- Where the bytes of an atom begin in the stacks: in the pseudo-channel it was placed on (R187). -/
def Atom.cell (a : Atom) : Nat := cellAt a.chan a.dpa

end Sys2Proof.Machine
end

