-- ==== Sys2Proof/Machine/Rings.lean ====
section
/-! DEFINITION. Ring commands (R178 to R180, R237, R238). -/

namespace Sys2Proof.Machine

/-- A ring written. -/
def Core.setRing (c : Core) (h : RingId) (r : Option Ring) : Core := c.onCtx fun x => { x with h := x.h.set h r }
/-- A region's change to a ring, to be undone by a trap (R41). -/
def Core.ringUndo (c : Core) (u : RingUndo) : Core := c.onRegion fun r => { r with rings := u :: r.rings }

/-- An empty ring, for reading the fields of one that is not configured. -/
def Ring.none : Ring := ⟨0, 0, 0, 0, 0, 0, 0, 0, [], []⟩
/-- The ring of a number. -/
def Core.ring (c : Core) (h : RingId) : Ring := c.ctx.h[h].getD Ring.none

/-- n stamps from a position onwards, wrapping at the slot count. -/
def setStamps (l : List (Fin 4)) (count pos : Nat) (z : Fin 4) : Nat → List (Fin 4)
  | 0 => l
  | n + 1 => setStamps (l.set (pos % count) z) count (pos + 1) z n

/-- A wait on a ring: its faults, then a freeze under cause 1 until the count suffices (R180, R237). -/
def Core.ringWait (c : Core) (h : RingId) (n : Nat) (have_ : Nat) : Core :=
  c.checked 3 [(c.ctx.h[h].isNone, .ringConfig), (n > (c.ring h).count, .bounds)] fun c =>
    if have_ ≥ n then c else c.freeze 1
/-- RWAIT (R237); the field holds the count minus one. -/
def execRwait (g : PReg) (h : RingId) (n : Fin 64) (s : State) : Out := s.syl g fun c => c.ringWait h (n.val + 1) (c.ring h).fill
/-- RFREE (R237). -/
def execRfree (g : PReg) (h : RingId) (n : Fin 64) (s : State) : Out := s.syl g fun c => c.ringWait h (n.val + 1) (c.ring h).free

/-- The producer pointer advanced by n over slots stamped z (R179). -/
def Ring.advp (r : Ring) (n : Nat) (z : Fin 4) : Ring :=
  { r with prod := (r.prod + n) % r.count, free := r.free - n, fill := r.fill + n, stamps := setStamps r.stamps r.count r.prod z n }
/-- The consumer pointer advanced by n (R180). -/
def Ring.advc (r : Ring) (n : Nat) : Ring :=
  { r with cons := (r.cons + n) % r.count, fill := r.fill - n, free := r.free + n }

/-- RADVP (R179, R237). -/
def execRadvp (g : PReg) (h : RingId) (z : Fin 4) (n : Fin 64) (s : State) : Out :=
  s.csyl g (fun c => [(c.ctx.h[h].isNone || (c.ring h).reserved != 0, .ringConfig),
      (n.val + 1 > (c.ring h).count || (c.ring h).free < n.val + 1, .bounds)]) fun c =>
    (c.ringUndo (.advp h (n.val + 1) (c.ring h).stamps)).setRing h (some ((c.ring h).advp (n.val + 1) z))
/-- RADVC (R180, R237). -/
def execRadvc (g : PReg) (h : RingId) (n : Fin 64) (s : State) : Out :=
  s.csyl g (fun c => [(c.ctx.h[h].isNone, .ringConfig),
      (n.val + 1 > (c.ring h).count || (c.ring h).fill < n.val + 1, .bounds)]) fun c =>
    (c.ringUndo (.advc h (n.val + 1))).setRing h (some ((c.ring h).advc (n.val + 1)))

/-- The bytes of a ring. -/
def Ring.bytes (r : Ring) : Nat := 256 * r.size * r.count
/-- A new ring from the word of RSET (R178, R238). -/
def ringOf (a : Word) : Ring :=
  let count := (a.extractLsb' 32 6).toNat + 1
  ⟨(a.extractLsb' 0 22).toNat, (a.extractLsb' 22 8).toNat + 1, count, count, 0, 0, 0, 0, List.replicate count 0,
    List.replicate count false⟩
/-- Two extents meet. -/
def overlaps (a n b m : Nat) : Bool := a < b + m && b < a + n
/-- What RSET refuses with RING-CONFIG (R178, R238). -/
def Core.rsetBad (c : Core) (h : RingId) (a : Word) : Bool :=
  let r := ringOf a
  a.extractLsb' 38 26 != 0 || a.extractLsb' 30 2 != 0 || r.base % 256 != 0 || r.base + r.bytes > c.granted ||
    (c.ring h).reserved != 0 ||
    (List.finRange 16).any fun k => k != h && (match c.ctx.h[k] with
      | some q => overlaps r.base r.bytes q.base q.bytes
      | none => false)
/-- RSET with imm8 0 configures a ring (R178, R238). -/
def execRset (g : PReg) (h : RingId) (a : SReg) (s : State) : Out :=
  s.csyl g (fun c => [(c.rsetBad h (c.s a), .ringConfig)]) fun c =>
    (c.ringUndo (.set h c.ctx.h[h])).setRing h (some (ringOf (c.s a)))
/-- RSET with imm8 1 unconfigures a ring (R238). -/
def execRsetUnconfigure (g : PReg) (h : RingId) (s : State) : Out :=
  s.csyl g (fun c => [((c.ring h).reserved != 0, .ringConfig)]) fun c => (c.ringUndo (.set h c.ctx.h[h])).setRing h none

end Sys2Proof.Machine
end

