-- ==== Sys2Proof/Machine/CopyEngine.lean ====
section
/-! DEFINITION. The copy engines: starts, walks, transfers and completions (R132 to R134, R182, R185, R189, R193, R197, R200, R206, R214,
R226 to R233, R250, R268, R297 to R301, R319, R337, R351). -/

namespace Sys2Proof.Machine

/-! ### Commands of a core -/

/-- The command of a number. -/
def Core.cmdOf (c : Core) (id : Nat) : Option Cmd := c.run.copies.find? (·.id == id)
/-- A command updated. -/
def Core.onCmd (c : Core) (id : Nat) (f : Cmd → Cmd) : Core :=
  c.onRun fun r => { r with copies := r.copies.map fun m => if m.id = id then f m else m }
/-- A command as it has become. -/
def State.setCmd (s : State) (k : CoreId) (m : Cmd) : State := s.onCore k fun c => c.onCmd m.id fun _ => m
/-- The earlier commands of a command's queue. -/
def Core.ahead (c : Core) (m : Cmd) : List Cmd := c.run.copies.filter fun k => k.id < m.id && k.queue.isSome && k.queue == m.queue
/-- A region that has not committed, up to a bound. -/
def Core.uncommitted (c : Core) (p : Nat → Bool) : Bool := c.run.regions.any fun r => p r.id
/-- A region that a trap under way returns to its head or discards (R42, R321). -/
def Core.doomed (c : Core) (region : Nat) : Bool := c.run.phase == .trapping && (c.run.trap.bind (·.region)).any (· ≤ region)

/-- The scratchpad bytes that an atom of a copy other than a CPY.T reads or writes, padding among them (R226). -/
def Atom.bytes (a : Atom) : List Nat := a.moves.map (·.2) ++ a.pads.map (·.1)
/-- A command has yet to write a byte of the scratchpad of a task. served says that bytes of a read that has been served count as written: its
data follows at a fixed time (R189). -/
def Cmd.willWrite (m : Cmd) (tid : Word) (served : Bool) (b : Nat) : Bool :=
  match m.kind with
  | .cin | .rin => m.atoms.any fun a => !a.done && !(served && a.role == .bytes && a.served) && a.bytes.contains b
  | .peer | .mc => m.atoms.any fun a => !a.done && a.dpa == tid.toNat && a.bytes.contains b
  | _ => false
/-- A command has atoms that its engine has not started. -/
def Cmd.starting (m : Cmd) : Bool := m.phase == .waiting || !m.planned || m.walk.isSome || m.atoms.any (!·.started)
/-- The earlier commands of its queue have yet to write a scratchpad byte that an atom reads or writes, so that its queue does not let its
engine start it (R189, R214, R227). A byte of a read that has been served counts as written for a later read, whose data follows at a fixed
time; not for one that has nothing to be read: log 60. -/
def Core.startHeld (c : Core) (m : Cmd) (a : Atom) : Bool :=
  m.kind != .tr && (c.ahead m).any fun q => a.bytes.any (q.willWrite c.ctx.x.tid (!a.write && a.role == .bytes))
/-- A command with nothing outstanding: every atom served and written. -/
def Cmd.settled (m : Cmd) : Bool := m.phase == .running && m.planned && m.walk.isNone && m.atoms.all (·.done)
/-- An atom of a command updated. -/
def Cmd.onAtom (m : Cmd) (i : Nat) (f : Atom → Atom) : Cmd := { m with atoms := m.atoms.modify i f }
/-- A command has failed in a way that stops it (R228). -/
def Cmd.stopped (m : Cmd) : Bool := failRank (m.status &&& 0xF) > 2

/-- The start rule of a copy (R206, R214, R227). Nothing of a region that a trap discards starts (R321). -/
def Core.mayStart (c : Core) (m : Cmd) : Bool :=
  m.phase == .waiting && !(c.ahead m).any (·.phase == .waiting) && !c.doomed m.region &&
    !(m.after.any fun i => c.run.copies.any (·.id == i)) &&
    match m.kind with
    | .inx | .spill => true
    | .cin | .rin | .peer | .fill => m.waits.isEmpty && !c.uncommitted (· < m.region)
    | .tr => m.waits.isEmpty && !c.uncommitted (· ≤ m.region)
    | .out | .mc | .fab | .host => !c.uncommitted (· ≤ m.region)

/-! ### Faults of engines (R319, R351) -/

/-- A fault that reaches a core from outside its issue. One of a region that has not committed traps that region, unless an earlier one
traps already. Any other is held: while the core runs it is taken against the current region at the clock at which the next bundle could
issue, and otherwise as R351 says. -/
def Core.asyncFault (c : Core) (t : Trap) : Core :=
  let mine := (t.region.map fun i => c.run.regions.any (·.id == i)).getD false
  if c.run.phase == .idle then c
  else if !mine then c.onRun fun r => { r with held := r.held ++ [t] }
  else match c.run.phase, c.run.trap.bind (·.region), t.region with
    | .trapping, some a, some b => if b < a then c.onRun fun r => { r with trap := some t } else c
    | .trapping, _, _ => c
    | _, _, _ => c.onRun fun r => { r with phase := .trapping, trap := some t }
/-- A held fault is taken against the current region (R319, R351). -/
def Core.takeHeld (c : Core) (t : Trap) (rest : List Trap) : Core :=
  let c := if c.run.openNext then c.openRegion none else c
  c.onRun fun r => { r with held := rest, phase := .trapping, trap := some { t with region := r.regions.head?.map (·.id) } }

/-- STALE-HANDLE of a command, with its status word (R182, R319, R323). -/
def Core.staleHandle (c : Core) (m : Cmd) : Core :=
  c.asyncFault ⟨.staleHandle, 0, m.bundle, some m.region, some m.head, 0, m.index, m.status, .normal⟩

/-! ### Owned writes -/

/-- Where an atom of a shape record has been read by now: on an owned page once it has been served, on a logged one from its command's start
on, which settles what it reads there (R201, R206). -/
def State.readAt (s : State) (k : CoreId) (m : Cmd) (a : Atom) : Option Nat :=
  if a.started then (if a.served || !a.owned then some a.dpa else none)
  else match s.resolve (s.spaceOn k) m.priv .read a.va with
    | .ok p => if p.logged then some p.dpa else none
    | .error _ => none
/-- The commands whose shape record, under way, has been read in part from bytes of HBM that a write touches. -/
def State.readings (s : State) (dpa n : Nat) : List (CoreId × Nat) :=
  (List.finRange 384).flatMap fun k => (s.cores[k].run.copies.filter fun m =>
    m.atoms.any fun a => a.role == .record && (s.readAt k m a).any fun p => dpa < p + 32 && p < dpa + n).map fun m => (k, m.id)
/-- Shape records that a write touches are dropped from the engine caches, those under way among them (R250). -/
def State.dropRecords (s : State) (dpa n : Nat) : State :=
  (s.readings dpa n).foldl (fun s x => s.setDropped x true)
    { s with sites := s.sites.map fun t => { t with records := t.records.filter fun r => !(dpa < r.dpa + 64 && r.dpa < dpa + n) } }

/-- A group still has a sibling that has not retired (R268). -/
def State.groupLive (s : State) (g : Group) : Bool := (!g.placed && !g.failed) || s.tasks.any (·.group == g.handle)

/-- A write by a task of a launch into a prompt extent of the launch, or by any task of a space into an arena of the space that is not its
own (R268). Appends are held off from prompts alone. -/
def State.guarded (s : State) (sp : Space) (tid : Word) (va : Nat) (owned : Bool) : Bool :=
  s.groups.any fun g => s.groupLive g &&
    ((g.launch == launchNo tid && g.prompt ≤ va && va < g.prompt + g.length) ||
      (owned && (s.launchOf g.launch).any (fun l => l.space.tag == sp.tag && l.space.root == sp.root) && (List.range g.n).any fun k =>
        let base := (g.arena + k * g.stride.toNat) % 2 ^ 64
        base ≤ va && va < base + g.stride.toNat && tid != BitVec.ofNat 64 (g.launch * 65536 + 0x8000 +
          64 * (g.handle.extractLsb' 8 9).toNat + k)))

/-! ### The start of atoms (R189, R228, R250) -/

/-- Why an engine starts no more atoms of a command for now: all have started; what comes first has not happened; the next page is to be
translated at a later clock, or its leaf is not held; or the command stops. -/
inductive Pause where
  | done | held
  | until (t : Nat)
  | walk (va : Nat)
  | stop (status : Word)
  deriving DecidableEq, Repr

/-- What the replay of a command's view starts from: what folding has replaced since its start, else the home copy (R207). -/
def Cmd.home (m : Cmd) (h : Mem) (dpa : Nat) : Byte := (pairGet m.kept dpa).getD (memGet h dpa)
/-- An atom placed by a leaf and started; one of a logged page takes its bytes from the command's view (R206). -/
def State.startAtom (s : State) (m : Cmd) (leaf : Nat × Word) (a : Atom) : Atom :=
  let p := placeOf s.hpat leaf.1 leaf.2 a.va
  { a with
    dpa := p.dpa, chan := p.chan, owned := !p.logged, started := true, start := m.clock.1
    data := if p.logged then BitVec.ofNat 256 (viewBytes m.recs (fun d => m.home s.hbm (cellOf p.pat d)) a.va p.dpa 32) else 0 }
/-- 32 atoms start in a clock (R189). -/
def Cmd.tick (m : Cmd) : Cmd := { m with clock := if m.clock.2 < 31 then (m.clock.1, m.clock.2 + 1) else (m.clock.1 + 1, 0) }

/-- The engine starts atoms in order. A page is translated with the first atom on it, by the leaf its site holds, and checked for what each
atom does there; a write is also kept off prompts and foreign arenas, byte by byte (R189, R228, R268, R299). A unit of padding alone has
nothing to be read (R226). That the writes of a CPY.T start only once all its reads are written, which R250 does not say, is a DESIGN CHOICE
(log 108). -/
def State.startAtoms (s : State) (site : Fin 48) (sp : Space) (tid : Word) (ready : Bool) (held : Atom → Bool) (m : Cmd) : List Atom → Cmd × List Atom × Pause
  | [] => (m, [], .done)
  | a :: r =>
    let go (m : Cmd) (leaf : Nat × Word) : Cmd × List Atom × Pause :=
      match leafDenies leaf.2 m.priv (if a.write then .write else .read) with
      | some x => (m, a :: r, .stop x)
      | none =>
        if a.write && a.moves.any (fun p => s.guarded sp tid (a.va + p.1) true) then (m, a :: r, .stop stPermission)
        else
          let x := s.startAtoms site sp tid ready held m.tick r
          (x.1, s.startAtom m leaf a :: x.2.1, x.2.2)
    if a.started then
      let x := s.startAtoms site sp tid ready held m r
      (x.1, a :: x.2.1, x.2.2)
    else if held a then (m, a :: r, .held)
    else if a.role == .fill then
      let x := s.startAtoms site sp tid ready held m r
      (x.1, { a with started := true, start := m.clock.1, served := true, done := m.kind.exact } :: x.2.1, x.2.2)
    else if m.kind == .tr && a.write && !ready then (m, a :: r, .held)
    else
      match pairGet m.pages (a.va / 65536) with
      | some leaf => go m leaf
      | none =>
        if s.now < m.clock.1 then (m, a :: r, .until m.clock.1)
        else match s.sites[site].held sp a.va with
          | none => (m, a :: r, if a.va < 2 ^ 48 then .walk a.va else .stop stTranslation)
          | some leaf => go { m with pages := (a.va / 65536, leaf) :: m.pages } leaf

/-- The clock before which a command starts no atom: those of one queue start in order (R189). -/
def Core.firstClock (c : Core) (m : Cmd) (now : Nat) : Nat :=
  (c.ahead m).foldl (fun t k => k.atoms.foldl (fun t a => max t a.start) t) now

/-- A command that has nothing outstanding completes: that of a copy on no calendar reaches its core over the crossing from the site's fabric
(R347), that of another with its last atom (R189). -/
def State.completes (s : State) (k : CoreId) (m : Cmd) : State :=
  let d : Due := .dev .copyCompletion (.cmd k m.id)
  if m.kind.offCalendar then s.cross k 7 d else s.soon [d]
/-- The engines look again at what comes next: a command whose record or transfer is still to come, or the completion of one that has
nothing outstanding; a CPY.INX, a spill and a fill complete in a cycle of their own. That a stale CPY.INX completes at its start (R182, R228)
and not in cycle t + 1,023 (R229) is a DESIGN CHOICE (log 69). -/
def State.goOn (s : State) (k : CoreId) (m : Cmd) : State :=
  let next := (s.cores[k].run.copies.filter fun q => m.id < q.id && q.queue.isSome && q.queue == m.queue && q.phase == .running &&
    q.starting).map fun q => Due.dev .copyStart (.cmd k q.id)
  (if m.settled && (m.stale || !m.kind.exact) then s.completes k m else s).soon (next.take 1)

/-- A command stops with a failure: what has not started never does (R228). -/
def State.halt (s : State) (k : CoreId) (m : Cmd) (status : Word) : State :=
  let m := { m with planned := true, halted := true, walk := none, atoms := m.atoms.filter (·.started), status := addFail m.status status }
  (s.setCmd k m).goOn k m

/-- The entry that a walk reads, as an atom of the command that needs it (R297). Tables have no pattern: HPAT0. -/
def Walk.atom (w : Walk) (now : Nat) : Atom :=
  let a := entryAt w.table w.level w.va
  ⟨.entry, a, a / 32 * 32, chanOf 0 a, false, true, [], [], true, now, 0, false, false, false, 0, false⟩
/-- A command walks: its next entry is read. -/
def Cmd.walks (m : Cmd) (w : Walk) (now : Nat) : Cmd := { m with walk := some w, atoms := m.atoms ++ [w.atom now] }

/-- The units of padding alone that a command has just started: they are written after a time that is not fixed (R226, R250). -/
def newFills (old new : List Atom) : List Nat :=
  (new.zipIdx.filter fun p => p.1.role == .fill && p.1.started && !p.1.done && (old[p.2]?).any (!·.started)).map (·.2)
/-- A running command starts what atoms it can, after the commands before it in its queue. -/
def State.runCmd (s : State) (k : CoreId) (m : Cmd) : State :=
  let c := s.cores[k]
  if m.phase != .running || m.halted || m.walk.isSome || (c.ahead m).any (·.starting) then s.setCmd k m
  else
    let site := siteOf k
    let sp := s.spaceOn k
    let t := c.firstClock m s.now
    let m := if m.clock.1 < t then { m with clock := (t, 0) } else m
    let r := s.startAtoms site sp c.ctx.x.tid (m.atoms.all fun a => a.write || a.done) (c.startHeld m) m m.atoms
    let s := (newFills m.atoms r.2.1).foldl (fun (s : State) i => s.later (.dev .readAtomWrite (.atom k m.id i))) s
    let m := { r.1 with atoms := r.2.1 }
    match r.2.2 with
    | .done => (s.setCmd k m).goOn k m
    | .held => s.setCmd k m
    | .until t => (s.setCmd k m).atClock t (.dev .copyStart (.cmd k m.id))
    | .walk va => s.setCmd k (m.walks (s.sites[site].walkOf sp va) s.now)
    | .stop x => s.halt k m x

/-! ### A command laid out (R182, R226 to R233) -/

/-- A task on a core holds n bytes from a scratchpad address (R174, R231). -/
def State.coreCovers (s : State) (k : CoreId) (launch : Nat) (x n : Nat) : Bool :=
  let c := s.cores[k]
  c.busy && launchNo c.ctx.x.tid == launch && x + n ≤ c.granted &&
    s.tasks.any fun t => t.tid == c.ctx.x.tid && t.stand == .onCore

/-- The core a field [26:24] names within a site (R231). -/
def siteCoreOf (k : CoreId) (n : Nat) : CoreId := Fin.ofNat 384 (k.val / 8 * 8 + n % 8)
/-- The cores of a multicast mask (R231). -/
def maskCores (k : CoreId) (mask : Nat) : List CoreId :=
  ((List.range 8).filter fun i => mask / 2 ^ i % 2 == 1).map (siteCoreOf k)

/-- The scratchpad address of a command's own side. -/
def Cmd.scrAddr (m : Cmd) (c : Core) : Nat :=
  match m.kind with
  | .out | .fab | .host => m.a.toNat
  | .rin => (m.ring.map fun r => (c.ring r.1).base + 256 * (c.ring r.1).size * r.2).getD 0
  | .mc => (m.b.extractLsb' 0 22).toNat
  | _ => m.b.toNat

/-- The units in which a peer copy or a multicast of n bytes reaches the scratchpad of a task from an address (R202, R231). -/
def unitsTo (tid : Word) (n x now : Nat) : List Atom :=
  (List.range ((n + 31) / 32)).map fun i =>
    ⟨.bytes, 32 * i, tid.toNat, 0, true, true, (List.range (min 32 (n - 32 * i))).map fun j => (j, x + 32 * i + j), [], true, now, 0, false, true, false, 0, false⟩
/-- The atoms of what leaves the device: they are on no calendar (R200, R233). -/
def outside (now : Nat) (l : List Atom) : List Atom := l.map fun a => { a with started := true, start := now, served := true }

/-- A command laid out by its shape record: its checks and its atoms, none started; none where it fails with PERMISSION (R200, R226,
R230 to R233). A faulty record is tested before an empty mask of a CPY.MC: DESIGN CHOICE (log 106). -/
def State.shaped (s : State) (k : CoreId) (m : Cmd) (h : Shape) : Option Cmd :=
  let c := s.cores[k]
  let l := launchNo c.ctx.x.tid
  let x := m.scrAddr c
  let n := h.footprint
  let fits := x + n ≤ c.granted
  let far (b : Word) : Int := (h.base : Int) + b.toInt
  let src := siteCoreOf k (m.a.extractLsb' 24 3).toNat
  let covered := s.coreCovers src l (m.a.extractLsb' 0 22).toNat n
  let m := { m with planned := true, swz := h.swz }
  if h.unfit then none
  else match m.kind with
    | .cin | .inx | .rin =>
      if !fits || (m.kind == .rin && m.ring.any fun r => n > 256 * (c.ring r.1).size) then none
      else some { m with atoms := padAtoms (toAtoms .bytes false (gatherAtoms (h.pairs (far m.a) x))) (h.fills x) }
    | .out => if !fits then none else some { m with atoms := toAtoms .bytes true (gatherAtoms (h.pairs (far m.b) x)) }
    | .tr =>
      let out := (List.range (h.tPitch * h.tRows)).map fun i => (m.b.toNat + i, i)
      if h.scales != 0 then none
      else some { m with atoms := toAtoms .bytes false (gatherNibbles (h.tPairs (far m.a))) ++ toAtoms .bytes true (gatherAtoms out) }
    | .peer =>
      if !fits || !covered then none
      else some { m with size := n, source := s.cores[src].ctx.x.tid, atoms := unitsTo c.ctx.x.tid n x s.now }
    | .mc =>
      let qs := maskCores k (m.b.extractLsb' 24 8).toNat
      if qs.isEmpty then some m
      else if !covered || !(qs.all fun q => s.coreCovers q l x n) then none
      else some { m with
        size := n, source := s.cores[src].ctx.x.tid, atoms := qs.flatMap fun q => unitsTo s.cores[q].ctx.x.tid n x s.now }
    | .fab | .host =>
      let ps := h.pairs (m.b.extractLsb' 0 48).toNat x
      let outside_ (a : Word) (n : Nat) : Bool := match s.hostAddr a n with
        | .ok _ => false
        | .error _ => true
      let bad := m.kind == .host && (outside_ m.b 0 ||
        ps.any fun p => p.1 ≥ 2 ^ 48 || outside_ (m.b.extractLsb' 48 16 ++ BitVec.ofNat 48 p.1 : BitVec 64) 1)
      if !fits || bad then none else some { m with atoms := outside s.now (toAtoms .bytes true (gatherAtoms ps)) }
    | .spill | .fill => some m

/-- What a laid-out command does next: the units of a peer copy and what leaves the device cross to the site's fabric, and then take a time
that is not fixed (R347, R353). -/
def State.launchCmd (s : State) (k : CoreId) (m : Cmd) (held : Bool) : State :=
  let s := s.setCmd k m
  match m.kind with
  | .peer | .mc => if m.atoms.isEmpty then s.goOn k m else (s.cross k 0 (.dev .peerCopyTransfer (.cmd k m.id))).goOn k m
  | .fab | .host => if m.atoms.isEmpty then s.goOn k m else (s.cross k 0 (.dev .copyCompletion (.cmd k m.id))).goOn k m
  | _ => if held then s.runCmd k m else s.later (.dev .copyStart (.cmd k m.id))

/-- A command's record is there (R182, R226): it is laid out, fails, or is stale. held says that the record needed no reading: else its
atoms start later by an amount that is not fixed (R250). -/
def State.planCmd (s : State) (k : CoreId) (m : Cmd) (bits : BitVec 512) (held : Bool) : State :=
  let h := shapeOf bits
  let m := { m with swz := h.swz }
  if h.gen != (m.handle.extractLsb' 20 12).toNat then
    let m := { m with planned := true, stale := true, atoms := [] }
    (s.setCmd k m).goOn k m
  else match s.shaped k m h with
    | none => s.halt k { m with atoms := [] } stPermission
    | some m => s.launchCmd k m held

/-- A record read is held, and the most recent; the engines of a site hold 64 (R250). -/
def Site.keep (t : Site) (r : ShapeLine) : Site :=
  { t with records := (r :: t.records.filter fun q => !(q.tag == r.tag && q.root == r.root && q.va == r.va)).take 64 }

/-- A command starts: its view is taken (R206), and its record, if its site does not hold it, is read by atoms of its own (R182, R250). A
spill or a fill needs none. -/
def State.startCmd (s : State) (k : CoreId) (m : Cmd) : State :=
  let tid := s.cores[k].ctx.x.tid
  let site := siteOf k
  let sp := s.spaceOn k
  let shapes := ((s.launchOn k).map (·.lrec.shapes)).getD 0
  let va := shapes + 64 * (m.handle.extractLsb' 0 20).toNat
  let m := { m with
    phase := .running, clock := (s.cores[k].firstClock m s.now, 0)
    recs := match s.taskOf tid with
      | some t => s.replay tid (s.viewOf t m.hole)
      | none => [] }
  let s := s.soon [devCore .copyStart k]
  if m.kind.moves then
    s.runCmd k { m with planned := true, atoms := toAtoms .bytes (m.kind == .spill) (gatherAtoms m.imagePairs) }
  else if shapes = 0 then
    let m := { m with planned := true, stale := true }
    (s.setCmd k m).goOn k m
  else match s.sites[site].records.find? fun r => r.isOf sp && r.va == va with
    | some r => ({ s with sites := s.sites.set site (s.sites[site].keep r) } : State).planCmd k m r.bits true
    | none => s.runCmd k { m with atoms := toAtoms .record false [(va / 32, []), (va / 32 + 1, [])] }

/-- COPY_START (R189, R227): with a core, the first command whose start rule holds starts; with a command, it starts more of its atoms. -/
def execCopyStart (s : State) : Out :=
  match s.arg with
  | .core k =>
    match s.cores[k].run.copies.find? s.cores[k].mayStart with
    | some m => .next (s.startCmd k m)
    | none => .next s
  | .cmd k id =>
    match s.cores[k].cmdOf id with
    | some m => .next (s.runCmd k m)
    | none => .next s
  | _ => .next s

/-! ### Bytes in and out of the scratchpad -/

/-- Bytes put into the core's scratchpad (R219). -/
def Core.putBytes (c : Core) (l : List (Nat × Byte)) : Core :=
  l.foldl (fun c p => { c with sram := c.sram.poke (c.ctx.phys p.1) p.2 }) c
/-- The poison bits of lines, by logical number, set or cleared. -/
def Core.putPoison (c : Core) (l : List Nat) (v : Bool) : Core :=
  l.foldl (fun c n => { c with sram := { c.sram with poison := setPut c.sram.poison (c.ctx.phys (256 * n) / 256) v } }) c
/-- Lines that bytes reach. -/
def linesOf (l : List Nat) : List Nat := distinct (l.map (· / 256))

/-- Bytes that reach lines counted (R226): unpoisoned ones line by line; a line that takes poisoned ones is not cleared any more (R197). -/
def Cmd.tally (m : Cmd) (bad : Bool) (lines : List Nat) : Cmd :=
  if bad then { m with bad := lines.foldl setInsert m.bad } else { m with got := lines.foldl bump m.got }
/-- A line has received all 256 of its bytes from unpoisoned data. -/
def Cmd.wholeLine (m : Cmd) (n : Nat) : Bool := pairGet m.got n == some 256 && !m.bad.contains n
/-- The poison bits of lines after bytes of a command have reached them. -/
def Cmd.markLines (m : Cmd) (c : Core) (bad : Bool) (lines : List Nat) : Core :=
  if bad then c.putPoison lines true else c.putPoison (lines.filter m.wholeLine) false

/-- Nibbles staged by a transposed copy (R232). -/
def stageNibbles (st : Mem) (data : BitVec 256) (l : List (Nat × Nat)) : Mem :=
  l.foldl (fun m p => memSet m p.2 ((data.extractLsb' (4 * p.1) 4).setWidth 8)) st

/-- The bytes of a read atom reach the scratchpad, or the staging of a CPY.T; those of a CPY.INX and of a fill are held (R189, R226,
R229). -/
def State.bring (s : State) (k : CoreId) (m : Cmd) (a : Atom) : State :=
  match m.kind with
  | .cin | .rin =>
    let l := a.lands
    let m := m.tally a.bad (l.map (·.1 / 256))
    (s.onCore k fun c => m.markLines (c.putBytes l) a.bad (linesOf (l.map (·.1)))).setCmd k m
  | .tr => s.setCmd k { m with stage := stageNibbles m.stage a.data a.moves }
  | _ => s.setCmd k m

/-- The atoms of a spill or a fill on a page of 64 KiB whose walk meets a poisoned page: which bytes they are is unspecified, so a fill takes
unspecified data, and a spill's go nowhere (R197, R336): log 98. -/
def Cmd.lose (m : Cmd) (page draw : Nat) : Cmd :=
  { m with atoms := m.atoms.mapIdx fun j a =>
      if !a.started && a.va / 65536 = page then
        { a with started := true, served := true, done := true, bad := true, data := Config.freeBits 256 draw (j + 2) }
      else a }
/-- A walk's entry is there (R297, R299, R301): it is held; the walk goes on, fails, or the command starts its atoms, later by an amount
that is not fixed (R250). A walk of which a shootdown has dropped an entry since it was read begins again (R302). An entry in a poisoned
page fails a copy with POISON (R197); a spill or a fill goes on, since an HBM page raises no trap (R336). -/
def State.walked (s : State) (k : CoreId) (m : Cmd) (a : Atom) (i : Nat) : State :=
  match m.walk with
  | none => s.setCmd k m
  | some w =>
    let e := a.data.extractLsb' (8 * (a.va % 32)) 64
    let m := { m with walk := none, atoms := m.atoms.take i }
    if s.isDropped (k, m.id) then
      (s.setDropped (k, m.id) false).setCmd k (m.walks (s.sites[siteOf k].walkOf (s.spaceOn k) w.va) s.now)
    else if a.bad && m.kind.moves then (s.setCmd k (m.lose (w.va / 65536) s.free)).later (.dev .copyStart (.cmd k m.id))
    else if a.bad then s.halt k m stPoison
    else
      let hold (s : State) : State :=
        { s with sites := s.sites.set (siteOf k) (s.sites[siteOf k].hold (s.spaceOn k) w e) }
      match seenAt w.level e with
      | .bad => s.halt k m stTranslation
      | .table next => (hold s).setCmd k (m.walks ⟨w.va, w.level + 1, next⟩ s.now)
      | .leaf => ((hold s).setCmd k m).later (.dev .copyStart (.cmd k m.id))

/-- An atom of a shape record is there: with both of them the command is laid out, and the record held, unless a write has touched it since it
was read (R182, R250). A record in a poisoned page fails its command (R197). -/
def State.recorded (s : State) (k : CoreId) (m : Cmd) : State :=
  if m.halted || !(m.atoms.all (·.done)) then (s.setCmd k m).goOn k m
  else
    match m.atoms with
    | a :: b :: _ =>
      if a.bad || b.bad then s.halt k { m with atoms := [] } stPoison
      else
        let r : ShapeLine := ⟨(s.spaceOn k).tag, (s.spaceOn k).root, a.va, a.dpa, b.data ++ a.data⟩
        let t : State := if s.isDropped (k, m.id) then s.setDropped (k, m.id) false
          else { s with sites := s.sites.set (siteOf k) (s.sites[siteOf k].keep r) }
        t.planCmd k { m with atoms := [] } r.bits false
    | _ => s.setCmd k m

/-- The next command of a queue that has atoms to start looks whether it may, once one before it has been served or has written. -/
def Core.nextStart (c : Core) (k : CoreId) (m : Cmd) : List Due :=
  ((c.run.copies.filter fun q => m.id < q.id && q.queue.isSome && q.queue == m.queue && q.phase == .running && q.planned && q.starting).take 1).map
    fun q => .dev .copyStart (.cmd k q.id)
/-- READ_ATOM_WRITE (R189): the data of a read atom reaches where it goes at the end of clock S + 523. -/
def execReadAtomWrite (s : State) : Out :=
  match s.arg with
  | .atom k id i =>
    match s.cores[k].cmdOf id with
    | none => .next s
    | some m =>
      match m.atoms[i]? with
      | none => .next s
      | some a =>
        let m := m.onAtom i fun a => { a with done := true }
        match a.role with
        | .entry => .next (s.walked k m a i)
        | .record => .next (s.recorded k m)
        | .bytes | .fill =>
          let s := s.bring k m a
          let m := (s.cores[k].cmdOf id).getD m
          let ready := m.kind == .tr && !m.halted && m.atoms.all fun a => a.write || a.done
          .next (s.first ((if m.settled && !m.kind.exact then [.dev .copyCompletion (.cmd k id)] else []) ++
            (if ready then [.dev .copyStart (.cmd k id)] else []) ++ s.cores[k].nextStart k m))
  | _ => .next s

/-! ### Completion -/

/-- A CPY.RIN's slot at completion: stamped, marked done, and the producer pointer moved over done slots (R179, R230). -/
def Ring.settle (r : Ring) : Nat → Ring
  | 0 => r
  | n + 1 =>
    if r.reserved != 0 && r.done.getD r.prod false then
      ({ r with prod := (r.prod + 1) % r.count, reserved := r.reserved - 1, fill := r.fill + 1, done := r.done.set r.prod false } : Ring).settle n
    else r
/-- The ring a CPY.RIN fills, at its completion; a failure poisons every line of the slot (R230). A command that failed before its shape record
could be read has no swizzle code: its slot takes the stamp 0, a DESIGN CHOICE (log 107). -/
def Core.ringDone (c : Core) (m : Cmd) : Core :=
  match m.ring with
  | none => c
  | some (h, slot) =>
    let r := c.ring h
    let r1 : Ring := { r with stamps := r.stamps.set slot m.swz, done := r.done.set slot true }
    let c1 := c.setRing h (some (r1.settle r1.count))
    if failRank (m.status &&& 0xF) > 0 then
      c1.putPoison ((List.range r.size).map fun j => r.base / 256 + r.size * slot + j) true
    else c1

/-- Pages that a CPY.OUT at supervisor privilege wrote in full from unpoisoned lines (R337). -/
def Cmd.cleanedPages (m : Cmd) : List Nat :=
  (distinct (m.atoms.map (·.dpa / 4096))).filter fun p =>
    (distinct ((m.atoms.filter (·.dpa / 4096 == p)).flatMap fun a => a.moves.map (a.dpa + ·.1))).length == 4096

/-- A shootdown no longer waits for a command (R302). -/
def State.shootFree (s : State) (k : CoreId) (id : Nat) : State :=
  { s with shoots := s.shoots.map fun x => { x with waits := x.waits.filter (· != (k, id)) } }

/-- A command leaves its engine: its ring, its tag with its status, and what waited for it (R214, R223, R230). -/
def State.leaveEngine (s : State) (k : CoreId) (m : Cmd) : State :=
  let next := s.cores[k].run.copies.filter fun q => q.id != m.id && q.queue.isSome && q.queue == m.queue && q.phase == .running
  let s := s.onCore k fun c =>
    let c := c.onRun fun r => { r with
      copies := r.copies.filter (·.id != m.id), fences := r.fences.map fun f => (f.1, f.2.filter (· != m.id)) }
    match m.tag with
    | some t => (c.ringDone m).completeTag t m.status
    | none => c
  let go := next.filter fun q => (q.settled || q.kind == .fab || q.kind == .host) && !s.onItsWay (.dev .copyCompletion (.cmd k q.id))
  let s := ((s.shootFree k m.id).setDropped (k, m.id) false).first ((go.filter fun q => !(q.settled && q.kind.offCalendar)).map fun q =>
    .dev .copyCompletion (.cmd k q.id))
  ((go.filter fun q => q.settled && q.kind.offCalendar).foldl (fun s q => s.completes k q) s).wake k

/-- A copy completes with its final status (R223, R228); with OK, the pages it has cleared are poisoned no longer (R337). -/
def State.finishCopy (s : State) (k : CoreId) (m : Cmd) : State :=
  let st := finalStatus m.status
  let clear := m.kind == .out && m.priv && st &&& 0xF == stOk
  let pages := if clear then m.cleanedPages.filter s.pagePoison.contains else []
  let s := pages.foldl (fun s p => (({ s with pagePoison := setErase s.pagePoison p } : State).event 0x43 0 (p / 2 ^ 24 / 3)
    (BitVec.ofNat 64 (4096 * p)) 0)) s
  s.leaveEngine k { m with status := st }

/-- A stale command's tag completes with PERMISSION as STALE-HANDLE is raised (R182); the other bits of its status stand (R224). -/
def State.endStale (s : State) (k : CoreId) (m : Cmd) : State :=
  let m := { m with status := finalStatus (addFail m.status stPermission) }
  (s.leaveEngine k m).onCore k (·.staleHandle m)

/-! ### Writes outside the device (R233) -/

/-- Bytes sent to another device, or put into a host window. -/
def State.put (s : State) (m : Cmd) (va : Nat) (b : Byte) : State :=
  if m.kind == .fab then { s with sentFab := s.sentFab ++ [(m.b.extractLsb' 48 12, va, b)] }
  else match s.hostAddr (m.b.extractLsb' 48 16 ++ BitVec.ofNat 48 va : BitVec 64) 1 with
    | .ok a => { s with host := memSet s.host a b }
    | .error _ => s
/-- An atom of a CPY.FAB or CPY.HOST that comes next (R233). What the far side answers is a free value: a link failure, after which the bytes of
unserved atoms are unspecified; for the first atom on a page of another device also a refusal or a failed translation; else it is
performed. -/
def State.sendAtom (s : State) (k : CoreId) (m : Cmd) (i : Nat) (a : Atom) : State :=
  let c := s.cores[k]
  let x := Config.freeNat s.free 0 % 4
  let fresh := m.kind == .fab && !(m.atoms.take i).any (·.va / 65536 == a.va / 65536)
  let d := s.draw
  if x = 1 then
    let d := ((m.atoms.drop i).flatMap fun a => a.moves.map (a.va + ·.1)).foldl (fun (d : State) va =>
      if Config.freeNat s.free (2 * va + 1) % 2 = 1 then d.put m va (Config.freeBits 8 s.free (2 * va + 2)) else d) d
    d.halt k { m with atoms := [] } stFabric
  else if fresh && x = 2 then d.halt k { m with atoms := m.atoms.take i } stPermission
  else if fresh && x = 3 then d.halt k { m with atoms := m.atoms.take i } stTranslation
  else
    let d := a.moves.foldl (fun d p => d.put m (a.va + p.1) (memGet c.sram.bytes (c.ctx.phys p.2))) d
    let m := m.onAtom i fun a => { a with done := true }
    let m := if a.moves.any fun p => c.poisonAt p.2 then { m with status := addFail m.status stPoison } else m
    let d := d.setCmd k m
    if m.settled then d.completes k m else d.later (.dev .copyCompletion (.cmd k m.id))

/-- COPY_COMPLETION (R182, R189, R214, R223, R233): a command with nothing outstanding completes once no earlier one of its queue is under
way; one that writes outside the device sends its next atom then. -/
def execCopyCompletion (s : State) : Out :=
  match s.arg with
  | .cmd k id =>
    match s.cores[k].cmdOf id with
    | none => .next s
    | some m =>
      if !(s.cores[k].ahead m).isEmpty then .next s
      else if m.stale then .next (s.endStale k m)
      else if m.settled then .next (if m.kind.exact then s else s.finishCopy k m)
      else if m.kind == .fab || m.kind == .host then
        match m.atoms.zipIdx.find? (!·.1.done) with
        | some (a, i) => .next (s.sendAtom k m i a)
        | none => .next s
      else .next s
  | _ => .next s

/-- CPY_INX_LANDING (R193, R229): the atoms land together at the end of active cycle t + 1,023; a command that fails writes nothing
but the lines it must mark as poisoned. -/
def execCpyInxLanding (s : State) : Out :=
  match s.arg with
  | .cmd k id =>
    match s.cores[k].cmdOf id with
    | none => .next s
    | some m =>
      if !m.settled then .next s
      else
        let failed := failRank (m.status &&& 0xF) > 0
        let m := m.atoms.foldl (fun m a => m.tally a.bad (a.lands.map (·.1 / 256))) m
        let lands (a : Atom) := if failed then ({ a with pads := [] } : Atom).lands.filter fun p => m.bad.contains (p.1 / 256) else a.lands
        let s := s.onCore k fun c =>
          let c := m.atoms.foldl (fun c a => c.putBytes (lands a)) c
          m.markLines (c.putPoison m.bad true) false (if failed then [] else distinct (m.got.map (·.1)))
        .next (s.finishCopy k m)
  | _ => .next s

/-! ### Peer copies (R231) -/

/-- A line of a target of a peer copy, by number. -/
def targetLine (tid line : Nat) : Nat := 16384 * tid + line
/-- One unit of a peer copy reaches its target, wherever its task holds it (R202, R286); a poisoned source line poisons the line it fills
(R198, R226), and so does one held in a poisoned page of a save area (R197). Bytes of a task that has retired are free values. -/
def State.moveUnit (s : State) (k : CoreId) (m : Cmd) (i : Nat) (a : Atom) : State :=
  let xs := (m.a.extractLsb' 0 22).toNat + a.va
  let to_ := s.taskOf (BitVec.ofNat 64 a.dpa)
  let src := s.taskOf m.source
  let s := (src.map fun t => s.checkTask t xs 32).getD s
  let s := (to_.map fun t => s.checkTask t (a.moves.headD (0, 0)).2 32).getD s
  let byte (j : Nat) : Byte := (src.map fun t => s.taskByte t (xs + j)).getD (Config.freeBits 8 s.free j)
  let bad := src.any fun t => s.taskPoison t xs || s.taskLost t xs
  let lines := a.moves.map fun p => targetLine a.dpa (p.2 / 256)
  let m := (m.onAtom i fun a => { a with done := true }).tally bad lines
  let m := if bad then { m with status := addFail m.status stPoison } else m
  let s1 := match to_ with
    | none => s
    | some t =>
      let d := a.moves.foldl (fun (d : State) (p : Nat × Nat) => d.taskPoke t p.2 (byte p.1)) s
      (linesOf (a.moves.map fun p : Nat × Nat => p.2)).foldl (fun (d : State) n =>
        if bad then d.taskPoisonPut t (256 * n) true
        else if m.wholeLine (targetLine a.dpa n) then d.taskPoisonPut t (256 * n) false else d) d
  (s1.draw).setCmd k m

/-- A unit on its way to its target: over the crossing from the site's fabric to the core its task is on (R347), else to its save area. -/
def State.towards (s : State) (a : Atom) (d : Due) : State :=
  match (s.taskOf (BitVec.ofNat 64 a.dpa)).filter (·.stand == .onCore) with
  | some t => s.cross t.core 7 d
  | none => s.later d
/-- PEER_COPY_TRANSFER (R231): for a command, one unit of the footprint leaves the site's fabric for its target; which of those left comes next
is a free value, and it waits for the earlier commands of its queue, whose bytes come before its own (R214). For an atom, the unit reaches its
target, and the next one follows; the last one's command completes (R347). -/
def execPeerCopyTransfer (s : State) : Out :=
  match s.arg with
  | .cmd k id =>
    match s.cores[k].cmdOf id with
    | none => .next s
    | some m =>
      if !(s.cores[k].ahead m).isEmpty then .next (s.later (.dev .peerCopyTransfer (.cmd k id)))
      else
        let left := m.atoms.zipIdx.filter (!·.1.done)
        match left[Config.freeNat s.free 256 % left.length]? with
        | none => .next s
        | some (a, i) => .next (s.draw.towards a (.dev .peerCopyTransfer (.atom k id i)))
  | .atom k id i =>
    match s.cores[k].cmdOf id with
    | none => .next s
    | some m =>
      match m.atoms[i]? with
      | none => .next s
      | some a =>
        let t := s.moveUnit k m i a
        let t := t.soon (t.cores[k].nextStart k m)
        .next (if (m.onAtom i fun a => { a with done := true }).settled then t.completes k m else t.later (.dev .peerCopyTransfer (.cmd k id)))
  | _ => .next s

/-! ### Spills and fills (R132 to R134) -/

/-- What a register takes from a fill (R33, R133): its data, its trailer byte, and whether one of its bytes was poisoned, under the tag it
had at issue; none says FORMAT. A trailer that says POISON makes the register POISON whatever its tag: log 81. -/
def filledWrite (d : VReg) (was : Tag) (g : Word) (data : Line) (trailer : Byte) (poison : Bool) : Option VWrite :=
  let mask := laneMask g
  let full := mask == BitVec.allOnes 2048
  let code := if trailer.extractLsb' 4 4 != 0 then Tag.poison else tagOfCode (trailer.extractLsb' 0 4).toNat
  let w (bits : Line) (t : Option Tag) : VWrite := ⟨d, mask, bits &&& mask, t, false, none, false, was⟩
  if poison || code == .poison then some (w data (some .poison))
  else if code == .clean then some (w 0 (if full then some .clean else none))
  else (writeTag was code full false).map fun t => w data (some t)

/-- The bytes of a fill's image that belong to a register, from the atoms that brought them: data, trailer byte, poisoned or not. -/
def Cmd.filled (m : Cmd) (r : Nat) : Line × Byte × Bool :=
  let n := m.regs.length
  m.atoms.foldl (fun x a => a.moves.foldl (fun x p =>
    let b : Byte := a.data.extractLsb' (8 * p.1) 8
    if p.2 / 256 = r && r < n && p.2 < 256 * n then (x.1 ||| ((b.setWidth 2048 : Line) <<< (8 * (p.2 % 256))), x.2.1, x.2.2 || a.bad)
    else if p.2 = 256 * n + r then (x.1, b, x.2.2 || a.bad) else x) x) (0, 0, false)
/-- The registers of a spill or fill whose data had all moved (R134). -/
def Cmd.movedRegs (m : Cmd) : Nat :=
  let n := (spillLanes m.guard).length
  let l := (m.atoms.filter (·.done)).flatMap (·.moves)
  ((List.range m.regs.length).filter fun r => (l.filter (·.2 / 256 == r)).length ≥ n).length

/-- SPILL_FILL_COMPLETION (R133, R134): the transfer completes with cycle t + 1,023, or raises BOUNDS against its region. The registers of a
fill land in that cycle, as results of the bundle that issued it (R19); those of a region that a trap discards do not (R42). The record of its
BOUNDS names position 1: log 82. A trailer tag that the destination's tag at issue forbids to a fill of some of its lanes raises FORMAT here,
since it is read only now, where R33 speaks of issue and R319 of no FORMAT at a completion: DESIGN CHOICE (log 100). -/
def execSpillFillCompletion (s : State) : Out :=
  match s.arg with
  | .cmd k id =>
    match s.cores[k].cmdOf id with
    | none => .next s
    | some m =>
      if !m.settled then .next s
      else
        let s := s.leaveEngine k m
        let fault (cause : Cause) (n : Nat) (st : Word) : State :=
          s.onCore k fun c => c.landFault m.region 1 m.bundle cause (BitVec.ofNat 32 n) st
        if s.cores[k].doomed m.region then .next s
        else if m.halted then .next (fault .bounds m.movedRegs (finalStatus m.status))
        else if m.kind == .spill then .next s
        else
          let ws := m.regs.zipIdx.map fun p =>
            let x := m.filled p.2
            filledWrite p.1.1 p.1.2.tag m.guard x.1 x.2.1 x.2.2
          if ws.any (·.isNone) then .next (fault .format 0 0)
          else .next (s.onCore k fun c => c.onRun fun r => { r with
            flights := (ws.filterMap fun w => w).foldl (fun l w => insertFlight ⟨1, m.ord, m.region, 1, m.bundle, .vec w⟩ l) r.flights })
  | _ => .next s

end Sys2Proof.Machine
end

