-- ==== Sys2Proof/Machine/Channels.lean ====
section
/-! DEFINITION. The channel calendar, refresh, activation counts, error correction and poison of HBM (R186, R188 to R198, R249). -/

namespace Sys2Proof.Machine

/-- An atom that waits for service: its core, command, index and what the choice looks at; first says that its command goes before the
queues. -/
structure Claim where
  core : CoreId
  cmd : Nat
  i : Nat
  atom : Atom
  first : Bool
  queue : Nat
  deriving DecidableEq, Repr

/-- The clock at which a slot, numbered from reset, begins on a controller whose slots lag the calendar: the lag moves every slot, and
slots 96 to 99 take up 10 clocks of it in equal parts (R192). -/
def slotStart (shift n : Nat) : Nat :=
  5 * n + if n % 100 < 96 then shift else shift - min 10 shift * (n % 100 - 96) / 4

/-- An atom waits for service on a pseudo-channel, and is eligible for a slot that begins at a clock (R189). -/
def Atom.waits (a : Atom) (now : Nat) : Bool := a.started && !a.served && a.start + 400 ≤ now
/-- The atoms of a core that are eligible on a pseudo-channel for a slot that begins now, in command order. -/
def State.claims (s : State) (k : CoreId) (ch : ChanId) (now : Nat) : List Claim :=
  s.cores[k].run.copies.flatMap fun m =>
    (m.atoms.zipIdx.filter fun p => p.1.chan == ch && p.1.waits now).map
      fun p => ⟨k, m.id, p.2, p.1, m.kind.exact, (m.queue.map (·.val)).getD 0⟩

/-- An earlier command of its queue has an atom to be served on the same pseudo-channel, which goes first (R189, R214). -/
def State.queueHolds (s : State) (x : Claim) : Bool :=
  !x.first && (s.cores[x.core].run.copies.filter fun m => m.id < x.cmd && m.queue.map (·.val) == some x.queue).any fun m =>
    m.atoms.any fun a => a.chan == x.atom.chan && !a.served

/-- The order of choice among one core's atoms (R189): slipped ones, those before the rest that have slipped twice (R190), then those of CPY.INX,
spills and fills, then the queues round-robin from the rotation's. That of several slipped atoms, or of several of CPY.INX, those of the
earlier command go first whatever its queue is a DESIGN CHOICE (log 55). -/
def chooseOrder (l : List Claim) (rotation : Nat) : List Claim :=
  let slipped := l.filter (·.atom.slipped)
  let rest := l.filter (!·.atom.slipped)
  slipped.filter (·.atom.slips ≥ 2) ++ slipped.filter (·.atom.slips < 2) ++ rest.filter (·.first) ++ (List.range 4).flatMap fun j => rest.filter fun x => !x.first && x.queue == (rotation + j) % 4

/-! ### Rows, banks and activation counts (R195) -/

/-- The bank of a stack offset (R186). -/
def bankOf (dpa : Nat) : Nat := dpa / 2 ^ 18 % 64
/-- Bank and row of a stack offset as one number (R186). -/
def rowKey (dpa : Nat) : Nat := bankOf dpa * 4096 + dpa / 2 ^ 24 % 4096

/-- What a pseudo-channel keeps; an unlisted one has every row closed and every count 0. -/
def State.dramOf (s : State) (ch : ChanId) : Dram := (s.dram.find? (·.chan == ch)).getD ⟨ch, [], [], [], []⟩
/-- A pseudo-channel's rows updated. -/
def State.setDram (s : State) (d : Dram) : State := { s with dram := d :: s.dram.filter (·.chan != d.chan) }

/-- The open row of a bank closes: its count is written, saturating at 2,047; a saturated or corrupt one joins the targeted-refresh
queue (R195). -/
def Dram.precharge (d : Dram) (key : Nat) (parityFails : Bool) : Dram :=
  let n := min 2047 ((pairGet d.counts key).getD 0 + 1)
  let hot := n == 2047 || parityFails
  { d with
    counts := pairPut d.counts key n
    corrupt := if parityFails then setInsert d.corrupt key else d.corrupt
    queue := if hot && !d.queue.contains key then d.queue ++ [key] else d.queue }

/-- A row is opened for an atom; another open row of its bank closes first. Whether a count's parity fails is a free value; that it shows where
the count is written, at the precharge, and not where it is read, is a DESIGN CHOICE (log 104). -/
def State.activate (s : State) (ch : ChanId) (dpa : Nat) : State :=
  let d := s.dramOf ch
  let bank := bankOf dpa
  match pairGet d.opened bank with
  | some key =>
    if key = rowKey dpa then s
    else
      let bad := Config.freeNat s.free 0 % 2 == 1
      let s := (s.draw).setDram { d.precharge key bad with opened := pairPut d.opened bank (rowKey dpa) }
      if bad then s.eventOpen 0x20 0 (ch.val / 768) else s
  | none => s.setDram { d with opened := pairPut d.opened bank (rowKey dpa) }

/-- Targeted refresh holds the atom's bank: more than 4 rows wait, one of them in this bank (R195). -/
def State.bankHeld (s : State) (ch : ChanId) (dpa : Nat) : Bool :=
  let d := s.dramOf ch
  d.queue.length > 4 && d.queue.any fun k => k / 4096 == bankOf dpa

/-! ### Serving atoms -/

/-- The channel of four pseudo-channels (R194). -/
def fourOf (ch : ChanId) : Fin 768 := Fin.ofNat 768 (ch.val / 4)

/-- An atom slips to the next rotation: the slipped bit of its command is set (R190, R249). counted says whether the slip counts. -/
def State.slip (s : State) (x : Claim) (counted : Bool) : State :=
  s.onCore x.core fun c => c.onCmd x.cmd fun m =>
    { m.onAtom x.i (fun a => { a with slipped := true, slips := if counted then a.slips + 1 else a.slips }) with
      status := m.status ||| 0x100 }

/-- The bytes a write atom takes at its service, under its mask. -/
def Cmd.writeBytes (m : Cmd) (c : Core) (a : Atom) : List (Nat × Byte) :=
  a.moves.map fun p => (p.1, match m.kind with
    | .tr => memGet m.stage (2 * p.2) ||| (memGet m.stage (2 * p.2 + 1) <<< 4)
    | .spill => m.imageByte p.2
    | _ => memGet c.sram.bytes (c.ctx.phys p.2))

/-- The atoms of a page that a command has read, spoiled: its data of the page is unspecified (R197). -/
def Cmd.spoil (m : Cmd) (page draw : Nat) : Cmd :=
  { m with atoms := m.atoms.mapIdx fun j a =>
      if a.role == .bytes && !a.write && a.served && a.dpa / 4096 = page then { a with bad := true, data := Config.freeBits 256 draw (j + 2) }
      else a }
/-- An atom but for the scratchpad bytes that a later command of its queue has written since, which are the later ones (R214). -/
def Core.stillOwn (c : Core) (m : Cmd) (a : Atom) : Atom :=
  let later := (c.run.copies.filter fun q => m.id < q.id && q.queue.isSome && q.queue == m.queue && (q.kind == .cin || q.kind == .rin)).flatMap
    fun q => (q.atoms.filter (·.done)).flatMap (·.bytes)
  { a with moves := a.moves.filter fun p => !later.contains p.2, pads := a.pads.filter fun p => !later.contains p.1 }
/-- A read atom is served (R189, R196, R197): its data is taken, checked and corrected; an uncorrectable atom poisons its page, and with it all
that its command has read of the page. Data of a poisoned page is unspecified, fails its command with POISON and poisons the lines it
reaches. The write follows at the end of clock S + 523, after the cores' clocks; what lands with its core's cycle is there for that
clock's landing. -/
def State.serveRead (s : State) (x : Claim) (m : Cmd) : State :=
  let a := x.atom
  let ecc := s.eccOf
  let t := s.checkAtom a.chan a.dpa
  let bad := t.poisoned a.dpa
  let data := if bad then Config.freeBits 256 s.free 1 else if a.owned then BitVec.ofNat 256 (memLe s.hbm a.cell 32) else a.data
  let m := { m.onAtom x.i (fun a => { a with served := true, data := data, bad := bad }) with
    status := (if ecc = 1 then (· ||| 0x200) else id) (if bad then addFail m.status stPoison else m.status) }
  let spoiled := ecc = 2 && !s.poisoned a.dpa && a.role == .bytes
  let m := if spoiled then m.spoil (a.dpa / 4096) s.free else m
  let old := if spoiled then m.atoms.filter fun b => b.bad && b.done && b.dpa / 4096 = a.dpa / 4096 else []
  let t := old.foldl (fun (t : State) b => t.bring x.core ((t.cores[x.core].cmdOf m.id).getD m) (t.cores[x.core].stillOwn m b)) (t.setCmd x.core m)
  (t.soon (t.cores[x.core].nextStart x.core m)).atClock (s.now + if m.kind.exact then 523 else 524) (.dev .readAtomWrite (.atom x.core x.cmd x.i))

/-- A write atom is served (R189, R198, R211): it takes its data now; a poisoned source line poisons the page that takes bytes of it, and no other
page of the copy, which is a DESIGN CHOICE (log 120). A shape record is dropped by the write of a VSPILL as by a copy's: DEDUCED (log 120). -/
def State.serveWrite (s : State) (x : Claim) (m : Cmd) : State :=
  let a := x.atom
  let c := s.cores[x.core]
  let bs := m.writeBytes c a
  let bad := m.kind == .out && a.moves.any fun p => c.poisonAt p.2
  let s := { s with hbm := bs.foldl (fun (h : Mem) (p : Nat × Byte) => memSet h (a.cell + p.1) p.2) s.hbm }
  let s := if bad then { s with pagePoison := setInsert s.pagePoison (a.dpa / 4096) } else s
  let m1 := m.onAtom x.i fun a => { a with served := true, done := true }
  let m2 := { m1 with status := if bad then addFail m1.status stPoison else m1.status }
  let s := (s.setCmd x.core m2).dropRecords a.dpa 32
  if m2.settled && !m2.kind.exact then s.first [.dev .copyCompletion (.cmd x.core x.cmd)] else s

/-- An atom has its slot: its row opens, and it is served. -/
def State.serve (s : State) (x : Claim) : State :=
  match s.cores[x.core].cmdOf x.cmd with
  | none => s
  | some m =>
    let s := s.activate x.atom.chan x.atom.dpa
    let s := { s with quiet := pairPut s.quiet (fourOf x.atom.chan).val s.now }
    if x.atom.write then s.serveWrite x m else s.serveRead x m

/-- The served atom: the first in the order of choice that neither its bank nor targeted refresh holds. What holds a bank beyond R195 is a
free value; an atom that has slipped twice is not held again (R190, R191). Where every one is held, those behind them in their queues are not
served for the same cause, and slip with them: log 60. -/
def State.serveFirst (s : State) (behind : List Claim) : List Claim → State
  | [] => behind.foldl (fun s x => s.slip x true) s
  | x :: rest =>
    let busy := x.atom.slips < 2 && (Config.freeNat s.free 0 % 2 == 1 || s.bankHeld x.atom.chan x.atom.dpa)
    let s := s.draw
    if busy then (s.slip x true).serveFirst behind rest else s.serve x

/-- The atom of a peer that has waited longest on a pseudo-channel has its slot (R189, R201): its bytes are written under its mask, and the peer
is answered. -/
def State.serveInbound (s : State) (x : Inbound) : State :=
  let s := s.activate x.chan x.dpa
  (({ s with
    quiet := pairPut s.quiet (fourOf x.chan).val s.now
    inbox := s.inbox.erase x
    hbm := memPutMask s.hbm (cellAt x.chan x.dpa) x.mask.toNat x.data.toNat 32 } : State).dropRecords x.dpa 32).respond x.port .taken
/-- A slot that no core's atom waits for serves what peers write, in order of arrival; what holds the bank is as for other atoms: log 110. -/
def State.serveInbox (s : State) (ch : ChanId) : State :=
  match s.inbox.find? (·.chan == ch) with
  | none => s
  | some x =>
    let busy := Config.freeNat s.free 0 % 2 == 1 || s.bankHeld ch x.dpa
    if busy then s.draw else s.draw.serveInbound x

/-- ATOM_SERVICE (R188 to R191, R249): a pseudo-channel's slot of number k, counted from reset. A remote atom that has slipped twice goes before
all that have not, by die order and then by the clock it became eligible; what it displaces is deferred. Else the core of the
pseudo-channel's own die has first claim, and remote cores follow in die order; remote atoms of cores not served slip. A channel in
self-refresh serves nothing and its atoms slip without counting (R194); that its exit begins with the first slot so refused, and not when the
request arrives, is a DESIGN CHOICE (log 102). An atom that its queue holds slips with its core's others where the whole core is refused. Where
the banks hold every atom of the remote claimant whose turn it is, the slot serves nobody, and the next die's claimant does not take it: DESIGN
CHOICE (log 55). -/
def execAtomService (s : State) : Out :=
  match s.arg with
  | .service ch k =>
    let rot := k / 100
    let die := ch.val / 768
    let coreAt (e : Nat) : CoreId := Fin.ofNat 384 (96 * e + k % 100 % 96)
    let ownAll := s.claims (coreAt die) ch s.now
    let own := ownAll.filter (!s.queueHolds ·)
    let remoteAll := ((List.range 4).map fun j => (die + 1 + rot + j) % 4).filter (· != die) |>.map fun e => s.claims (coreAt e) ch s.now
    let remote := remoteAll.map (·.filter (!s.queueHolds ·))
    if s.asleep.contains (fourOf ch).val then
      let all := ownAll ++ remoteAll.flatten
      let s := all.foldl (fun s x => s.slip x false) s
      if (all.isEmpty && s.inbox.all (·.chan != ch)) || s.agenda.any (fun e => e.2 == .dev .selfRefreshExit (.four (fourOf ch))) then .next s
      else .next ((s.draw).atClock (s.now + 1 + Config.delay s.free % 1000) (.dev .selfRefreshExit (.four (fourOf ch))))
    else
      let late := if own.any (·.atom.slips ≥ 2) then none
        else remote.findSome? fun l => (sortOn (·.atom.start) (l.filter (·.atom.slips ≥ 2))).head?
      match late with
      | some x => .next (s.serve x)
      | none =>
        if own.isEmpty && remote.all (·.isEmpty) then .next (s.serveInbox ch) else
        let turn := if own.isEmpty then remote.find? (!·.isEmpty) else none
        let mine (x : Claim) : Bool := (turn.bind (·.head?)).any (·.core == x.core)
        let s := (remoteAll.flatten.filter (!mine ·)).foldl (fun s x => s.slip x true) s
        let behind := ((turn.bind (·.head?)).map fun x => remoteAll.flatten.filter (·.core == x.core)).getD ownAll
        .next (s.serveFirst (behind.filter s.queueHolds) (chooseOrder (turn.getD own) rot))
  | _ => .next s

/-! ### Reserved slots (R194 to R196) -/

/-- The bank that a reserved slot refreshes on every pseudo-channel, by the slot's number from reset. R194 gives a fixed order and not which: that
the banks rise, one to a reserved slot, from bank 0 at reset, is a DESIGN CHOICE (log 103). -/
def refreshBank (n : Nat) : Nat := (4 * (n / 100) + (n % 100 - 96)) % 64
/-- The row open in a bank closes for its refresh (R194, R195). -/
def State.closeBank (s : State) (ch : ChanId) (bank : Nat) : State :=
  let d := s.dramOf ch
  match pairGet d.opened bank with
  | none => s
  | some key =>
    let bad := Config.freeNat s.free 0 % 2 == 1
    let s := (s.draw).setDram { d.precharge key bad with opened := d.opened.filter (·.1 != bank) }
    if bad then s.eventOpen 0x20 0 (ch.val / 768) else s
/-- REFRESH_SLOT (R194, R195): a reserved slot refreshes the next bank, and the first row of the targeted-refresh queue, whose count it
resets. A row that joins the queue as the slot begins is served in the following one. -/
def execRefreshSlot (s : State) : Out :=
  match s.arg with
  | .service ch n =>
    let first := (s.dramOf ch).queue.head?
    let s := s.closeBank ch (refreshBank n)
    match first with
    | none => .next s
    | some key =>
      let d := s.dramOf ch
      .next (s.setDram { d with queue := d.queue.erase key, counts := d.counts.filter (·.1 != key), corrupt := setErase d.corrupt key })
  | _ => .next s

/-- ECC_WRITEBACK (R196): a corrected atom is written back in a later reserved slot; the check of what is read for it may find it
uncorrectable. -/
def execEccWriteback (s : State) : Out :=
  match s.arg with
  | .chan ch =>
    match s.writeback.find? (·.1 == ch) with
    | none => .next s
    | some w =>
      let s1 := (s.draw).activate ch w.2
      let s2 := { s1 with writeback := s1.writeback.erase w }
      .next (if s.eccOf = 2 then s2.poisonPage w.2 else s2)
  | _ => .next s

/-- A request had arrived by the clock before for a pseudo-channel of a channel, and waits: an atom that has been started, or one of a peer
(R194). -/
def State.awaited (s : State) (f : Fin 768) : Bool :=
  (s.inbox.any fun x => x.chan.val / 4 == f.val) || s.cores.toList.any fun c => c.run.copies.any fun m => m.atoms.any fun a =>
    a.chan.val / 4 == f.val && a.started && a.start < s.now && !a.served

/-- SELF_REFRESH_ENTRY (R194): a channel that served nothing for 64 rotations enters, unless a request had arrived by the end of the clock for
which this is decided, the one before. -/
def execSelfRefreshEntry (s : State) : Out :=
  match s.arg with
  | .four f =>
    if s.awaited f then .next { s with quiet := pairPut s.quiet f.val s.now }
    else if (pairGet s.quiet f.val).getD 0 + 32000 < s.now then .next { s with asleep := setInsert s.asleep f.val }
    else .next s
  | _ => .next s

/-- SELF_REFRESH_EXIT (R194). -/
def execSelfRefreshExit (s : State) : Out :=
  match s.arg with
  | .four f => .next { s with asleep := setErase s.asleep f.val, quiet := pairPut s.quiet f.val s.now }
  | _ => .next s

end Sys2Proof.Machine
end

