-- ==== Sys2Proof/Machine/Convert.lean ====
section
/-! DEFINITION. Conversions and VQMX (R144 to R146). -/

namespace Sys2Proof.Machine

/-- The bits of every lane that element pair x of width w each fills (R68, R144). -/
def elemBits (w x : Nat) : Line :=
  ofLanes fun _ => BitVec.ofNat 32 ((2 ^ (2 * w) - 1) * 2 ^ (2 * w * x))

/-- A lane with the pair of elements p and q in place x (R144). -/
def pairLane (w x p q : Nat) : Half := BitVec.ofNat 32 ((p % 2 ^ w + 2 ^ w * (q % 2 ^ w)) * 2 ^ (2 * w * x))

/-- A narrowing conversion that draws nothing (R144, R145). -/
def Core.narrow (c : Core) (g : PReg) (d a b : VReg) (w x : Nat) (src rt : Tag) (f : Half → Nat) : Core :=
  let p := c.vr a
  let q := c.vr b
  c.dissip 3 (c.pr g) (elemBits w x) d rt (p.tag == .poison || q.tag == .poison) (!tagOk p.tag src || !tagOk q.tag src) [] 0
    (ofLanes fun i => pairLane w x (f (lane p.bits i)) (f (lane q.bits i)))

/-- The draws of a stochastic form, two for each executed lane in ascending order: the state after them and the lanes' draws
(R81, R83, R144). -/
def drawsFor (srs : Word) : List Nat → Word × List (Nat × Half × Half)
  | [] => (srs, [])
  | i :: r =>
    let d1 := srsNext srs
    let d2 := srsNext d1.1
    let rest := drawsFor d2.1 r
    (rest.1, (i, d1.2, d2.2) :: rest.2)

/-- The draws of lane i. -/
def drawOf (i : Nat) : List (Nat × Half × Half) → Half × Half
  | [] => (0, 0)
  | x :: r => if x.1 = i then x.2 else drawOf i r

/-- A stochastic narrowing conversion: the generator advances when the form issues without a fault (R81, R144). That SRS takes the advance
at issue and not at a landing is the model's choice: log 78. -/
def Core.narrowSr (c : Core) (g : PReg) (d a b : VReg) (w x : Nat) (rt : Tag) (f : Half → Half → Nat) : Core :=
  let p := c.vr a
  let q := c.vr b
  let ds := drawsFor c.ctx.x.srs (execLanes (c.pr g))
  let c' := c.dissip 3 (c.pr g) (elemBits w x) d rt (p.tag == .poison || q.tag == .poison)
    (!tagOk p.tag .f32 || !tagOk q.tag .f32) [] 0
    (ofLanes fun i => let e := drawOf i ds.2; pairLane w x (f e.1 (lane p.bits i)) (f e.2 (lane q.bits i)))
  if c'.run.trap.isSome then c' else c'.onSpr fun y => { y with srs := ds.1 }

/-- F32 bits rounded to nearest into a format. -/
def rneBits (f : FltFmt) (sat : Bool) (x : Half) : Nat := rneOf f sat (fltOf .f32 x.toNat)
/-- F32 bits rounded stochastically into a format. -/
def srBits (f : FltFmt) (sat : Bool) (draw x : Half) : Nat := srOf .f32 f sat draw (fltOf .f32 x.toNat)

/-- VCVT.BF16.F32.RNE (R145). -/
def execVcvtBf16F32Rne (g : PReg) (d a b : VReg) (s : State) : Out :=
  s.act (·.narrow g d a b 16 0 .f32 .bf16 (rneBits .bf16 false))
/-- VCVT.BF16.F32.SR (R145). -/
def execVcvtBf16F32Sr (g : PReg) (d a b : VReg) (s : State) : Out := s.act (·.narrowSr g d a b 16 0 .bf16 (srBits .bf16 false))
/-- VCVT.FP8E4.F32.RNE (R145). -/
def execVcvtFp8e4F32Rne (g : PReg) (d a b : VReg) (x : Fin 2) (s : State) : Out :=
  s.act (·.narrow g d a b 8 x.val .f32 .fp8e4 (rneBits .e4m3 false))
/-- VCVT.FP8E4.F32.SAT (R145). -/
def execVcvtFp8e4F32Sat (g : PReg) (d a b : VReg) (x : Fin 2) (s : State) : Out :=
  s.act (·.narrow g d a b 8 x.val .f32 .fp8e4 (rneBits .e4m3 true))
/-- VCVT.FP8E4.F32.SR (R145). -/
def execVcvtFp8e4F32Sr (g : PReg) (d a b : VReg) (x : Fin 2) (s : State) : Out :=
  s.act (·.narrowSr g d a b 8 x.val .fp8e4 (srBits .e4m3 false))
/-- VCVT.FP8E4.F32.SRSAT (R145). -/
def execVcvtFp8e4F32Srsat (g : PReg) (d a b : VReg) (x : Fin 2) (s : State) : Out :=
  s.act (·.narrowSr g d a b 8 x.val .fp8e4 (srBits .e4m3 true))
/-- VCVT.FP8E5.F32.RNE (R145). -/
def execVcvtFp8e5F32Rne (g : PReg) (d a b : VReg) (x : Fin 2) (s : State) : Out :=
  s.act (·.narrow g d a b 8 x.val .f32 .fp8e5 (rneBits .e5m2 false))
/-- VCVT.FP8E5.F32.SAT (R145). -/
def execVcvtFp8e5F32Sat (g : PReg) (d a b : VReg) (x : Fin 2) (s : State) : Out :=
  s.act (·.narrow g d a b 8 x.val .f32 .fp8e5 (rneBits .e5m2 true))
/-- VCVT.FP8E5.F32.SR (R145). -/
def execVcvtFp8e5F32Sr (g : PReg) (d a b : VReg) (x : Fin 2) (s : State) : Out :=
  s.act (·.narrowSr g d a b 8 x.val .fp8e5 (srBits .e5m2 false))
/-- VCVT.FP8E5.F32.SRSAT (R145). -/
def execVcvtFp8e5F32Srsat (g : PReg) (d a b : VReg) (x : Fin 2) (s : State) : Out :=
  s.act (·.narrowSr g d a b 8 x.val .fp8e5 (srBits .e5m2 true))
/-- VCVT.FP4.F32.RNE: FP4 always saturates (R82, R145). -/
def execVcvtFp4F32Rne (g : PReg) (d a b : VReg) (x : Fin 4) (s : State) : Out :=
  s.act (·.narrow g d a b 4 x.val .f32 .fp4 (rneBits .fp4 true))
/-- VCVT.FP4.F32.SR (R145). -/
def execVcvtFp4F32Sr (g : PReg) (d a b : VReg) (x : Fin 4) (s : State) : Out :=
  s.act (·.narrowSr g d a b 4 x.val .fp4 (srBits .fp4 true))
/-- VCVT.INT8.I32.SAT: a clamp (R69, R145). -/
def execVcvtInt8I32Sat (g : PReg) (d a b : VReg) (x : Fin 2) (s : State) : Out :=
  s.act (·.narrow g d a b 8 x.val .i32 .int8 fun h => (max (-128) (min 127 h.toInt) % 256).toNat)

/-- A widening conversion: element k of the lane, exact (R144). -/
def Core.widen (c : Core) (g : PReg) (d a : VReg) (f : FltFmt) (src : Tag) (k : Nat) : Core :=
  c.lanes1 3 g d a src .f32 fun h =>
    BitVec.ofNat 32 (rneOf .f32 false (fltOf f (h.toNat / 2 ^ (f.width * k) % 2 ^ f.width)))
/-- VCVT.F32.BF16 (R145). -/
def execVcvtF32Bf16 (g : PReg) (d a : VReg) (k : Fin 2) (s : State) : Out := s.act (·.widen g d a .bf16 .bf16 k.val)
/-- VCVT.F32.FP8E4 (R145). -/
def execVcvtF32Fp8e4 (g : PReg) (d a : VReg) (k : Fin 4) (s : State) : Out := s.act (·.widen g d a .e4m3 .fp8e4 k.val)
/-- VCVT.F32.FP8E5 (R145). -/
def execVcvtF32Fp8e5 (g : PReg) (d a : VReg) (k : Fin 4) (s : State) : Out := s.act (·.widen g d a .e5m2 .fp8e5 k.val)
/-- VCVT.F32.FP4 (R145). -/
def execVcvtF32Fp4 (g : PReg) (d a : VReg) (k : Fin 8) (s : State) : Out := s.act (·.widen g d a .fp4 .fp4 k.val)

/-- A finite number as an integer, to nearest or toward zero. -/
def intMag (near : Bool) (mag : Nat) (exp : Int) : Nat :=
  if 0 ≤ exp then mag <<< exp.toNat
  else
    let k := (-exp).toNat
    let q := mag >>> k
    let r := mag % 2 ^ k
    if near && (2 * r > 2 ^ k || (2 * r == 2 ^ k && q % 2 == 1)) then q + 1 else q
/-- F32 to I32 with the fates of R82. -/
def i32OfF32 (near : Bool) (x : Half) : Half :=
  match fltOf .f32 x.toNat with
  | .nan => 0x80000000
  | .inf n => if n then 0x80000000 else 0x7FFFFFFF
  | .fin n m e =>
    let k := intMag near m e
    if n then (if k ≥ 2 ^ 31 then 0x80000000 else BitVec.ofInt 32 (-(k : Int)))
    else if k ≥ 2 ^ 31 then 0x7FFFFFFF else BitVec.ofNat 32 k
/-- VCVT.I32.F32.RNE (R145). -/
def execVcvtI32F32Rne (g : PReg) (d a : VReg) (s : State) : Out := s.act (·.lanes1 3 g d a .f32 .i32 (i32OfF32 true))
/-- VCVT.I32.F32.RTZ (R145). -/
def execVcvtI32F32Rtz (g : PReg) (d a : VReg) (s : State) : Out := s.act (·.lanes1 3 g d a .f32 .i32 (i32OfF32 false))
/-- VCVT.F32.I32 (R145). -/
def execVcvtF32I32 (g : PReg) (d a : VReg) (s : State) : Out :=
  s.act (·.lanes1 3 g d a .i32 .f32 fun h => BitVec.ofNat 32 (roundRne .f32 false (h.toInt < 0) h.toInt.natAbs 0))
/-- VCVT.I32.RNS: CRT after reduction (R74, R75, R145). -/
def execVcvtI32Rns (g : PReg) (d a : VReg) (s : State) : Out := s.act (·.lanes1 3 g d a .rns .i32 fun h => BitVec.ofInt 32 (crt h))

/-- The scale of a block of VQMX (R146): emax is 8 for E4M3 and 2 for FP4. -/
def vqmxScale (emax : Int) (vs : List Flt) : Int :=
  if vs.all (·.isZero) then -128
  else
    let live := vs.filter fun v => v.isFin && !v.isZero
    match live with
    | [] => 0
    | _ =>
      let e := live.foldl (fun acc v => match v with
        | .fin _ m x => max acc (floorLog2 m x)
        | _ => acc) (-1000 : Int)
      max (-127) (min 127 (e - emax))

/-- A value scaled down by 2^s and quantised with saturation (R146). -/
def vqmxElem (f : FltFmt) (s : Int) (v : Flt) : Nat :=
  if s = -128 then 0
  else match v with
    | .fin n m e => rneOf f true (.fin n m (e - s))
    | w => rneOf f true w

/-- VQMX (R146): 128 values in blocks of 32 into lanes per * x onwards, and the four scales into s_b. -/
def Core.vqmx (c : Core) (g : PReg) (d : VReg) (a : VPair) (b : SReg) (x : Nat) (f : FltFmt) (emax : Int) (rt : Tag) : Core :=
  let p := c.vr (Fin.ofNat 64 (2 * a.val))
  let q := c.vr (Fin.ofNat 64 (2 * a.val + 1))
  let vals := (List.range 128).map fun j => fltOf .f32 (if j < 64 then lane p.bits j else lane q.bits (j - 64)).toNat
  let scales := (List.range 4).map fun k => vqmxScale emax ((vals.drop (32 * k)).take 32)
  let codes := (List.range 128).map fun j => vqmxElem f (scales.getD (j / 32) 0) (vals.getD j .nan)
  let per := 4 * f.width
  let gm := c.pr g &&& (BitVec.ofNat 64 ((2 ^ per - 1) * 2 ^ (per * x)))
  let flat := codes.foldr (fun e acc => e % 2 ^ f.width + 2 ^ f.width * acc) 0
  let c' := c.dissip 3 gm allBits d rt false
    (!tagOk p.tag .f32 || !tagOk q.tag .f32) [(p.tag == .poison || q.tag == .poison, .poisonUse)] 0
    (BitVec.ofNat 2048 (flat * 2 ^ (128 * f.width * x)))
  if gm = 0 || c'.run.trap.isSome then c'
  else c'.flyS 3 1 b (BitVec.ofNat 64 (scales.foldr (fun s acc => (s % 256).toNat + 256 * acc) 0))

/-- VQMX.FP8E4 (R146). -/
def execVqmxFp8e4 (g : PReg) (d : VReg) (a : VPair) (b : SReg) (x : Fin 2) (s : State) : Out :=
  s.act (·.vqmx g d a b x.val .e4m3 8 .fp8e4)
/-- VQMX.FP4 (R146). -/
def execVqmxFp4 (g : PReg) (d : VReg) (a : VPair) (b : SReg) (x : Fin 4) (s : State) : Out :=
  s.act (·.vqmx g d a b x.val .fp4 2 .fp4)

end Sys2Proof.Machine
end

