-- ==== Sys2Proof/Machine/CopyIssue.lean ====
section
/-! DEFINITION. Copy commands at issue (R57, R225). -/

namespace Sys2Proof.Machine

/-- A copy issues: its tag is claimed and its command goes to its queue (R223, R227). -/
def Core.queueCopy (c : Core) (t : TagId) (m : Cmd) : Core := (c.claim t).enqueue m

/-- The checks of R225 in the order of R222, then the command. -/
def State.copy (s : State) (g : PReg) (k : CopyKind) (t : TagId) (a : SReg) (b : SPair) (q : Option (Fin 4))
    (ill bnd aln : Word → Word → Bool) : Out :=
  s.csyl g (fun c =>
    let x := c.s a
    let y := c.pairLo b
    [((c.pairHi b).extractLsb' 32 32 != 0 || ill x y, .illegal), (bnd x y || c.tagBusy t, .bounds), (aln x y, .align)])
    fun c => c.queueCopy t (c.newCmd k (some t) q (c.s a) (c.pairLo b) ((c.pairHi b).setWidth 32))

/-- A scratchpad address out of range (R225). -/
def scrOut (x : Word) : Bool := x.toNat ≥ 0x400000
/-- A scratchpad address that is not aligned (R225). -/
def scrMis (x : Word) : Bool := x.toNat % 256 != 0
/-- A peer address with a bit outside its fields (R225). -/
def peerBad (x : Word) : Bool := x.extractLsb' 27 37 != 0 || x.extractLsb' 22 2 != 0
/-- The scratchpad part of a peer or multicast address. -/
def low22 (x : Word) : Word := x &&& 0x3FFFFF

/-- CPY.IN (R225). -/
def execCpyIn (g : PReg) (t : TagId) (a : SReg) (b : SPair) (q : Fin 4) (s : State) : Out :=
  s.copy g .cin t a b (some q) (fun _ _ => false) (fun _ y => scrOut y) fun _ y => scrMis y
/-- CPY.INX: no queue (R225, R229). -/
def execCpyInx (g : PReg) (t : TagId) (a : SReg) (b : SPair) (s : State) : Out :=
  s.copy g .inx t a b none (fun _ _ => false) (fun _ y => scrOut y) fun _ y => scrMis y
/-- CPY.OUT (R225). -/
def execCpyOut (g : PReg) (t : TagId) (a : SReg) (b : SPair) (q : Fin 4) (s : State) : Out :=
  s.copy g .out t a b (some q) (fun _ _ => false) (fun x _ => scrOut x) fun x _ => scrMis x
/-- CPY.PEER (R225). -/
def execCpyPeer (g : PReg) (t : TagId) (a : SReg) (b : SPair) (q : Fin 4) (s : State) : Out :=
  s.copy g .peer t a b (some q) (fun x _ => peerBad x) (fun _ y => scrOut y) fun x y => scrMis (low22 x) || scrMis y
/-- CPY.MC (R225). -/
def execCpyMc (g : PReg) (t : TagId) (a : SReg) (b : SPair) (q : Fin 4) (s : State) : Out :=
  s.copy g .mc t a b (some q) (fun x y => peerBad x || y.extractLsb' 32 32 != 0 || y.extractLsb' 22 2 != 0)
    (fun _ _ => false) fun x y => scrMis (low22 x) || scrMis (low22 y)
/-- CPY.T (R225). -/
def execCpyT (g : PReg) (t : TagId) (a : SReg) (b : SPair) (q : Fin 4) (s : State) : Out :=
  s.copy g .tr t a b (some q) (fun _ _ => false) (fun _ y => y.extractLsb' 48 16 != 0) fun _ _ => false
/-- CPY.FAB (R225). -/
def execCpyFab (g : PReg) (t : TagId) (a : SReg) (b : SPair) (q : Fin 4) (s : State) : Out :=
  s.copy g .fab t a b (some q) (fun _ y => y.extractLsb' 60 4 != 0) (fun x _ => scrOut x) fun x _ => scrMis x
/-- CPY.HOST (R225). -/
def execCpyHost (g : PReg) (t : TagId) (a : SReg) (b : SPair) (q : Fin 4) (s : State) : Out :=
  s.copy g .host t a b (some q) (fun _ _ => false) (fun x _ => scrOut x) fun x _ => scrMis x

/-- CPY.RIN: the ring's next slot is reserved at issue (R179, R225, R230). -/
def execCpyRin (g : PReg) (t : TagId) (a : SReg) (b : SPair) (q : Fin 4) (s : State) : Out :=
  s.csyl g (fun c =>
    let y := c.pairLo b
    let h : RingId := Fin.ofNat 16 y.toNat
    [((c.pairHi b).extractLsb' 32 32 != 0 || !y.getLsbD 63 || y.extractLsb' 4 59 != 0, .illegal),
     (c.ctx.h[h].isNone, .ringConfig), ((c.ring h).free == 0 || c.tagBusy t, .bounds)]) fun c =>
    let y := c.pairLo b
    let h : RingId := Fin.ofNat 16 y.toNat
    let r := c.ring h
    let slot := (r.prod + r.reserved) % r.count
    let cmd := c.newCmd .rin (some t) (some q) (c.s a) y ((c.pairHi b).setWidth 32)
    (((c.ringUndo (.rin h slot)).setRing h (some { r with free := r.free - 1, reserved := r.reserved + 1 })).queueCopy t
      { cmd with ring := some (h, slot) })

end Sys2Proof.Machine
end

