-- ==== Sys2Proof/Machine/GroupIssue.lean ====
section
/-! DEFINITION. Sample-group commands, LAUNCH and CANCEL at issue (R264, R265, R267 to R273). -/

namespace Sys2Proof.Machine

/-- An effect command that claims no tag. -/
def State.groupEffect (s : State) (g : PReg) (k : EffKind) (a : SReg) (b : SPair) (image : Core → Line)
    (faults : Core → List (Bool × Cause)) (f : Core → Core) : Out :=
  s.act fun c => c.effect g (faults c) fun c => f (c.command ⟨k.syll 0 a b g, k, none, c.s a, c.pairLo b, 0, image c⟩)

/-- Doubleword i of a sampled image. -/
def imgWord (m : Line) (i : Nat) : Word := m.extractLsb' (64 * i) 64

/-- The fields of a fork descriptor that raise ILLEGAL (R268). -/
def forkBad (m : Line) : Bool :=
  let w := imgWord m
  let n := (w 1).toNat
  (w 0).extractLsb' 48 16 != 0 || (w 0).toNat % 16 != 0 || n == 0 || n > 64 || (w 3).extractLsb' 48 16 != 0 ||
    (w 4).toNat % 65536 != 0 || (w 5).extractLsb' 48 16 != 0 || (w 5).toNat % 65536 != 0 || (w 6).toNat % 65536 != 0 || w 7 != 0

/-- The descriptor with the parent's SRS and the count of FORKs issued before, as doublewords 8 and 9 (R268). -/
def Core.forkImage (c : Core) (a : Word) : Line :=
  BitVec.ofNat 2048 (c.load a.toNat 64 + 2 ^ 512 * c.ctx.x.srs.toNat + 2 ^ 576 * (c.ctx.forks % 256))

/-- FORK (R267, R268): the descriptor's fields are tested once both areas have passed BOUNDS and ALIGN (R352). -/
def execFork (g : PReg) (a : SReg) (b : SPair) (s : State) : Out :=
  s.groupEffect g .fork a b (fun c => c.forkImage (c.s a))
    (fun c => [(c.ctx.x.grp != 0 || c.ctx.groupFlag == .opened, .illegal),
      (!c.inBounds (c.s a).toNat 64 || !c.inBounds (c.pairLo b).toNat 520, .bounds),
      ((c.s a).toNat % 64 != 0 || (c.pairLo b).toNat % 256 != 0, .align), (forkBad (c.forkImage (c.s a)), .illegal)])
    (·.onCtx fun x => { x with groupFlag := .opened, forks := x.forks + 1 })

/-- GRWD (R270). -/
def execGrwd (g : PReg) (a : SReg) (s : State) : Out :=
  s.groupEffect g .grwd a 0 (fun _ => 0)
    (fun c => [(c.ctx.x.grp == 0 || (c.s a).extractLsb' 32 32 != 0, .illegal)]) id

/-- GBAR (R267, R271). -/
def execGbar (g : PReg) (s : State) : Out :=
  s.groupEffect g .gbar 0 0 (fun _ => 0) (fun c => [(c.ctx.groupFlag != .opened, .illegal)])
    (·.onCtx fun x => { x with groupFlag := .barrierSent })

/-- GCANCEL (R270). After GBAR the flag is not open, and R267 makes it ILLEGAL, where the case table after R273 has it sent: DEDUCED (log 122). -/
def execGcancel (g : PReg) (a : SReg) (s : State) : Out :=
  s.groupEffect g .gcancel a 0 (fun _ => 0)
    (fun c => [(c.ctx.groupFlag != .opened || (c.s a).extractLsb' 6 58 != 0, .illegal)]) id

/-- GQUIT (R270). -/
def execGquit (g : PReg) (s : State) : Out :=
  s.groupEffect g .gquit 0 0 (fun _ => 0) (fun c => [(c.ctx.x.grp == 0, .illegal)]) id

/-- GSTAT: the status word the core mirrors (R273). -/
def execGstat (g : PReg) (b : SPair) (s : State) : Out :=
  s.syl g fun c => c.flyC (Fin.ofNat 64 (2 * b.val)) c.ctx.groupStatus

/-- LAUNCH (R264): the 256 bytes of the record are sampled at issue. -/
def execLaunch (g : PReg) (a : SReg) (b : SPair) (s : State) : Out :=
  s.groupEffect g .launch a b (fun c => c.line (c.s a).toNat)
    (fun c => [((c.pairLo b).extractLsb' 4 60 != 0, .illegal), (!c.inBounds (c.s a).toNat 1, .bounds),
      ((c.s a).toNat % 256 != 0, .align)]) id

/-- CANCEL (R265). -/
def execCancel (g : PReg) (a : SReg) (s : State) : Out :=
  s.groupEffect g .cancel a 0 (fun _ => 0) (fun c => [((c.s a).extractLsb' 48 16 != 0, .illegal)]) id

end Sys2Proof.Machine
end

