-- ==== Sys2Proof/Machine/LogEngine.lean ====
section
/-! DEFINITION. Logs: joins, releases, horizons, compaction and the log timeout (R204, R205, R209, R212, R213, R241, R242). -/

namespace Sys2Proof.Machine

/-- The log of a task updated. -/
def State.onLog (s : State) (tid : Word) (f : Log → Log) : State :=
  { s with logs := s.logs.map fun l => if l.tid == tid then f l else l }

/-- The offset of a log in its launch's area: task j at j, sibling k of parent j at cores + 64 j + k, in units of the log size (R252). -/
def logIndex (cores : Nat) (tid : Word) : Nat :=
  let i := (tid.extractLsb' 0 16).toNat
  if i < 0x8000 then i else cores + (i - 0x8000)

/-- The log of a TID's first holder: empty (R241, R252). -/
def Launch.newLog (l : Launch) (tid : Word) (holder : Nat) : Log :=
  let size := 4096 * if l.lrec.logsize = 0 then 64 else l.lrec.logsize
  { tid := tid, launch := l.num, holder := holder, size := size, next := 0, count := 0, recs := [], sticky := 0, dropped := 0
    base := if l.lrec.logbase = 0 then none else some (l.lrec.logbase + logIndex l.lrec.cores tid * size) }

/-! ### Joining (R241, R242) -/

/-- Why a record of a segment may not join: its page's translation, mode, poison, or a prompt extent (R242, R268). -/
def State.recordDenied (s : State) (sp : Space) (tid : Word) (priv : Bool) (r : LogRec) : Option Word :=
  match s.resolve sp priv .append r.addr.toNat with
  | .error x => some x
  | .ok p => if s.poisoned p.dpa then some stPoison else if s.guarded sp tid r.addr.toNat false then some stPermission else none

/-- n doublewords of a record written into the log's area, or the failure of its page (R252). -/
def State.logPut (s : State) (sp : Space) (va v : Nat) : Nat → Except Word State
  | 0 => .ok s
  | n + 1 =>
    match s.writeVa sp va 8 v with
    | .error x => .error x
    | .ok t => t.logPut sp (va + 8) (v / 2 ^ 64) n

/-- A record placed at the end of a log, after a pad where it would cross the end of the area (R241), as one of the task that wrote it, by the
number taken at its start. -/
def State.joinRec (s : State) (sp : Space) (base born : Nat) (l : Log) (r : LogRec) : Except Word (State × Log) :=
  let (o, pad) := placeRec l.size l.next r.len
  let padded : List Joined := if pad = 0 then [] else [⟨l.next, pad, l.count, born, none, none⟩]
  match s.logPut sp (base + l.next) 0 (pad / 8) with
  | .error x => .error x
  | .ok s =>
    match s.logPut sp (base + o) (r.kind.val * 2 ^ 48 + r.addr.toNat + 2 ^ 64 * r.data.toNat) (r.len / 8) with
    | .error x => .error x
    | .ok s => .ok (s, { l with next := o + r.len, count := l.count + 1, recs := l.recs ++ padded ++ [⟨o, r.len, l.count, born, some r, none⟩] })

/-- Records joined one after another. -/
def State.joinRecs (s : State) (sp : Space) (base born : Nat) (l : Log) : List LogRec → Except Word (State × Log)
  | [] => .ok (s, l)
  | r :: rest =>
    match s.joinRec sp base born l r with
    | .error x => .error x
    | .ok (s, l) => s.joinRecs sp base born l rest

/-- What records take in an area, from the next free offset: an offset and a length for each pad and each record (R241). -/
def placedAt (size pos : Nat) : List LogRec → List (Nat × Nat)
  | [] => []
  | r :: l =>
    let (o, pad) := placeRec size pos r.len
    (if pad = 0 then [] else [(pos, pad)]) ++ (o, r.len) :: placedAt size (o + r.len) l
/-- The check of the entries that the walks of n bytes written read, which lie on one page of 64 KiB or on two (R196). -/
def State.checkSpan (s : State) (sp : Space) (va n : Nat) : State :=
  let s := s.checkWalk sp va
  if (va + n - 1) / 65536 = va / 65536 then s else s.checkWalk sp (va + n - 1)
/-- The check of what the walks of a segment's records, and of the places that they and their pads take in their log, read (R196). -/
def State.checkSegment (s : State) (sp : Space) (l : Log) (seg : List LogRec) : State :=
  match l.base with
  | none => s
  | some base =>
    (placedAt l.size l.next seg).foldl (fun s p => s.checkSpan sp (base + p.1) p.2)
      (seg.foldl (fun s r => s.checkWalk sp r.addr.toNat) s)

/-- A pending segment joins the log whole, or is dropped with a sticky code (R242). -/
def State.joinSegment (s : State) (sp : Space) (tid : Word) (priv : Bool) (seg : List LogRec) : State :=
  if seg.isEmpty then s
  else
    match s.logOf tid with
    | none => s
    | some l =>
      let s := s.checkSegment sp l seg
      let drop (x : Word) := s.onLog tid fun l => { l with sticky := if l.sticky = 0 then x else l.sticky, dropped := l.dropped + 1 }
      match l.base, seg.findSome? (s.recordDenied sp tid priv) with
      | none, _ => drop stPermission
      | some _, some x => drop x
      | some base, none =>
        match s.joinRecs sp base (((s.taskOf tid).map (·.born)).getD l.holder) l seg with
        | .error x => drop x
        | .ok (t, l) => seg.foldl (fun s r => match s.resolve sp priv .append r.addr.toNat with
          | .ok p => s.dropRecords p.dpa r.bytes
          | .error _ => s) (t.onLog tid fun _ => l)

/-! ### Releases and horizons (R205, R243) -/

/-- A release under a number: every record of the log that is not yet released; the release is the first to be numbered after they joined
(R203). -/
def Log.release (l : Log) (n : Nat) : Log := { l with recs := l.recs.map fun r => if r.release.isNone then { r with release := some n } else r }

/-- A release of a task's log: the segments dropped since the last one, its sticky code, and both cleared (R242, R243). -/
def State.release (s : State) (tid : Word) (n : Nat) : State × Nat × Word :=
  match s.logOf tid with
  | none => (s, 0, stOk)
  | some l => (s.onLog tid fun l => { l.release n with sticky := 0, dropped := 0 }, min l.dropped 255, l.sticky)

/-- A horizon set for the log of one holder (R205). -/
def Task.setHorizon (t : Task) (w n : Nat) : Task := { t with horizons := (w, n) :: t.horizons.filter (·.1 != w) }
/-- A horizon set for every log (R205). -/
def Task.setAll (t : Task) (n : Nat) : Task := { t with horizon := n, horizons := [] }
/-- Horizons raised by an acquire that is complete; none falls below what a forced advance has set since its number was given (R205, R213). -/
def Task.raise (t : Task) : Raise → Task
  | .none => t
  | .all n => { t with horizon := max t.horizon n, horizons := t.horizons.filter (max t.horizon n < ·.2) }
  | .logs ws n => ws.foldl (fun t w => if View.at ⟨t.horizon, t.horizons, 0, (0, 0)⟩ w < n then t.setHorizon w n else t) t
/-- The tasks that the logs of a launch, or records in them, are of, by the numbers taken at their starts. -/
def State.holders (s : State) (n : Nat) : List Nat :=
  ((s.logs.filter (·.launch == n)).flatMap fun l => l.holder :: l.recs.map (·.holder)).filter (· != 0)
/-- The least horizon of a task over every log of its launch (R212, R213). A log that no task has held has no record to lag behind: log 90. -/
def State.leastOf (s : State) (t : Task) : Nat := (s.holders t.launch).foldl (fun m w => min m ((s.viewOf t (0, 0)).at w)) s.seq

/-! ### Compaction (R212) -/

/-- The floor of a launch: the least horizon of its live tasks; with no live task every release lies below it. -/
def State.floor (s : State) (n : Nat) : Nat := (s.tasksOf n).foldl (fun m t => min m (s.leastOf t)) s.seq

/-- Bytes of a home copy kept for a command that has reads to start: its view does not change under it (R207). -/
def Cmd.keeps (m : Cmd) (h : Mem) (cells : List Nat) : Cmd :=
  if m.phase == .running && m.starting then { m with kept := m.kept ++ cells.map fun i => (i, m.home h i) } else m
/-- A record's bytes folded into the home copy of its page. -/
def State.foldRec (s : State) (sp : Space) (n : Nat) (r : LogRec) : State :=
  let s := s.checkWalk sp r.addr.toNat
  match s.resolve sp true .read r.addr.toNat with
  | .error _ => s
  | .ok p =>
    let cells := (List.range r.bytes).map fun i => cellOf p.pat (p.dpa + i)
    let s1 := (s.tasksOf n).foldl (fun s t => if t.stand = .onCore then s.onCore t.core fun c => c.onRun fun x =>
      { x with copies := x.copies.map (·.keeps s.hbm cells) } else s) s
    { s1 with hbm := hbmPut s.hbm p.pat p.dpa r.data.toNat r.bytes }

/-- Every record of a launch released at or below its floor is folded, in the order of R209, and its space freed (R212). That it is not read
back from the log's area in HBM is a DESIGN CHOICE (log 112). -/
def State.compact (s : State) (n : Nat) : State :=
  match s.launchOf n with
  | none => s
  | some l =>
    let low := s.floor n
    let under (r : Joined) : Bool := (r.release.map fun k => decide (k ≤ low)).getD false
    let all := (s.logs.filter (·.launch == n)).flatMap fun g => (g.recs.takeWhile under).filterMap fun r =>
      match r.entry, r.release with
      | some e, some k => some (k, e)
      | _, _ => none
    let s := ((all.foldl (fun l r => insertRec r l) []).map (·.2)).foldl (fun s r => s.foldRec l.space n r) s
    { s with logs := s.logs.map fun g => if g.launch == n then { g with recs := g.recs.dropWhile under } else g }

/-- LOG_COMPACTION (R212). -/
def execLogCompaction (s : State) : Out :=
  match s.arg with
  | .launch n => .next (s.compact n)
  | _ => .next s

/-! ### The log timeout (R213) -/

/-- STALE-VIEW reaches a task: its horizons move to a fresh number, and it traps; a suspended task takes it at its resumption; a parent
past its END is ended by it, and with a cancel drops it (R326, R351). -/
def State.stale (s : State) (t : Task) (detail : BitVec 32) : State :=
  match t.stand with
  | .onCore =>
    let (n, s) := s.number
    (s.onTask t.tid (·.setAll n)).onCore t.core (·.asyncFault ⟨.staleView, 0, 0, none, none, detail, 0, 0, .normal⟩)
  | .suspended => s.onTask t.tid fun t =>
      if t.held.any (·.cause == .staleView) then t else { t with held := t.held ++ [⟨.staleView, 0, 0, none, none, detail, 0, 0, .normal⟩] }
  | .parked =>
    let (n, s) := s.number
    (s.onTask t.tid fun t => { t.setAll n with held := if t.cancel then [] else [⟨.staleView, 0, 0, none, none, detail, 0, 0, .normal⟩] }).soon
      [.dev .taskRetirement (.task t.tid)]

/-- Calendar clocks of a launch's log timeout: units of 1,024 distributor cycles of 4 clocks; 0 means 1,000 units (R213, R252). -/
def Launch.timeoutClocks (l : Launch) : Nat := 4096 * if l.lrec.timeout = 0 then 1000 else l.lrec.timeout

/-- LOG_TIMEOUT (R213): the freeze of a core on its full log has lasted the timeout. Every lagging task receives STALE-VIEW; with only
unreleased records in the log the writer receives it. -/
def execLogTimeout (s : State) : Out :=
  match s.arg with
  | .core k =>
    let c := s.cores[k]
    match c.run.fullSince, s.launchOn k, s.logOf c.ctx.x.tid, s.taskOf c.ctx.x.tid with
    | some t0, some l, some g, some t =>
      if s.now < t0 + l.timeoutClocks then .next s
      else
        let s := s.onCore k fun c => c.onRun fun r => { r with fullSince := some s.now }
        match g.recs.findSome? (·.release) with
        | none => .next (s.stale t 1)
        | some r => .next ((((s.tasksOf l.num).filter fun t => s.leastOf t < r).foldl (fun s t => s.stale t 0) s).later
            (.dev .logCompaction (.launch l.num)))
    | _, _, _, _ => .next s
  | _ => .next s

end Sys2Proof.Machine
end

