-- ==== Sys2Proof/Machine/TagTable.lean ====
section
/-! DEFINITION. The software tag table (R176, R177, R239). -/

namespace Sys2Proof.Machine

/-- The entry of a way in a sparse table; an unlisted way holds 0. -/
def wayGet (l : List (Nat × Word)) (w : Nat) : Word := ((l.find? (·.1 == w)).map (·.2)).getD 0
/-- A way written; an entry of 0 is not listed. -/
def waySet (l : List (Nat × Word)) (w : Nat) (e : Word) : List (Nat × Word) :=
  match l with
  | [] => if e = 0 then [] else [(w, e)]
  | x :: r =>
    if x.1 = w then (if e = 0 then r else (w, e) :: r)
    else if w < x.1 then (if e = 0 then l else (w, e) :: l)
    else x :: waySet r w e

/-- The table a lookup sees: the committed one and the pending changes of every region, in issue order (R177). Regions and their
changes are listed newest first. -/
def Core.tagView (c : Core) : List (Nat × Word) :=
  c.run.regions.foldr (fun r t => r.tagOps.foldr (fun o t => waySet t o.way o.entry) t) c.run.tagTable

/-- The key in s_a (R239). -/
def tagKey (a : Word) : BitVec 36 := a.extractLsb' 12 36
/-- The way of a key's set that holds the key (R176). -/
def wayOf (t : List (Nat × Word)) (key : BitVec 36) : Option Nat :=
  (List.range 4).find? fun w =>
    let e := wayGet t (4 * (key.toNat % 1024) + w)
    e.getLsbD 63 && e.extractLsb' 0 36 == key
/-- An entry (R176). -/
def tagEntry (slot : BitVec 10) (key : BitVec 36) : Word :=
  BitVec.twoPow 64 63 ||| (slot.setWidth 64 <<< 42) ||| key.setWidth 64

/-- A pending change of the table (R177). -/
def Core.tagChange (c : Core) (way : Nat) (e : Word) : Core := c.onRegion fun r => { r with tagOps := ⟨way, e⟩ :: r.tagOps }

/-- TLOOK (R239). -/
def execTlook (g : PReg) (d a : SReg) (s : State) : Out :=
  s.syl g fun c =>
    let key := tagKey (c.s a)
    match wayOf c.tagView key with
    | some w => c.flyC d (((wayGet c.tagView (4 * (key.toNat % 1024) + w)).extractLsb' 42 10).setWidth 64 <<< 12)
    | none => c.flyC d (BitVec.allOnes 64)
/-- TINS (R239). -/
def execTins (g : PReg) (d a b : SReg) (s : State) : Out :=
  s.csyl g (fun c => [((c.s b).extractLsb' 12 52 != 0, .illegal)]) fun c =>
    let key := tagKey (c.s a)
    let w := 4 * (key.toNat % 1024) + (wayOf c.tagView key).getD ((c.s b).extractLsb' 10 2).toNat
    (c.flyC d (wayGet c.tagView w)).tagChange w (tagEntry ((c.s b).extractLsb' 0 10) key)
/-- TDEL (R239). -/
def execTdel (g : PReg) (d a : SReg) (s : State) : Out :=
  s.syl g fun c =>
    let key := tagKey (c.s a)
    match wayOf c.tagView key with
    | some w => (c.flyC d (wayGet c.tagView (4 * (key.toNat % 1024) + w))).tagChange (4 * (key.toNat % 1024) + w) 0
    | none => c.flyC d 0

end Sys2Proof.Machine
end

