-- ==== Sys2Proof/Machine/Weir.lean ====
section
/-! DEFINITION. The sequencer, the Weirs and publication (R199, R204, R205, R215, R218, R243 to R248). -/

namespace Sys2Proof.Machine

/-! ### Sync variables (R173, R199) -/

/-- Where a variable is: in the Weir's SRAM, in the overflow area at a DPA, or nowhere. -/
def State.syncAt (s : State) (var : Nat) : Option (Option Nat) :=
  let i := var % 2 ^ 30
  if i < 0x80000 then some none
  else
    let o := s.mgmt.ovf.toList.getD (var / 2 ^ 30) 0
    if i - 0x80000 < 4096 * (o.extractLsb' 40 24).toNat then some (some ((o.extractLsb' 0 40).toNat + 8 * (i - 0x80000))) else none
/-- The value of a variable; an unlisted one is 0. -/
def State.syncGet (s : State) (var : Nat) : Word :=
  match s.syncAt var with
  | some (some a) => memBits s.hbm 64 a 8
  | _ => wayGet s.sync var
/-- The check of what is read of a variable in the overflow area (R196). -/
def State.checkSync (s : State) (var : Nat) : State :=
  match s.syncAt var with
  | some (some a) => s.checkRead 0 a 8
  | _ => s
/-- A variable of the overflow area lies in a poisoned page (R197). -/
def State.syncLost (s : State) (var : Nat) : Bool :=
  match s.syncAt var with
  | some (some a) => s.poisoned a
  | _ => false
/-- A variable written. -/
def State.syncPut (s : State) (var : Nat) (v : Word) : State :=
  match s.syncAt var with
  | some (some a) => { s with hbm := memPut s.hbm a v.toNat 8 }
  | some none => { s with sync := waySet s.sync var v }
  | none => s

/-! ### Results (R243, R244) -/

/-- Horizons raised for a task; compaction looks again (R205, R212). -/
def State.raise (s : State) (t : Task) (up : Raise) : State :=
  if up = .none then s else (s.onTask t.tid (·.raise up)).later (.dev .logCompaction (.launch t.launch))
/-- A command is complete: its result word, then its tag; an acquire's horizons apply from now on, and it holds copies no longer; the next
effect command may be sent (R205, R206, R215, R219). -/
def State.complete (s : State) (t : Task) (tag : TagId) (addr : Nat) (word : Option Word) (status : Word) (up : Raise) : State :=
  let s := s.raise t up
  let s := match word with
    | some w => (s.checkTask t addr 8).taskPut t addr w.toNat 8
    | none => s
  let s := if t.stand = .onCore then s.onCore t.core (·.acquired tag) else s
  ((s.checkTags t).taskTag t tag status).accept t
/-- The answer to a command, from its engine to the core of its task over the free crossing from there, 6 from the quadrants and 5 from the
base die; a task off its core has it at once (R347). The core holds its next command back until the answer is there: log 58. -/
def State.answerBy (s : State) (j : Fin 10) (i : Instr) (t : Task) (tag : TagId) (addr : Nat) (word : Option Word) (status : Word)
    (up : Raise) : State :=
  if t.stand = .onCore then s.cross t.core j (.dev i (.reply t.tid t.born tag addr word status up))
  else s.complete t tag addr word status up
/-- The answer of a Weir. -/
def State.answer (s : State) (t : Task) (tag : TagId) (addr : Nat) (word : Option Word) (status : Word) : State :=
  s.answerBy 6 .weirOperation t tag addr word status .none
/-- A step of an engine that takes commands: an answer at the end of its crossing is delivered, wherever its task is by then; anything else is
a command's arrival. -/
def State.orReply (s : State) (arrival : Out) : Out :=
  match s.arg with
  | .reply tid born tag addr word status up =>
    match (s.taskOf tid).filter (·.born == born) with
    | some t => .next (s.complete t tag addr word status up)
    | none => .next s
  | _ => arrival

/-! ### Semaphores and barriers (R246, R247) -/

/-- Grants in FIFO order while the value covers the head's k (R246). -/
def State.grant (s : State) (var : Nat) : Nat → State
  | 0 => s
  | n + 1 =>
    match s.sems.find? (·.var == var) with
    | none => s
    | some w =>
      let v := s.syncGet var
      if v.toInt < w.n then s
      else
        let v1 := v - BitVec.ofNat 64 w.n
        let s := { s.syncPut var v1 with sems := s.sems.erase w }
        let s := match s.taskOf w.tid with
          | some t => s.answer t w.tag w.addr (some v1) stOk
          | none => s
        s.grant var n

/-- The waits pending on a variable fail with a status: their tags complete, and no result word is written (R197). -/
def State.failWaits (s : State) (var : Nat) (status : Word) : State :=
  ((s.sems ++ s.bars).filter (·.var == var)).foldl (fun s w =>
    match s.taskOf w.tid with
    | some t => s.answer t w.tag w.addr none status
    | none => s) { s with sems := s.sems.filter (·.var != var), bars := s.bars.filter (·.var != var) }
/-- Every grant that is due on a variable; waits on one whose page is poisoned by now fail with POISON (R197): log 99. -/
def State.grants (s : State) (var : Nat) : State :=
  let s := s.checkSync var
  if s.syncLost var then s.failWaits var stPoison else s.grant var s.sems.length

/-- An arrival at a barrier (R247): it passes, and completes every pending arrival in order, or stays pending. -/
def State.arrive (s : State) (w : Waiter) (n : Nat) : State :=
  let v := s.syncGet w.var
  let pos := (v.extractLsb' 0 32).toNat
  let gen := (v.extractLsb' 32 32).toNat
  let count := (pos + 1) % 2 ^ 32
  let s := { s with bars := s.bars ++ [{ w with n := pos }] }
  if count < n then s.syncPut w.var (BitVec.ofNat 64 (gen * 2 ^ 32 + count))
  else
    let gen := (gen + 1) % 2 ^ 32
    let waiting := s.bars.filter (·.var == w.var)
    let s := { s.syncPut w.var (BitVec.ofNat 64 (gen * 2 ^ 32)) with bars := s.bars.filter (·.var != w.var) }
    waiting.foldl (fun s x =>
      match s.taskOf x.tid with
      | some t => s.answer t x.tag x.addr (some (BitVec.ofNat 64 (gen * 2 ^ 32 + x.n))) stOk
      | none => s) s

/-- A task's waiters leave their queues: their tags complete with the status, no result word is written, and waiters behind them are
granted (R246, R247, R261). -/
def State.withdraw (s : State) (tid : Word) (status : Word) : State :=
  let vars := (s.sems.filter (·.tid == tid)).map (·.var)
  let mine := (s.sems ++ s.bars).filter (·.tid == tid)
  let s := { s with sems := s.sems.filter (·.tid != tid), bars := s.bars.filter (·.tid != tid) }
  let s := mine.foldl (fun s w =>
    match s.taskOf tid with
    | some t => s.answer t w.tag 0 none status
    | none => s) s
  vars.foldl (fun s v => s.grants v) s

/-- The value an atomic leaves (R245); expected is the operand SYN.CAS sampled at issue. Comparisons are signed. -/
def atomicValue (k : EffKind) (v x expected : Word) : Word :=
  match k with
  | .synAdd => v + x
  | .synCas => if v = expected then x else v
  | .synMin => if x.toInt < v.toInt then x else v
  | .synMax => if v.toInt < x.toInt then x else v
  | .synXch => x
  | _ => v

/-- WEIR_OPERATION (R197, R218, R244 to R247): the command a core has sent takes effect on its variable, and its answer goes back, with which
it completes; a wait or a barrier arrival may stay pending, but not one of a task cancelled off its core. A command on a variable in a
poisoned page changes nothing and completes with POISON: log 99. -/
def execWeirOperation (s : State) : Out :=
  s.orReply <| match s.sender s.arg with
  | some (t, e) =>
    let var := (e.a.extractLsb' 0 32).toNat
    let tag := e.tag.getD 0
    let addr := e.b.toNat
    let pend (s : State) : State := if t.stand = .onCore then s else s.withdraw t.tid stCancelled
    if (s.syncAt var).isNone then .next (s.answer t tag addr none stTranslation)
    else
      let s := s.checkSync var
      let v := s.syncGet var
      if s.syncLost var then .next ((s.answer t tag addr none stPoison).grants var)
      else match e.kind with
      | .synPost =>
        let v1 := v + e.c
        .next (((s.syncPut var v1).answer t tag addr (some v1) stOk).grants var)
      | .synWait => .next (pend (({ s with sems := s.sems ++ [⟨var, t.tid, tag, addr, e.c.toNat⟩] } : State).grants var))
      | .synBar => .next (pend ((s.arrive ⟨var, t.tid, tag, addr, 0⟩ e.c.toNat).grants var))
      | kind =>
        .next (((s.syncPut var (atomicValue kind v e.c (e.image.extractLsb' 0 64))).answer t tag addr (some v) stOk).grants var)
  | none => .next s

/-! ### The sequencer (R204, R205, R210, R243) -/

/-- A TID of a launch: a task index below cores, or a sibling of one of its tasks (R243). -/
def tidOfLaunch (l : Launch) (tid : Word) : Bool :=
  let i := (tid.extractLsb' 0 16).toNat
  launchNo tid == l.num && (i < l.lrec.cores || (0x8000 ≤ i && (i - 0x8000) / 64 < l.lrec.cores))

/-- The tasks of a launch placed on a site; a suspended one counts at the core it last ran on (R205, R243). site is CORE[8:3]. -/
def State.tasksAt (s : State) (n : Nat) (site : Nat) : List Task := (s.tasksOf n).filter fun t => coreNumber t.core / 8 == site

/-- SEQUENCER_NUMBERING (R203 to R206, R243): the command a task has sent is numbered; its release, of every append joined by now, takes effect,
and its answer goes back, with which the horizons of its acquire rise. -/
def execSequencerNumbering (s : State) : Out :=
  s.orReply <| match s.sender s.arg with
  | some (t, e) =>
    match s.launchOf t.launch with
    | some l =>
      let tag := e.tag.getD 0
      let addr := e.b.toNat
      let (n, s) := s.number
      let num := BitVec.ofNat 64 (n % 2 ^ 48)
      let reply (s : State) := s.answerBy 5 .sequencerNumbering t tag addr
      match e.kind with
      | .rel =>
        let (s, dropped, sticky) := s.release t.tid n
        .next (reply s (some (BitVec.ofNat 64 (dropped * 2 ^ 48) ||| num)) (if dropped = 0 then stOk else sticky) .none)
      | .phase =>
        let (s, dropped, sticky) := s.release t.tid n
        .next (reply s (some (BitVec.ofNat 64 (dropped * 2 ^ 48) ||| num)) (if dropped = 0 then stOk else sticky) (.all n))
      | .acq =>
        if tidOfLaunch l e.a then .next (reply s (some num) stOk (.logs [s.holderOf e.a] n)) else .next (reply s (some num) stPermission .none)
      | .acqs => .next (reply s (some num) stOk (.logs ((s.tasksAt l.num (e.a.extractLsb' 3 6).toNat).map (·.born)) n))
      | _ => .next s
    | none => .next s
  | none => .next s

/-! ### Publication (R221, R248) -/

/-- PUBLISH_COUNTER_WRITE (R248): the version is written to its counter in host memory and the answer goes back; a failure of the link is a
free value. -/
def execPublishCounterWrite (s : State) : Out :=
  s.orReply <| match s.sender s.arg with
  | some (t, e) =>
    let tag := e.tag.getD 0
    let down := Config.freeNat s.free 0 % 2 = 1
    let reply (s : State) (x : Word) := s.answerBy 5 .publishCounterWrite t tag 0 none x .none
    let s := s.draw
    match s.hostAddr e.b 8 with
    | .error x => .next (reply s x)
    | .ok a =>
      if e.b.toNat % 8 != 0 then .next (reply s stPermission)
      else if down then .next (reply s stFabric)
      else .next (reply { s with host := memPut s.host a e.c.toNat 8 } stOk)
  | none => .next s

end Sys2Proof.Machine
end

