-- ==== Sys2Proof/Machine/Groups.lean ====
section
/-! DEFINITION. Cancels on their way, and the group engine (R215, R260, R267 to R273, R289 to R292). -/

namespace Sys2Proof.Machine

/-- A cancel on its way to a task (R260, R353). -/
def State.sendCancel (s : State) (tid : Word) : State :=
  match s.taskOf tid with
  | some t =>
    let d : Due := .dev .cancelDelivery (.born tid t.born)
    if t.stand = .onCore then s.cross t.core 5 d else s.later d
  | none => s

/-! ### Groups -/

/-- The group of a handle. -/
def State.groupOf (s : State) (h : BitVec 32) : Option Group := s.groups.find? (·.handle == h)
/-- A group updated. -/
def State.onGroup (s : State) (h : BitVec 32) (f : Group → Group) : State :=
  { s with groups := s.groups.map fun g => if g.handle == h then f g else g }
/-- The TID of a sibling (R268). -/
def Group.sib (g : Group) (k : Nat) : Word :=
  BitVec.ofNat 64 (g.launch * 65536 + 0x8000 + 64 * (g.parent.extractLsb' 0 16).toNat + k)
/-- The siblings that have not retired. -/
def State.siblings (s : State) (g : Group) : List Task := s.tasks.filter (·.group == g.handle)
/-- A parent's most recent group. -/
def State.latestGroup (s : State) (parent : Word) : Option Group := (s.groups.filter (·.parent == parent)).getLast?

/-- A slot that holds a deposit, with its reward. -/
def Slot.reward : Slot → Option (BitVec 32)
  | .deposited r => some r
  | _ => none
/-- Slots withdrawn, retired without a deposit, or ended by a fault (R273). -/
def Slot.gone : Slot → Bool
  | .withdrawn => true
  | .faulted => true
  | _ => false
/-- Slots that meet a condition. -/
def Group.tally (g : Group) (p : Slot → Bool) : Nat := (g.slots.filter p).length
/-- The status word (R273). -/
def Group.statusWord (g : Group) : Word :=
  BitVec.ofNat 64 ((if g.done then 2 ^ 63 else 0) + (if g.failed then 2 ^ 62 else 0) + g.stat.toNat * 2 ^ 59 + g.n * 2 ^ 48 +
    g.tally (· == .timedOut) * 2 ^ 32 + g.tally Slot.gone * 2 ^ 24 + g.tally (· == .cancelled) * 2 ^ 16 +
    g.tally (· == .pending) * 2 ^ 8 + g.tally (·.reward.isSome))

/-! ### The mirrored status (R273, R292) -/

/-- The status word a task's core mirrors, wherever the task is. -/
def State.putStatus (s : State) (t : Task) (w : Word) : State :=
  if t.stand = .onCore then s.onCore t.core fun c => c.onCtx fun x => { x with groupStatus := w }
  else s.onTask t.tid fun t => { t with status := w }
/-- A member's mirror takes the group's status as it stands: a parent's only for its most recent group. -/
def State.mirror (s : State) (h : BitVec 32) (tid : Word) : State :=
  match s.groupOf h, s.taskOf tid with
  | some g, some t =>
    if t.group == h || (s.latestGroup tid).map (·.handle) == some h then s.putStatus t g.statusWord else s
  | _, _ => s
/-- The tasks that mirror a group's status. -/
def State.members (s : State) (g : Group) : List Word := g.parent :: (s.siblings g).map (·.tid)
/-- A change of a group's status on its way to members: over the crossing from the quadrants to the core of one that is on its core (R347,
R353). -/
def State.sendStatus (s : State) (h : BitVec 32) (l : List Word) : State :=
  l.foldl (fun s w =>
    let d : Due := .dev .groupStatusMirror (.status h w)
    match (s.taskOf w).filter (·.stand == .onCore) with
    | some t => s.cross t.core 6 d
    | none => s.later d) s
/-- A change of a group's status on its way to all its members. -/
def State.mirrors (s : State) (h : BitVec 32) : State :=
  match s.groupOf h with
  | some g => s.sendStatus h (s.members g)
  | none => s

/-- GROUP_STATUS_MIRROR (R273). -/
def execGroupStatusMirror (s : State) : Out :=
  match s.arg with
  | .status h tid => .next (s.mirror h tid)
  | _ => .next s

/-! ### Slots (R270, R289) -/

/-- The barrier of a group can complete (R271). -/
def Group.passes (g : Group) : Bool := g.barrier && !g.done && g.slots.all (· != .pending)
/-- A group whose every sibling is decided before its placement needs none. -/
def Group.settle (g : Group) : Group := if g.slots.all (· != .pending) then { g with placed := true } else g
/-- The siblings of a group that are never started: their TIDs name empty logs from now on (R243, R289). -/
def State.emptyLogs (s : State) (g : Group) (never : List Nat) : State :=
  never.foldl (fun s k => s.onLog (g.sib k) fun l => { l with holder := 0 }) s
/-- A slot takes an outcome. A sibling whose slot takes one before the placement is never started. A group that is settled before its placement
keeps its parent off its core no longer. -/
def State.setSlot (s : State) (h : BitVec 32) (k : Nat) (v : Slot) : State :=
  let was := (s.groupOf h).any (·.placed)
  let s := (s.onGroup h fun g => ({ g with slots := g.slots.set k v } : Group).settle).mirrors h
  match s.groupOf h with
  | some g =>
    let s := if was then s else s.emptyLogs g [k]
    let s := if g.placed && !was then s.soon [.dev .taskRetirement (.task g.parent)] else s
    if g.passes then s.soon [.dev .groupBarrierComplete (.group h)] else s
  | none => s
/-- A slot that is pending takes an outcome; any other keeps its own. -/
def State.decideSlot (s : State) (h : BitVec 32) (k : Nat) (v : Slot) : State :=
  match s.groupOf h with
  | some g => if g.slots[k]? == some .pending && !g.done then s.setSlot h k v else s
  | none => s

/-- A cancel for a sibling: sent where it runs or is suspended; before its placement it is never started (R289). -/
def State.cancelSibling (s : State) (h : BitVec 32) (k : Nat) : State :=
  match s.groupOf h with
  | none => s
  | some g =>
    if g.placed then (if (s.siblings g).any (·.tid == g.sib k) then s.sendCancel (g.sib k) else s)
    else s.decideSlot h k .withdrawn
/-- A cancel for every sibling of a group, or for those whose slots are pending. -/
def State.cancelGroup (s : State) (h : BitVec 32) (pendingOnly : Bool) : State :=
  match s.groupOf h with
  | none => s
  | some g => (List.range g.n).foldl (fun s k =>
      if pendingOnly && g.slots[k]? != some .pending then s else s.cancelSibling h k) s

/-- Groups whose barrier has completed and whose siblings have retired leave their entries (R268). -/
def State.freeGroups (s : State) : State :=
  { s with groups := s.groups.filter fun g => !(g.done && !s.groupLive g) }

/-! ### Commands (R267, R268, R270, R271) -/

/-- GROUP_ENGINE_COMMAND (R270, R271): the command a task has sent reaches the engine. -/
def execGroupEngineCommand (s : State) : Out :=
  match s.sender s.arg with
  | some (t, e) =>
    let own := (t.tid.extractLsb' 0 6).toNat
    match e.kind with
    | .grwd => .next ((s.decideSlot t.group own (.deposited (e.a.setWidth 32))).accept t)
    | .gquit => .next ((s.decideSlot t.group own .withdrawn).accept t)
    | .gcancel =>
      let i := (e.a.extractLsb' 0 6).toNat
      match s.latestGroup t.tid with
      | none => .next (s.accept t)
      | some g =>
        if g.done || i ≥ g.n then .next (s.accept t)
        else
          let s1 := if g.slots[i]?.any fun v => v == .pending || v.reward.isSome then s.setSlot g.handle i .cancelled else s
          .next ((if g.placed then s1.cancelSibling g.handle i else s1).accept t)
    | .gbar =>
      match s.latestGroup t.tid with
      | none => .next (s.accept t)
      | some g =>
        let s := s.onGroup g.handle fun g => { g with barrier := true }
        .next (s.soon [.dev .groupBarrierComplete (.group g.handle)])
    | _ => .next s
  | none => .next s

/-- An entry of a die's group table that no live group holds (R268); that it is the lowest such is a DESIGN CHOICE (log 115). -/
def State.freeEntry (s : State) (die : Nat) : Option Nat :=
  (List.range 4096).find? fun i => !s.groups.any fun g =>
    (g.handle.extractLsb' 29 2).toNat == die && (g.handle.extractLsb' 17 12).toNat == i

/-- The group a FORK forms, from its descriptor and what stood at its issue (R268). -/
def newGroup (h : BitVec 32) (launch : Nat) (prio : Nat) (parent : Word) (e : EffCmd) : Group :=
  let w := imgWord e.image
  { handle := h, launch := launch, parent := parent, n := (w 1).toNat, entry := w 0, arg := w 2, arena := (w 3).toNat
    stride := w 4, prompt := (w 5).toNat, length := (w 6).toNat, srs := (w 8).toNat, result := e.b.toNat
    slots := List.replicate (w 1).toNat .pending, placed := false, failed := false, barrier := false, done := false, stat := 0
    count := 0, cand := ⟨prio, none, false⟩ }

/-- FORK_ACCEPT (R268, R269): the engine of the parent's die takes the FORK, or it waits for a free entry. A group of a parent whose
END has committed, or of a cancelled launch, is cancelled at once. -/
def execForkAccept (s : State) : Out :=
  match s.sender s.arg with
  | some (t, e) =>
    match s.launchOf t.launch with
    | some l =>
      if e.kind != .fork then .next s
      else
        match s.freeEntry (t.core.val / 96) with
        | none => .next (s.later (.dev .forkAccept s.arg))
        | some i =>
          let c := s.cores[t.core]
          let h := BitVec.ofNat 32 (2 ^ 31 + t.core.val / 96 * 2 ^ 29 + i * 2 ^ 17 +
            (t.tid.extractLsb' 0 9).toNat * 2 ^ 8 + (imgWord e.image 9).toNat % 256)
          let s := ({ s with groups := s.groups ++ [newGroup h l.num l.lrec.prio t.tid e] } : State).mirrors h
          let doomed := l.cancelled || l.overWear || t.stand != .onCore || (c.run.phase == .ended && c.run.regions.isEmpty)
          .next ((if doomed then s.cancelGroup h false else s).accept t)
    | none => .next s
  | none => .next s

/-! ### The deadline (R269, R270, R281) -/

/-- A task's pre-emption has been taken, its save yet to be made; one that stood frozen in a loop first returns to its head (R275). -/
def Run.taken (r : Run) : Bool := r.phase == .preempting || (r.preempt && !r.cancel && r.trap.any (·.kind == .quiet))
/-- The group's active cycles run: it is placed and none of its unretired siblings is suspended or has been taken (R269, R281). -/
def State.groupActive (s : State) (g : Group) : Bool :=
  g.placed && !g.done && (s.siblings g).all fun t => t.stand == .onCore && !s.cores[t.core].run.taken

/-- GROUP_DEADLINE (R269, R270): one group-active cycle ends; at the deadline every pending slot times out, and its sibling is
cancelled. -/
def execGroupDeadline (s : State) : Out :=
  match s.arg with
  | .group h =>
    match s.groupOf h with
    | none => .next s
    | some g =>
      let due := 1024 * ((s.launchOf g.launch).map (·.lrec.deadline)).getD 0
      if !s.groupActive g then .next s
      else
        let s := s.onGroup h fun g => { g with count := g.count + 1 }
        if due = 0 || g.count + 1 != due then .next s
        else .next ((List.range g.n).foldl (fun s k =>
          if g.slots[k]? == some .pending then (s.setSlot h k .timedOut).cancelSibling h k else s) s)
  | _ => .next s

/-! ### The barrier (R271, R272) -/

/-- A whole number as F32. -/
def f32OfNat (n : Nat) : Nat := rneOf .f32 false (.fin false n 0)

/-- The advantages of the present slots, and the flags zerovar, single and empty (R272). -/
def advantages (ps : List (Nat × Nat)) : List (Nat × Nat) × BitVec 3 :=
  match ps with
  | [] => ([], 1)
  | [p] => ([(p.1, 0)], 2)
  | p :: rest =>
    if rest.all (·.2 == p.2) then (ps.map fun q => (q.1, 0), 4)
    else
      let f := fltOf .f32
      let n := f32OfNat ps.length
      let mu := divCode (f (rest.foldl (fun a q => addCode .f32 a q.2) p.2)) (f n)
      let d (q : Nat × Nat) := subCode .f32 q.2 mu
      let sq (q : Nat × Nat) := mulCode .f32 (d q) (d q)
      let v := divCode (f (rest.foldl (fun a q => addCode .f32 a (sq q)) (sq p))) (f n)
      let den := sqrtCode (f (addCode .f32 v 0x35800000))
      (ps.map fun q => (q.1, divCode (f (d q)) (f den)), 0)

/-- The quiet NaN of a slot that is not present (R272). -/
def Slot.payload : Slot → Nat
  | .cancelled => 0x7FC00001
  | .withdrawn => 0x7FC00002
  | .timedOut => 0x7FC00003
  | .faulted => 0x7FC00004
  | _ => 0x7FC00005

/-- The present slots with their rewards, ascending. -/
def Group.present (g : Group) : List (Nat × Nat) :=
  g.slots.zipIdx.filterMap fun p => p.1.reward.map fun r => (p.2, r.toNat)

/-- The 128 words of the result area (R271): advantages, then rewards. -/
def Group.results (g : Group) (adv : List (Nat × Nat)) : List Nat :=
  let word (l : List (Nat × Nat)) (k : Nat) : Nat :=
    ((l.find? (·.1 == k)).map (·.2)).getD ((g.slots[k]?.map Slot.payload).getD 0x7FC00005)
  (List.range 64).map (word adv) ++ (List.range 64).map (word g.present)

/-- Words of 32 bits written into a task's scratchpad. -/
def State.taskWords (s : State) (t : Task) (a : Nat) : List Nat → State
  | [] => s
  | w :: r => (s.taskPut t a w 4).taskWords t (a + 4) r

/-- The group flag returns to none when the barrier completes, unless a later FORK has opened another group (R267). -/
def Core.barrierDone (c : Core) : Core :=
  let newer := (c.run.effects ++ c.run.regions.filterMap (·.effect)).any (·.kind == .fork)
  if newer then c
  else
    let f (x : GroupFlag) : GroupFlag := if x == .barrierSent then .none else x
    (c.onCtx fun x => { x with groupFlag := f x.groupFlag }).onRun fun r => { r with
      regions := r.regions.map fun g => { g with snap := { g.snap with groupFlag := f g.snap.groupFlag } } }

/-- A barrier completes: the statistics are computed and the result area written; after it the done bit is mirrored at the parent, and on
its way to the siblings, and then the GBAR counts as accepted (R271 to R273, R292). -/
def State.passBarrier (s : State) (g : Group) (t : Task) : State :=
  let (adv, flags) := advantages g.present
  let g1 := { g with done := true, stat := flags }
  let s := (s.checkLines t g.result 520).taskWords t g.result (g1.results adv)
  let s := ((s.taskPut t (g.result + 512) g1.statusWord.toNat 8).onGroup g.handle fun _ => g1).mirror g.handle g.parent
  let s := (if t.stand = .onCore then s.onCore t.core (·.barrierDone) else s).accept t
  (s.sendStatus g.handle ((s.siblings g1).map (·.tid))).freeGroups
/-- GROUP_BARRIER_COMPLETE (R271 to R273, R292, R347): the barrier that can complete does, once its results have crossed to the parent's
core. -/
def execGroupBarrierComplete (s : State) : Out :=
  match s.arg with
  | .group h =>
    match s.groupOf h with
    | none => .next s
    | some g =>
      match s.taskOf g.parent with
      | none => .next s
      | some t =>
        if !g.passes then .next s
        else if t.stand = .onCore then .next (s.cross t.core 6 (.dev .groupBarrierComplete (.status h g.parent)))
        else .next (s.passBarrier g t)
  | .status h tid =>
    match (s.groupOf h).filter Group.passes, s.taskOf tid with
    | some g, some t => .next (s.passBarrier g t)
    | _, _ => .next s
  | _ => .next s

end Sys2Proof.Machine
end

