-- ==== Sys2Proof/Machine/MatrixMath.lean ====
section
/-! DEFINITION. The arithmetic of the matrix array: block sums, block values, accumulation and residue products (R84 to R88). -/

namespace Sys2Proof.Machine

/-- Blocks of 32 elements in a line (R77, R162). -/
def MmaFmt.nb : MmaFmt → Nat
  | .bf16 => 4
  | .e4 => 8
  | .e5 => 8
  | .fp4 => 16
  | .i8add => 8
  | .i8sub => 8
/-- The element width in bits. -/
def MmaFmt.width : MmaFmt → Nat
  | .bf16 => 16
  | .e4 => 8
  | .e5 => 8
  | .fp4 => 4
  | .i8add => 8
  | .i8sub => 8
/-- The buffer tag a form takes (R162). -/
def MmaFmt.bufTag : MmaFmt → Tag
  | .bf16 => .bf16
  | .e4 => .fp8e4
  | .e5 => .fp8e5
  | .fp4 => .fp4
  | .i8add => .int8
  | .i8sub => .int8
/-- Whether a form is one of the residue forms. -/
def MmaFmt.isI8 : MmaFmt → Bool
  | .i8add => true
  | .i8sub => true
  | _ => false
/-- The tile tag of a form (R162). -/
def MmaFmt.tileTag (f : MmaFmt) : Tag := if f.isI8 then .rns else .f32
/-- The number format of a float form's elements; the residue forms do not use it. -/
def MmaFmt.flt : MmaFmt → FltFmt
  | .bf16 => .bf16
  | .e4 => .e4m3
  | .e5 => .e5m2
  | _ => .fp4
/-- Energy of a MAC-step at ramp 1 and of an active triple (R96). -/
def MmaFmt.fj : MmaFmt → Nat × Nat
  | .bf16 => (40, 96)
  | .e4 => (20, 64)
  | .e5 => (20, 64)
  | .fp4 => (8, 32)
  | .i8add => (24, 0)
  | .i8sub => (24, 0)

/-- The codes of block b of a line, elements of w bits (R68, R77). -/
def blockCodes (w : Nat) (x : Line) (b : Nat) : List Nat :=
  let blk := x.toNat / 2 ^ (32 * w * b)
  (List.range 32).map fun k => blk / 2 ^ (w * k) % 2 ^ w

/-- One term of a block sum, truncated toward zero in units of 2^ue (R84). -/
def sumTerm (ue : Int) (p : Flt) : Int :=
  match p with
  | .fin n m e =>
    let d := e - ue
    let t : Int := if 0 ≤ d then (m <<< d.toNat : Nat) else (m >>> (-d).toNat : Nat)
    if n then -t else t
  | _ => 0

/-- The largest exponent of the non-zero products, when there is one (R84). -/
def maxExp (ps : List Flt) : Option Int :=
  ps.foldl (fun acc p => match p with
    | .fin _ m e => if m = 0 then acc else some (match acc with
      | none => floorLog2 m e
      | some x => max x (floorLog2 m e))
    | _ => acc) none

/-- The unit exponent of a block sum: E - 17, or -2 in FP4 (R84). -/
def unitExp (f : FltFmt) (e : Int) : Int := if f = .fp4 then -2 else e - 17

/-- The block value and its events (R84, R85, R86): as and ws are the data of the pair, sc the sum of the two scales. -/
def blockValue (f : FltFmt) (as ws : List Flt) (sc : Int) : Nat × BitVec 32 :=
  let ps := List.zipWith fltMul as ws
  if as.any (·.isNan) || ws.any (·.isNan) then (FltFmt.f32.nanCode, 0)
  else if ps.any (·.isNan) then (FltFmt.f32.nanCode, evInv)
  else
    let pos := ps.any fun p => p.isInf && !p.sign
    let neg := ps.any fun p => p.isInf && p.sign
    if pos && neg then (FltFmt.f32.nanCode, evInv)
    else if pos || neg then (overflowCode .f32 false neg, 0)
    else
      match maxExp ps with
      | none => (0, 0)
      | some e =>
        let ue := unitExp f e
        let sum := ps.foldl (fun acc p => acc + sumTerm ue p) 0
        if sum = 0 then (0, 0)
        else
          let v := roundRne .f32 false (sum < 0) sum.natAbs (ue + sc)
          (v, if v % 2 ^ 31 = 0x7F800000 then evOvf else 0)

/-- One FP32 accumulation with its events (R87). -/
def accumulate (x b : Nat) : Nat × BitVec 32 :=
  let p := fltOf .f32 x
  let q := fltOf .f32 b
  let r := rneOf .f32 false (fltAdd p q)
  (r, if p.isFin && q.isFin && r % 2 ^ 31 == 0x7F800000 then evOvf
      else if p.isInf && q.isInf && p.sign != q.sign then evInv else 0)

/-- Element j of a row (R68). -/
def elem (x : Row) (j : Nat) : Nat := x.toNat / 2 ^ (32 * j) % 2 ^ 32
/-- A row of 128 elements. -/
def ofElems (l : List Nat) : Row := BitVec.ofNat 4096 (l.foldr (fun e acc => e % 2 ^ 32 + 2 ^ 32 * acc) 0)

/-- One element of a float row: the block values of its pass in ascending order, skipped pairs left out (R77, R87, R163). -/
def floatElem (f : MmaFmt) (aBlocks : List (List Flt)) (aSc : BitVec 128) (w : Line) (wSc : BitVec 128) (x0 : Nat) :
    Nat × BitVec 32 :=
  (List.range f.nb).foldl (fun (acc : Nat × BitVec 32) b =>
    let sa := scaleAt aSc b
    let sw := scaleAt wSc b
    if sa = -128 || sw = -128 then acc
    else
      let (v, e1) := blockValue f.flt (aBlocks.getD b []) ((blockCodes f.width w b).map (fltOf f.flt)) (sa + sw)
      let (y, e2) := accumulate acc.1 v
      (y, acc.2 ||| e1 ||| e2)) (x0, 0)

/-- A row of a float MMA (R163). -/
def floatRow (f : MmaFmt) (a : Line) (aSc : BitVec 128) (w : WBuf) (x : Row) : Row × BitVec 32 :=
  let ab := (List.range f.nb).map fun b => (blockCodes f.width a b).map (fltOf f.flt)
  let es := (List.range 128).map fun j => floatElem f ab aSc (w.lines.toList.getD j 0) (w.scales.toList.getD j 0) (elem x j)
  (ofElems (es.map (·.1)), es.foldl (fun acc e => acc ||| e.2) 0)

/-- An INT8 code as an integer (R69). -/
def int8Of (c : Nat) : Int := if c ≥ 128 then (c : Int) - 256 else c

/-- The exact integer products of one element of a residue row (R164). -/
def int8Sum (aBlocks : List (List Int)) (aSc : BitVec 128) (w : Line) (wSc : BitVec 128) : Int :=
  (List.range 8).foldl (fun acc b =>
    if scaleAt aSc b = -128 || scaleAt wSc b = -128 then acc
    else acc + (List.zipWith (fun (x y : Int) => x * y) (aBlocks.getD b []) ((blockCodes 8 w b).map int8Of)).foldl (· + ·) 0) 0

/-- A row of MMA.I8R or MMS.I8R (R164). -/
def int8Row (sub : Bool) (a : Line) (aSc : BitVec 128) (w : WBuf) (x : Row) : Row :=
  let ab := (List.range 8).map fun b => (blockCodes 8 a b).map int8Of
  ofElems ((List.range 128).map fun j =>
    let p := toRns (int8Sum ab aSc (w.lines.toList.getD j 0) (w.scales.toList.getD j 0))
    let old := BitVec.ofNat 32 (elem x j)
    (if sub then rnsSub old p else rnsAdd old p).toNat)

/-- For each block, in how many lines of a buffer it is live (R97). -/
def liveLines (nb : Nat) (scales : List (BitVec 128)) : List Nat :=
  (List.range nb).map fun b => (scales.filter fun x => scaleAt x b != -128).length

/-- The active triples of a row (R97). -/
def activeTriples (nb : Nat) (aSc : BitVec 128) (live : List Nat) : Nat :=
  (List.range nb).foldl (fun acc b => if scaleAt aSc b = -128 then acc else acc + live.getD b 0) 0

/-- The energy of a row: its line read and its triples (R97); nothing for a row without an active triple. -/
def rowEnergy (f : MmaFmt) (l triples : Nat) : Nat :=
  if triples = 0 then 0 else 320 + triples * (32 * f.fj.1 / l + f.fj.2)

/-- A drained element (R169): the bits written, or with its width in bits, and the events raised. -/
def drainElem (k : DrainKind) (x : Nat) : Nat × BitVec 32 :=
  match k with
  | .bf16 =>
    let v := fltOf .f32 x
    let r := rneOf .bf16 false v
    (r, (if v.isFin && r % 2 ^ 15 == 0x7F80 then evOvf else 0) |||
        (if v.isFin && !v.isZero && r % 2 ^ 15 == 0 then evUfz else 0))
  | .i32 => ((BitVec.ofInt 32 (crt (BitVec.ofNat 32 x))).toNat, 0)
  | _ => (x, 0)

/-- A drained row and its events. -/
def drainRow (k : DrainKind) (x : Row) : Row × BitVec 32 :=
  let es := (List.range 128).map fun j => drainElem k (elem x j)
  let w := if k = .bf16 then 16 else 32
  (BitVec.ofNat 4096 (es.foldr (fun e acc => e.1 + 2 ^ w * acc) 0), es.foldl (fun acc e => acc ||| e.2) 0)

/-- One addition of a drain-add, with the clamp of DRAIN.ADDC, and its events (R169, R171). -/
def drainAddElem (clamp : Bool) (old x : Nat) : Nat × BitVec 32 :=
  let p := fltOf .f32 old
  let q := fltOf .f32 x
  let r := rneOf .f32 false (fltAdd p q)
  let inv : BitVec 32 := if p.isInf && q.isInf && p.sign != q.sign then evInv else 0
  if r % 2 ^ 31 = 0x7F800000 then
    if clamp then (r - 1, inv ||| evSatc)
    else (r, if p.isFin && q.isFin then inv ||| evOvf else inv)
  else (r, inv)

end Sys2Proof.Machine
end

