-- ==== Sys2Proof/Machine/Matrix.lean ====
section
/-! DEFINITION. The M slot at issue: operands, structural hazards, checks and energy (R154 to R171). -/

namespace Sys2Proof.Machine

/-! ### Structural hazards (R158) -/

/-- The tile after a tile of a pair. -/
def nextTile (t : TileId) : TileId := Fin.ofNat 8 (t.val + 1)

/-- The last matrix cycle in which an operation holds tile rows pending in a tile; 0 for none (R158). -/
def MOp.rowsUntil (o : MOp) (t : TileId) : Option Nat :=
  let last (acc : TileId) (f : Nat → Nat) : Option Nat :=
    if t = acc then some (f (min o.rows 128 - 1))
    else if o.rows > 128 && t == nextTile acc then some (f (o.rows - 1)) else none
  match o.kind with
  | .mma _ _ acc => last acc fun i => o.start + o.ramp * (i + 130)
  | .afill _ acc => last acc fun j => o.start + j + 5
  | .aclr acc => if t = acc then some (o.start + 1) else none
  | _ => none

/-- The last matrix cycle of an operation. -/
def MOp.last (o : MOp) : Nat :=
  match o.kind with
  | .wld _ _ => o.start + 128 * o.ramp - 1
  | .wldt _ _ => o.start + 128 * o.ramp - 1
  | .wclr _ => o.start + 1
  | .mma _ _ _ => o.start + o.ramp * (o.rows + 129)
  | .aclr _ => o.start + 1
  | .afill _ _ => o.start + o.rows + 4
  | .astat _ _ => o.start + 1
  | .drain _ _ _ => o.start + o.rows + 4

/-- Whether an operation is an MMA that holds the array, or its ramp against another one (R158). -/
def MOp.holdsArray (o : MOp) (t ramp : Nat) : Bool :=
  match o.kind with
  | .mma _ _ _ => t ≤ o.start + o.ramp * o.rows - 1 || (o.ramp != ramp && t ≤ o.last)
  | _ => false
/-- Whether an operation holds the load port. -/
def MOp.holdsLoad (o : MOp) (t : Nat) : Bool :=
  match o.kind with
  | .wld _ _ => t ≤ o.last
  | .wldt _ _ => t ≤ o.last
  | _ => false
/-- Whether a load holds the write side of a buffer. -/
def MOp.loads (o : MOp) (t : Nat) (w : BufId) : Bool :=
  match o.kind with
  | .wld x _ => x == w && t ≤ o.last
  | .wldt x _ => x == w && t ≤ o.last
  | _ => false
/-- Whether a WCLR holds the write side of a buffer. -/
def MOp.clears (o : MOp) (t : Nat) (w : BufId) : Bool :=
  match o.kind with
  | .wclr x => x == w && t ≤ o.last
  | _ => false
/-- Whether an MMA holds the read side of a buffer. -/
def MOp.reads (o : MOp) (t : Nat) (w : BufId) : Bool :=
  match o.kind with
  | .mma _ x _ => x == w && t ≤ o.last
  | _ => false
/-- Whether an operation has rows pending in a tile. -/
def MOp.pendsTile (o : MOp) (t : Nat) (tile : TileId) : Bool :=
  match o.rowsUntil tile with
  | some u => t ≤ u
  | none => false
/-- Whether an operation holds the transfer port. -/
def MOp.transfers (o : MOp) (t : Nat) : Bool :=
  match o.kind with
  | .afill _ _ => t ≤ o.start + o.rows - 1
  | .drain _ _ _ => t ≤ o.start + o.rows - 1
  | _ => false

/-- The tiles a form of m rows uses (R155). -/
def tilesOf (acc : TileId) (m : Nat) : List TileId := if m > 128 then [acc, nextTile acc] else [acc]

/-- Any operation in the unit meets a test at the present matrix cycle. -/
def Core.mheld (c : Core) (f : MOp → Nat → Bool) : Bool := c.run.mops.any fun o => f o c.run.mcycle

/-- An M syllable: it freezes under cause 4 while a resource it needs is held; its checks are made in the cycle it issues
(R158). -/
def Core.msyl (c : Core) (held : Bool) (faults : List (Bool × Cause)) (f : Core → Core) : Core :=
  if held then c.freeze 4 else c.checked 2 faults f

/-- An operation enters the matrix unit. -/
def Core.mstart (c : Core) (o : MOp) : Core := c.onRun fun r => { r with mops := r.mops ++ [o] }

/-- An operation with nothing but its kind, rows and ramp filled in. -/
def Core.mop (c : Core) (k : MKind) (ramp rows : Nat) : MOp :=
  { kind := k, start := c.run.mcycle, ord := c.run.issues, ramp := ramp, rows := rows, dlines := 0, addr := 0, swz := 0
    scales := [], live := [], rowFj := [], lines := [], out := [], poison := false, rev := false, wasTag := [], written := 0
    region := c.regionId, bundle := c.pc48 }

/-! ### Operand checks (R155, R156) -/

/-- An operand of the M slot with its descriptor: n data lines, sb scale bytes. -/
structure MArg where
  src : MSrc
  desc : Desc
  dlines : Nat
  sbytes : Nat
  deriving DecidableEq, Repr

/-- The first byte of the scale area. -/
def MArg.area (x : MArg) : Nat := x.src.addr + 256 * x.desc.off
/-- The scale offset is 0 or leaves room for the data lines (R155). -/
def MArg.offOk (x : MArg) : Bool := x.desc.off == 0 || x.desc.off ≥ x.dlines
/-- The descriptor and handle faults that are ILLEGAL whatever the form (R56). -/
def MArg.illegal (x : MArg) : Bool := x.desc.high || x.desc.swz > 3 || x.src.illegal
/-- The scale bytes in bounds: of the granted scratchpad, or of the consumer slot (R156). -/
def Core.areaBounds (c : Core) (x : MArg) : Bool :=
  !x.src.outside &&
  (if x.src.ring then 256 * x.desc.off + x.sbytes ≤ x.src.slotBytes else c.inBounds x.area x.sbytes)
/-- Data lines and scale bytes in bounds: of the granted scratchpad, or of the consumer slot (R156). -/
def Core.argBounds (c : Core) (x : MArg) : Bool :=
  !x.src.outside &&
  (if x.src.ring then
     256 * x.dlines ≤ x.src.slotBytes && (x.sbytes == 0 || 256 * x.desc.off + x.sbytes ≤ x.src.slotBytes)
   else c.inBounds x.src.addr (256 * x.dlines) && (x.sbytes == 0 || c.inBounds x.area x.sbytes))
/-- An address that is no multiple of 256 (R156). -/
def MArg.misaligned (x : MArg) : Bool := !x.src.ring && x.src.addr % 256 != 0
/-- A stamp that differs from the descriptor (R156). -/
def MArg.badStamp (x : MArg) : Bool := x.src.ring && x.src.stamp != x.desc.swz

/-- The scale bytes of n rows of nb blocks: the area's, or all zero without one (R155, R159). -/
def Core.scaleRows (c : Core) (x : MArg) (nb n : Nat) : List (BitVec 128) :=
  (List.range n).map fun i => if x.desc.off = 0 then 0 else c.scaleRow (x.area + nb * i) nb

/-! ### Weight loads (R159 to R161) -/

/-- The scale bytes of blocks nb to 15 of a line, all -128: a load into a buffer that is not clean begins with an erase, and a clean buffer
holds -128 in every block (R159, R161). -/
def absentFrom (nb : Nat) : Nat := scalesAbsent.toNat % 256 ^ (16 - nb)
/-- The scale bytes a load gives n lines of nb blocks: the area's, or all zero without one (R155, R159). -/
def Core.wldScales (c : Core) (x : MArg) (nb n : Nat) : List (BitVec 128) :=
  (List.range n).map fun i => BitVec.ofNat 128 ((List.range nb).foldr
    (fun b acc => (if x.desc.off = 0 then 0 else c.load (x.area + nb * i + b) 1) + 256 * acc) (absentFrom nb))

/-- Scales of lines beyond the operand's edge in the output dimension (R159). -/
def padScales (l : List (BitVec 128)) : List (BitVec 128) := l ++ List.replicate (128 - l.length) scalesAbsent

/-- A weight load enters: its checks, its energy, and the operation (R155 to R159). An unwind meters a load into a clean buffer by the lines of
it that had landed, a share of 64 (8 / L) fJ each and 320 fJ for each line read: DEDUCED (log 76). A load into a buffer that is not clean is,
as a whole, the erase it begins with: its reversible half is neither undone nor metered at an unwind, a DESIGN CHOICE (log 119). -/
def Core.wload (c : Core) (r : Ramp) (w : BufId) (k : MKind) (x : MArg) (rowsOk : Bool) (scales : Unit → List (BitVec 128)) :
    Core :=
  let held := c.mheld fun o t => o.holdsLoad t || o.clears t w || o.reads t w
  c.msyl held
    [(x.illegal || !rowsOk || !x.offOk, .illegal), (x.src.ringConfig, .ringConfig), (!c.argBounds x, .bounds),
     (x.misaligned, .align), (x.badStamp, .swizzle)] fun c =>
    let clean := c.ctx.w[w].clean
    (c.meter (8192 * (8 / rampL r) + 320 * x.dlines + (if clean then 0 else 24 * 8192))).mstart { c.mop k (rampL r) x.desc.rows with
      dlines := x.dlines, addr := x.src.addr, swz := Fin.ofNat 4 x.desc.swz, scales := scales ()
      rowFj := (List.range 128).map fun j => 64 * (8 / rampL r) + (if j < x.dlines then 320 else 0), rev := clean, poison := x.sbytes != 0 && c.poisonIn x.area x.sbytes }

/-- A WLD of a format with nb blocks a line (R159). -/
def Core.wld (c : Core) (w : BufId) (a b : SReg) (r : Ramp) (t : Tag) (nb : Nat) : Core :=
  let d := descOf (c.s b)
  let x : MArg := ⟨c.msrc (c.s a), d, d.rows, if d.off = 0 then 0 else nb * d.rows⟩
  c.wload r w (.wld w t) x (1 ≤ d.rows && d.rows ≤ 128) fun _ => padScales (c.wldScales x nb d.rows)

/-- WLD.BF16 (R159). -/
def execWldBf16 (g : PReg) (w : BufId) (a b : SReg) (r : Ramp) (s : State) : Out := s.syl g (·.wld w a b r .bf16 4)
/-- WLD.FP8E4 (R159). -/
def execWldFp8e4 (g : PReg) (w : BufId) (a b : SReg) (r : Ramp) (s : State) : Out := s.syl g (·.wld w a b r .fp8e4 8)
/-- WLD.FP8E5 (R159). -/
def execWldFp8e5 (g : PReg) (w : BufId) (a b : SReg) (r : Ramp) (s : State) : Out := s.syl g (·.wld w a b r .fp8e5 8)
/-- WLD.FP4 (R159). -/
def execWldFp4 (g : PReg) (w : BufId) (a b : SReg) (r : Ramp) (s : State) : Out := s.syl g (·.wld w a b r .fp4 16)
/-- WLD.INT8 (R159). -/
def execWldInt8 (g : PReg) (w : BufId) (a b : SReg) (r : Ramp) (s : State) : Out := s.syl g (·.wld w a b r .int8 8)

/-- The format of a WLDT variant (R160). -/
def wldtTag : Fin 4 → Tag
  | 0 => .bf16
  | 1 => .fp8e4
  | 2 => .fp8e5
  | 3 => .int8

/-- Sixteen scale bytes of a line of a transposed load: present blocks from the area, absent ones -128 (R160). -/
def Core.wldtScales (c : Core) (x : MArg) (nb j : Nat) : BitVec 128 :=
  BitVec.ofNat 128 ((List.range nb).foldr (fun b acc =>
    (if 32 * b ≥ x.desc.rows then 0x80 else if x.desc.off = 0 then 0 else c.load (x.area + 128 * b + j) 1) + 256 * acc) (absentFrom nb))

/-- WLDT (R160): data lines of two FP8 or INT8 rows, or of one BF16 row. -/
def execWldt (g : PReg) (w : BufId) (a b : SReg) (r : Ramp) (v : Fin 4) (s : State) : Out :=
  s.syl g fun c =>
    let d := descOf (c.s b)
    let bf := v == 0
    let nb := if bf then 4 else 8
    let dl := if bf then d.rows else (d.rows + 1) / 2
    let x : MArg := ⟨c.msrc (c.s a), d, dl, if d.off = 0 then 0 else 128 * ((d.rows + 31) / 32)⟩
    c.wload r w (.wldt w (wldtTag v)) x (1 ≤ d.rows && d.rows ≤ (if bf then 128 else 256)) fun _ =>
      (List.range 128).map (c.wldtScales x nb)

/-- WCLR (R161). -/
def execWclr (g : PReg) (w : BufId) (s : State) : Out :=
  s.syl g fun c =>
    c.msyl (c.mheld fun o t => o.loads t w || o.reads t w) [] fun c =>
      (c.meter (if c.ctx.w[w].clean then 0 else 196608)).mstart (c.mop (.wclr w) 1 0)

/-! ### Matrix multiply-accumulate (R162 to R165) -/

/-- The tile and row of operand row i (R155, R163). -/
def tileRow (acc : TileId) (i : Nat) : TileId × Fin 128 :=
  if i < 128 then (acc, Fin.ofNat 128 i) else (nextTile acc, Fin.ofNat 128 (i - 128))

/-- A row of a tile as it stands; a clean row reads as zero (R34). -/
def Tile.rowVal (t : Tile) (r : Fin 128) : Row := if t.clean.getLsbD r.val then 0 else t.rows[r]

/-- All elements of a row are canonical containers (R74). -/
def rowCanon (x : Row) : Bool := (List.range 128).all fun j => rnsCanon (BitVec.ofNat 32 (elem x j))

/-- A scale of nb blocks that a residue form does not permit (R78). -/
def scaleBad (nb : Nat) (x : BitVec 128) : Bool := (List.range nb).any fun b => scaleAt x b != 0 && scaleAt x b != -128

/-- An MMA form enters (R155 to R164). The canonical test of the rows needs the active triples, and so the scale bytes where there are any:
it is then made once their addresses have passed BOUNDS and ALIGN (R157, R352). Scale bytes of a poisoned line or of a POISON buffer
are tested for SCALE-NOT-PERMITTED as they stand; the rows of a POISON tile are not tested: log 45. -/
def Core.mma (c : Core) (f : MmaFmt) (acc : TileId) (w : BufId) (a b : SReg) (r : Ramp) : Core :=
  let d := descOf (c.s b)
  let m := d.rows
  let x : MArg := ⟨c.msrc (c.s a), d, m, if d.off = 0 then 0 else f.nb * m⟩
  let held := c.mheld fun o t => o.holdsArray t (rampL r) || o.loads t w || o.clears t w
  let buf := c.ctx.w[w]
  let rowsOk := m % 8 == 0 && 8 ≤ m && m ≤ 256 && (m ≤ 128 || acc.val % 2 == 0)
  let scales := c.scaleRows x f.nb m
  let live := liveLines f.nb buf.scales.toList
  let triples := scales.map fun sc => activeTriples f.nb sc live
  let readable := x.sbytes == 0 || (c.areaBounds x && !x.misaligned)
  let canon := (List.range m).all fun i =>
    let tr := tileRow acc i
    triples.getD i 0 == 0 || c.ctx.a[tr.1].tag == .poison || rowCanon (c.ctx.a[tr.1].rowVal tr.2)
  let badTag := !tagOk buf.tag f.bufTag || (tilesOf acc m).any fun t => !tagOk c.ctx.a[t].tag f.tileTag
  c.msyl held
    [(x.illegal || !rowsOk || !x.offOk, .illegal), (x.src.ringConfig, .ringConfig),
     (badTag || (f.isI8 && readable && !canon), .format), (!c.argBounds x, .bounds), (x.misaligned, .align),
     (x.badStamp, .swizzle),
     (f.isI8 && (scales.any (scaleBad f.nb) || buf.scales.toList.any (scaleBad f.nb)), .scaleNotPermitted)] fun c =>
    let fjs := triples.map (rowEnergy f (rampL r))
    (c.meter (fjs.foldl (· + ·) 0)).mstart { c.mop (.mma f w acc) (rampL r) m with
      dlines := m, addr := x.src.addr, swz := Fin.ofNat 4 d.swz, scales := scales, live := triples.map (· != 0)
      rowFj := fjs, rev := f.isI8, poison := buf.tag == .poison || (x.sbytes != 0 && c.poisonIn x.area x.sbytes) }

/-- MMA.BF16 (R163). -/
def execMmaBf16 (g : PReg) (t : TileId) (w : BufId) (a b : SReg) (r : Ramp) (s : State) : Out := s.syl g (·.mma .bf16 t w a b r)
/-- MMA.FP8E4 (R163). -/
def execMmaFp8e4 (g : PReg) (t : TileId) (w : BufId) (a b : SReg) (r : Ramp) (s : State) : Out := s.syl g (·.mma .e4 t w a b r)
/-- MMA.FP8E5 (R163). -/
def execMmaFp8e5 (g : PReg) (t : TileId) (w : BufId) (a b : SReg) (r : Ramp) (s : State) : Out := s.syl g (·.mma .e5 t w a b r)
/-- MMA.FP4 (R163). -/
def execMmaFp4 (g : PReg) (t : TileId) (w : BufId) (a b : SReg) (r : Ramp) (s : State) : Out := s.syl g (·.mma .fp4 t w a b r)
/-- MMA.I8R (R164). -/
def execMmaI8r (g : PReg) (t : TileId) (w : BufId) (a b : SReg) (r : Ramp) (s : State) : Out := s.syl g (·.mma .i8add t w a b r)
/-- MMS.I8R (R164). -/
def execMmsI8r (g : PReg) (t : TileId) (w : BufId) (a b : SReg) (r : Ramp) (s : State) : Out := s.syl g (·.mma .i8sub t w a b r)

/-! ### Tiles (R166 to R168) -/

/-- The rows of a tile that are not clean. -/
def Tile.dirtyRows (t : Tile) (n : Nat) : Nat :=
  (List.range n).foldl (fun k i => if t.clean.getLsbD i then k else k + 1) 0

/-- ACLR (R166). -/
def execAclr (g : PReg) (t : TileId) (s : State) : Out :=
  s.syl g fun c =>
    c.msyl (c.mheld fun o n => o.pendsTile n t) [] fun c =>
      (c.meter (3072 * c.ctx.a[t].dirtyRows 128)).mstart (c.mop (.aclr t) 1 0)

/-- The number of rows a form of m rows fills of each of its tiles. -/
def rowsIn (m : Nat) : List Nat := if m > 128 then [128, m - 128] else [m]

/-- An AFILL form enters (R155, R156, R167). -/
def Core.afill (c : Core) (t : TileId) (a b : SReg) (rns : Bool) : Core :=
  let d := descOf (c.s b)
  let m := d.rows
  let x : MArg := ⟨c.msrc (c.s a), d, 2 * m, 0⟩
  let ts := tilesOf t m
  let rt : Tag := if rns then .rns else .f32
  let held := c.mheld fun o n => o.transfers n || ts.any (o.pendsTile n)
  let ok := 1 ≤ m && m ≤ 256 && d.off == 0 && d.swz == 0 && !x.src.ring && (m ≤ 128 || t.val % 2 == 0)
  let badTag := (List.zip ts (rowsIn m)).any fun p => !tagOk c.ctx.a[p.1].tag rt && p.2 != 128
  c.msyl held
    [(x.illegal || !ok, .illegal), (badTag, .format), (!c.argBounds x, .bounds), (x.misaligned, .align)] fun c =>
    let old := ((List.zip ts (rowsIn m)).map fun p => c.ctx.a[p.1].dirtyRows p.2).foldl (· + ·) 0
    (c.meter (40 * 128 * m + 24 * 128 * old + 320 * 2 * m)).mstart { c.mop (.afill rns t) 1 m with
      dlines := 2 * m, addr := x.src.addr, live := [false, false], wasTag := ts.map fun k => c.ctx.a[k].tag }

/-- AFILL.F32 (R167). -/
def execAfillF32 (g : PReg) (t : TileId) (a b : SReg) (s : State) : Out := s.syl g (·.afill t a b false)
/-- AFILL.RNS (R167). -/
def execAfillRns (g : PReg) (t : TileId) (a b : SReg) (s : State) : Out := s.syl g (·.afill t a b true)

/-- ASTAT never waits; its value is what has landed by its issue (R158, R168). -/
def execAstat (g : PReg) (t : TileId) (a : SReg) (s : State) : Out :=
  s.syl g fun c => c.mstart (c.mop (.astat a (c.astatWord t)) 1 0)

/-! ### Drains (R169 to R171) -/

/-- Bytes of a drained row (R169). -/
def DrainKind.rowBytes : DrainKind → Nat
  | .bf16 => 256
  | _ => 512
/-- The tile tag a drain takes (R169). -/
def DrainKind.tag : DrainKind → Tag
  | .rns => .rns
  | .i32 => .rns
  | _ => .f32

/-- A drain enters: target is the core in the site for a drain-add; fits says that the bytes lie where they may (R171). A second drain-add
of a region waits for no buffer, which its own region holds: it raises SEGMENT-CHECK. -/
def Core.drain (c : Core) (k : DrainKind) (t : TileId) (a b : SReg) (target : Fin 8) (add : Bool) (fits : Nat → Nat → Bool) : Core :=
  let d := descOf (c.s b)
  let m := d.rows
  let src := c.msrc (c.s a)
  let ts := tilesOf t m
  let second := add && ((c.run.regions.head?).map (·.drainAdd)).getD false
  let held := c.mheld (fun o n => o.transfers n || ts.any (o.pendsTile n)) || (add && c.run.drainBuf.isSome && !second)
  let ok := 1 ≤ m && m ≤ 256 && d.off == 0 && d.swz == 0 && !d.high && !src.ring && !src.illegal && (m ≤ 128 || t.val % 2 == 0)
  let bytes := k.rowBytes * m
  c.msyl held
    [(!ok, .illegal), (second, .segmentCheck), (ts.any fun i => !tagOk c.ctx.a[i].tag k.tag, .format),
     (src.outside || !fits src.addr bytes, .bounds), (src.addr % 256 != 0, .align)] fun c =>
    let rev := k == .rns && (List.range (2 * m)).all fun i => c.cleanAt (src.addr + 256 * i)
    let fj := (if rev then 8 else 40) * 128 * m
    let o := { c.mop (.drain k t target) 1 m with
      addr := src.addr, rev := rev, rowFj := [(if rev then 8 else 40) * 128]
      wasTag := ts.map fun i => c.ctx.a[i].tag }
    (c.meter fj).mstart o

/-- DRAIN.F32 (R169). -/
def execDrainF32 (g : PReg) (t : TileId) (a b : SReg) (s : State) : Out := s.syl g fun c => c.drain .f32 t a b 0 false c.inBounds
/-- DRAIN.BF16 (R169). -/
def execDrainBf16 (g : PReg) (t : TileId) (a b : SReg) (s : State) : Out := s.syl g fun c => c.drain .bf16 t a b 0 false c.inBounds
/-- DRAIN.RNS (R169, R170). -/
def execDrainRns (g : PReg) (t : TileId) (a b : SReg) (s : State) : Out := s.syl g fun c => c.drain .rns t a b 0 false c.inBounds
/-- DRAIN.I32 (R169). -/
def execDrainI32 (g : PReg) (t : TileId) (a b : SReg) (s : State) : Out := s.syl g fun c => c.drain .i32 t a b 0 false c.inBounds

/-- Core k of the site of a core (R30, R171). -/
def siteCore (c : CoreId) (k : Nat) : CoreId := Fin.ofNat 384 (c.val / 8 * 8 + k % 8)

/-- The launch number of a task identifier (R30). -/
def tidLaunch (tid : Word) : Nat := tid.toNat / 65536

/-- A core holds a task of the launch of the issuing core, and n bytes from an address lie in that task's pitches (R171). -/
def State.peerFits (s : State) (k : CoreId) (a n : Nat) : Bool :=
  let c := s.cores[k]
  c.run.phase != .idle && tidLaunch c.ctx.x.tid == tidLaunch s.core.ctx.x.tid && c.inBounds a n

/-- The drain-add's part at issue: one in a region, and the buffer is held until its rows are applied (R158, R171). -/
def Core.drainAdd (c : Core) (self : CoreId) (k : DrainKind) (t : TileId) (w : BufId) (a b : SReg) (v : Fin 4)
    (tid : Word) (fits : Nat → Nat → Bool) : Core :=
  let target : Fin 8 := Fin.ofNat 8 (4 * w.val + v.val)
  let c' := c.drain k t a b target true fits
  if c'.run.trap.isSome || !c'.run.frozen.isEmpty then c'
  else
    let m := (descOf (c.s b)).rows
    (c'.onRegion fun r => { r with drainAdd := true }).onRun fun r => { r with
      drainBuf := some ⟨c.regionId, k == .addc, t, siteCore self target.val, tid, (c.msrc (c.s a)).addr, m, [], 0⟩ }

/-- DRAIN.ADD (R171). -/
def execDrainAdd (g : PReg) (t : TileId) (w : BufId) (a b : SReg) (x : Fin 4) (s : State) : Out :=
  s.syl g fun c => c.drainAdd s.cur .add t w a b x s.cores[siteCore s.cur (4 * w.val + x.val)].ctx.x.tid
    (s.peerFits (siteCore s.cur (4 * w.val + x.val)))
/-- DRAIN.ADDC (R171). -/
def execDrainAddc (g : PReg) (t : TileId) (w : BufId) (a b : SReg) (x : Fin 4) (s : State) : Out :=
  s.syl g fun c => c.drainAdd s.cur .addc t w a b x s.cores[siteCore s.cur (4 * w.val + x.val)].ctx.x.tid
    (s.peerFits (siteCore s.cur (4 * w.val + x.val)))

end Sys2Proof.Machine
end

