-- ==== Sys2Proof/Machine/MatrixUnit.lean ====
section
/-! DEFINITION. The matrix unit in one matrix cycle: what it samples and what lands (R21, R157 to R171). -/

namespace Sys2Proof.Machine

/-- A tile written. -/
def Core.setTile (c : Core) (t : TileId) (x : Tile) : Core := c.onCtx fun y => { y with a := y.a.set t x }

/-- The step index of an operation at matrix cycle t: k when t = start + L * k. -/
def MOp.index (o : MOp) (t : Nat) : Option Nat :=
  if t < o.start || (t - o.start) % o.ramp != 0 then none else some ((t - o.start) / o.ramp)

/-! ### Sampling (R157) -/

/-- The bit of an out entry that marks a row read from a POISON tile. -/
def poisonMark : BitVec 32 := BitVec.twoPow 32 31

/-- A row drained at its read: a tile that was POISON at issue gives unspecified values (R157, R169). -/
def Core.drainSample (c : Core) (o : MOp) (k : DrainKind) (acc : TileId) (j fresh : Nat) : Row × BitVec 32 :=
  let tr := tileRow acc j
  let t := c.ctx.a[tr.1]
  if o.wasTag.getD (if j < 128 then 0 else 1) .clean == .poison then
    let x := drainRow k (Config.freeBits 4096 fresh (512 * o.ord + j))
    (x.1, x.2 ||| poisonMark)
  else drainRow k (t.rowVal tr.2)

/-- What an operation samples in a cycle. -/
def Core.msample (c : Core) (t fresh : Nat) (o : MOp) : MOp :=
  let line (k : Nat) : Line × Bool := (unswizzle o.swz.val k (c.line (o.addr + 256 * k)), c.poisonAt (o.addr + 256 * k))
  match o.kind with
  | .drain k acc _ =>
    if t < o.start || t - o.start ≥ o.rows then o
    else { o with out := o.out ++ [c.drainSample o k acc (t - o.start) fresh] }
  | .afill _ _ =>
    if t < o.start || t - o.start ≥ o.rows then o
    else { o with lines := o.lines ++ [line (2 * (t - o.start)), line (2 * (t - o.start) + 1)] }
  | .mma _ _ _ =>
    match o.index t with
    | some k => if k < o.dlines then
        let l := line k
        let live := o.live.getD k false
        { o with lines := o.lines ++ [l], poison := o.poison || (l.2 && live) }
      else o
    | none => o
  | .wld _ _ =>
    match o.index t with
    | some k => if k < o.dlines then { o with lines := o.lines ++ [line k], poison := o.poison || (line k).2 } else o
    | none => o
  | .wldt _ _ =>
    match o.index t with
    | some k => if k < o.dlines then { o with lines := o.lines ++ [line k], poison := o.poison || (line k).2 } else o
    | none => o
  | _ => o

/-- Rows of an MMA that have landed before cycle t. -/
def MOp.landedRows (o : MOp) (t : Nat) : Nat := if t ≤ o.start + 130 * o.ramp then 0 else min o.rows ((t - o.start - 1) / o.ramp - 129)

/-- A poisoned line read once rows have landed turns the tiles already written POISON (R165). -/
def Core.latePoison (c : Core) (t : Nat) (before after : MOp) : Core :=
  match after.kind with
  | .mma _ _ acc =>
    if before.poison || !after.poison then c
    else (List.range (after.landedRows t)).foldl (fun c i =>
      if after.live.getD i false then
        let tr := tileRow acc i
        c.setTile tr.1 { c.ctx.a[tr.1] with tag := .poison }
      else c) c
  | _ => c

/-! ### Landing -/

/-- Row i of an MMA lands (R163 to R165). An unwind charges the rows of a residue form that have landed: log 76. A POISON tile all of whose rows
an MMS.I8R returns to zero has 128 clean rows and stays POISON, as R165 says and against R34: DEDUCED (log 117). -/
def Core.landMma (c : Core) (o : MOp) (f : MmaFmt) (w : BufId) (acc : TileId) (i fresh : Nat) : Core :=
  if !o.live.getD i false then c
  else
    let (t, r) := tileRow acc i
    let old := c.ctx.a[t]
    let x := old.rowVal r
    let a := (o.lines.headD (0, false)).1
    let sc := o.scales.getD i 0
    let buf := c.ctx.w[w]
    let free := Config.freeBits 4096 fresh (512 * o.ord + i)
    let (y, ev) : Row × BitVec 32 :=
      if f.isI8 then
        (if o.poison then ofElems ((List.range 128).map fun j => (toRns (elem free j)).toNat) else int8Row (f == .i8sub) a sc buf x, 0)
      else if o.poison then (free, Config.freeBits 32 fresh (512 * o.ord + 256 + i) &&& 3)
      else floatRow f a sc buf x
    let clean := f == .i8sub && y == 0
    let cl := if clean then old.clean ||| BitVec.twoPow 128 r.val else old.clean &&& ~~~BitVec.twoPow 128 r.val
    let tag : Tag :=
      if old.tag == .poison || o.poison then .poison
      else if f.isI8 && cl == BitVec.allOnes 128 then .clean else f.tileTag
    let c1 := c.setTile t { old with rows := old.rows.set r y, clean := cl, tag := tag }
    let c2 := c1.keep o.region (.row t r old.rows[r] (old.clean.getLsbD r.val) old.tag) (if f.isI8 then some (o.rowFj.getD i 0) else none)
    if f.isI8 then c2 else c2.onRegionId o.region (·.raise t ev)

/-- Row j of an AFILL lands (R167). -/
def Core.landAfill (c : Core) (o : MOp) (rns : Bool) (acc : TileId) (j : Nat) : Core × MOp :=
  let (t, r) := tileRow acc j
  let old := c.ctx.a[t]
  let l0 := o.lines.headD (0, false)
  let l1 := (o.lines.drop 1).headD (0, false)
  let raw : Row := l1.1 ++ l0.1
  let y := if rns then ofElems ((List.range 128).map fun k => (rnsAdd 0 (BitVec.ofNat 32 (elem raw k))).toNat) else raw
  let side := if j < 128 then 0 else 1
  let bad := l0.2 || l1.2
  let taint := o.live.getD side false || bad
  let was := o.wasTag.getD side .clean
  let rt : Tag := if rns then .rns else .f32
  let lastOfTile := r.val == 127
  let tag : Tag :=
    if taint then .poison
    else if was == .poison then (if lastOfTile then rt else old.tag)
    else if was == .clean || was == rt then (if old.tag == .poison then .poison else rt)
    else if lastOfTile then rt else old.tag
  let c1 := c.setTile t { old with rows := old.rows.set r y, clean := old.clean &&& ~~~BitVec.twoPow 128 r.val, tag := tag }
  (c1.keep o.region (.row t r old.rows[r] (old.clean.getLsbD r.val) old.tag) none,
   { o with lines := o.lines.drop 2, live := o.live.set side taint })

/-- The elements of a transposed load's line j: element k from source row k (R160). -/
def transposedLine (t : Tag) (n : Nat) (ls : List (Line × Bool)) (j : Nat) : Line :=
  let w := if t == .bf16 then 16 else 8
  let kpass := if t == .bf16 then 128 else 256
  BitVec.ofNat 2048 ((List.range kpass).foldr (fun k acc =>
    (if k < n then
      let bit := (128 * k + j) * w
      ((ls.getD (bit / 2048) (0, false)).1.toNat / 2 ^ (bit % 2048)) % 2 ^ w
     else 0) + 2 ^ w * acc) 0)

/-- Line j of a weight load lands with its scales (R159, R160). -/
def Core.landLine (c : Core) (o : MOp) (w : BufId) (j : Fin 128) (x : Line) : Core :=
  let old := c.ctx.w[w]
  (c.onCtx fun y => { y with w := y.w.set w { old with lines := old.lines.set j x, scales := old.scales.set j (o.scales.getD j.val 0) } }).keep
    o.region (.line w j old.lines[j] old.scales[j]) (if o.rev then some (o.rowFj.getD j.val 0) else none)

/-- A weight load is complete: the buffer has its tag and is not clean (R159, R160). -/
def Core.landReady (c : Core) (o : MOp) (w : BufId) (t : Tag) : Core :=
  let old := c.ctx.w[w]
  (c.onCtx fun y => { y with w := y.w.set w { old with tag := if o.poison then .poison else t, clean := false } }).keep
    o.region (.ready w old.tag old.clean) (if o.rev then some 0 else none)

/-- What of a weight load lands at the end of cycle t: line j in cycle start + L * (j + 1) - 1, the tag with the last one (R159). -/
def Core.landWld (c : Core) (o : MOp) (w : BufId) (tag : Tag) (t : Nat) : Core :=
  let d := t + 1 - o.start
  if d == 0 || d % o.ramp != 0 || d / o.ramp > 128 then c
  else
    let j := d / o.ramp - 1
    let c := c.landLine o w (Fin.ofNat 128 j) (if j < o.rows then (o.lines.getD j (0, false)).1 else 0)
    if t = o.last then c.landReady o w tag else c

/-- A transposed load lands in its last cycle: each of its lines takes an element of every source row (R160). -/
def Core.landWldt (c : Core) (o : MOp) (w : BufId) (tag : Tag) : Core :=
  ((List.finRange 128).foldl (fun c j => c.landLine o w j (transposedLine tag o.rows o.lines j.val)) c).landReady o w tag

/-- A clean weight buffer (R161). -/
def WBuf.cleared : WBuf := ⟨Vector.replicate 128 0, Vector.replicate 128 scalesAbsent, .clean, true⟩

/-- A CLEAN tile with an event word (R34, R166). -/
def Tile.cleared (events : BitVec 32) : Tile := ⟨Vector.replicate 128 0, BitVec.allOnes 128, events, .clean⟩

/-- One line of a drained row lands in the scratchpad (R95, R169). -/
def Core.drainLine (c : Core) (o : MOp) (a : Nat) (data : Line) (pois : Bool) (fj : Nat) : Core :=
  let p := c.ctx.phys a
  ({ c with sram := c.sram.store p (BitVec.allOnes 256) data (if pois then .poisoned else .full) } : Core).keep o.region
    (.bytes p (BitVec.allOnes 256) (BitVec.ofNat 2048 (memLe c.sram.bytes p 256)) (c.sram.clean.contains (p / 256))
      (some (c.sram.poison.contains (p / 256)))) (if o.rev then some fj else none)

/-- Row j of a drain lands (R169 to R171). -/
def Core.landDrain (c : Core) (o : MOp) (k : DrainKind) (acc : TileId) (j : Nat) : Core :=
  let (x, ev) := o.out.headD (0, 0)
  let pois := ev.getLsbD 31
  if k == .add || k == .addc then
    c.onRun fun r => { r with drainBuf := r.drainBuf.map fun b => { b with rows := b.rows ++ [(j, x, pois)] } }
  else
    let fj := o.rowFj.getD 0 0
    let c1 :=
      if k == .bf16 then c.drainLine o (o.addr + 256 * j) (x.extractLsb' 0 2048) pois fj
      else (c.drainLine o (o.addr + 512 * j) (x.extractLsb' 0 2048) pois fj).drainLine o (o.addr + 512 * j + 256)
        (x.extractLsb' 2048 2048) pois 0
    c1.onRegionId o.region (·.raise (tileRow acc j).1 (ev &&& 0xF))

/-- What of an operation lands at the end of cycle t. hold says that only the matrix unit advances: an ASTAT then lands alone;
otherwise its scalar joins the S and V results of the cycle, in issue order (R19, R168). -/
def Core.mland (c : Core) (t fresh : Nat) (hold : Bool) (o : MOp) : Core × MOp :=
  match o.kind with
  | .wld w tag => (c.landWld o w tag t, o)
  | .wldt w tag => (if t = o.last then c.landWldt o w tag else c, o)
  | .wclr w =>
    if t = o.last then
      ((c.onCtx fun y => { y with w := y.w.set w WBuf.cleared }).keep o.region (.buf w c.ctx.w[w]) none, o)
    else (c, o)
  | .mma f w acc =>
    match o.index t with
    | some k =>
      if 130 ≤ k && k - 130 < o.rows then (c.landMma o f w acc (k - 130) fresh, { o with lines := o.lines.drop 1 }) else (c, o)
    | none => (c, o)
  | .aclr acc =>
    if t = o.last then
      let old := c.ctx.a[acc]
      (((List.finRange 128).foldl (fun c r => c.keep o.region (.row acc r old.rows[r] (old.clean.getLsbD r.val) old.tag) none)
        (c.setTile acc (Tile.cleared old.events))).onRegionId o.region (·.clear acc), o)
    else (c, o)
  | .afill rns acc => if o.start + 5 ≤ t && t - o.start - 5 < o.rows then c.landAfill o rns acc (t - o.start - 5) else (c, o)
  | .astat d v =>
    if t = o.last then
      (if hold then c.landS o.region d v
       else c.onRun fun r => { r with flights := insertFlight ⟨1, o.ord, o.region, 2, o.bundle, .scalar d v⟩ r.flights }, o)
    else (c, o)
  | .drain k acc _ =>
    if o.start + 5 ≤ t && t - o.start - 5 < o.rows then
      (c.landDrain o k acc (t - o.start - 5), { o with out := o.out.drop 1 })
    else (c, o)

/-- One matrix cycle: every operation samples, then what is due lands in issue order, then operations past their last cycle
leave the unit (R158). -/
def Core.matrixCycle (c : Core) (fresh : Nat) (hold : Bool) : Core :=
  let t := c.run.mcycle
  let os := c.run.mops.map (c.msample t fresh)
  let c1 := (List.zip c.run.mops os).foldl (fun c p => c.latePoison t p.1 p.2) c
  let (c2, os2) := os.foldl (fun (acc : Core × List MOp) o =>
    let r := acc.1.mland t fresh hold o
    (r.1, acc.2 ++ [r.2])) (c1, [])
  c2.onRun fun r => { r with mops := os2.filter fun o => t < o.last, mcycle := t + 1 }

end Sys2Proof.Machine
end

