-- ==== Sys2Proof/Machine/Regions.lean ====
section
/-! DEFINITION. What lands, the commit of regions and their signatures, drain-adds and the sending of effect commands
(R17, R19, R21, R38, R39, R91, R171, R175, R177, R215, R216, R242, R264, R265, R273, R332, R333, R341, R344). -/

namespace Sys2Proof.Machine

/-! ### The lifetime record (R344) -/

/-- The code of a core state (R344). -/
def CoreSt.code : CoreSt → Nat
  | .healthy => 0
  | .derated => 1
  | .draining => 2
  | .retired => 3
/-- The core state of a code. -/
def coreStOf (n : Nat) : CoreSt := if n = 0 then .healthy else if n = 1 then .derated else if n = 2 then .draining else .retired
/-- An entry of the lifetime record (R344). -/
def Wear.entry (w : Wear) : Nat := recordEntry w.st.code w.marks w.lifetime w.integral w.drift w.corrected
/-- What an entry says of its core. -/
def wearOf (e : Nat) : Wear :=
  ⟨coreStOf (e / 2 ^ 62 % 4), e / 2 ^ 48 % 256, e % 2 ^ 48, e / 2 ^ 84 % 2 ^ 44, e / 2 ^ 64 % 2 ^ 20, e / 2 ^ 128 % 2 ^ 32⟩
/-- The generation of a copy (R344). -/
def LifeCopy.generation (x : LifeCopy) : Nat := x.bytes % 2 ^ 64
/-- The minimum firmware version of a copy (R344). -/
def LifeCopy.minimum (x : LifeCopy) : BitVec 32 := BitVec.ofNat 32 (x.bytes / 2 ^ 64)
/-- Entry i of a copy (R344). -/
def LifeCopy.entry (x : LifeCopy) (i : Nat) : Wear := wearOf (x.bytes / 2 ^ (512 + 256 * i) % 2 ^ 256)
/-- The check of a copy passes (R344). -/
def LifeCopy.sound (x : LifeCopy) : Bool := recordCheck x.bytes == BitVec.ofNat 32 (x.bytes / 2 ^ 480)

/-- What the record keeps of the cores now. -/
def State.wearEntries (s : State) : List Wear := s.cores.toList.map fun c => { c.wear with corrected := c.sram.corr.toNat }
/-- The copy with the higher generation among those whose check passes. -/
def State.lifeCopy (s : State) : Option LifeCopy :=
  let a := s.life[0]
  let b := s.life[1]
  if a.sound && (!b.sound || b.generation ≤ a.generation) then some a else if b.sound then some b else none
/-- The copy that is not in force: one whose check fails, else the older; of two alike the second. -/
def State.lifeOld (s : State) : Fin 2 :=
  let a := s.life[0]
  let b := s.life[1]
  if a.sound && (!b.sound || b.generation ≤ a.generation) then 1 else if b.sound || a.generation ≤ b.generation then 0 else 1
/-- The copy that is not in force written, with the stored minimum version: its generation is one more than that of the one in force. -/
def State.writeLife (s : State) (minimum : BitVec 32) : State :=
  let x : LifeCopy := ⟨recordImage (((s.lifeCopy.map (·.generation)).getD 0) + 1) minimum.toNat (s.wearEntries.map (·.entry))⟩
  { s with life := s.life.set s.lifeOld x }
/-- The minimum firmware version stored. -/
def State.minimum (s : State) : BitVec 32 := (s.lifeCopy.map (·.minimum)).getD 0

/-- A suspect mark added to a core, kept in the record before it takes effect, with its event (R341, R344, R350). -/
def State.suspect (s : State) (k : CoreId) : State :=
  let n := min 255 (s.cores[k].wear.marks + 1)
  let s := s.onCore k fun c => { c with wear := { c.wear with marks := n } }
  (s.writeLife s.minimum).event 0x51 1 (coreNumber k) (BitVec.ofNat 64 (n * 2 ^ 16 + coreNumber k)) 0

/-! ### Landing (R17, R21, R175) -/

/-- A soft error of a line: a single one is corrected and counted, with the region that is running (R322); a double one poisons the
line (R175). -/
def Core.softError (c : Core) (line : Nat) (double : Bool) : Core :=
  if double then { c with sram := { c.sram with poison := setInsert c.sram.poison line } }
  else match c.run.regions with
    | [] => { c with sram := { c.sram with corr := if c.sram.corr == BitVec.allOnes 32 then c.sram.corr else c.sram.corr + 1 } }
    | _ => c.onRegion fun r => { r with corr := r.corr + 1 }

/-- RESULT_LANDING (R17, R19, R175): a cycle ends for the results of the S and V slots. Whether a soft error shows itself before the
next reads, and where, is a free value. -/
def execResultLanding (s : State) : Out :=
  match s.arg with
  | .core k =>
    let x := Config.freeNat s.free 0
    .next ((s.draw).onCore k fun c =>
      (if x % 4 ≥ 2 then c.softError (x / 4 % 16384) (x % 2 == 1) else c).landCycle)
  | _ => .next s

/-- MATRIX_ROW_LANDING (R21, R158): one matrix cycle of a core. -/
def execMatrixRowLanding (s : State) : Out :=
  match s.arg with
  | .matrix k hold => .next ((s.draw).onCore k fun c => c.matrixCycle s.free hold)
  | _ => .next s

/-! ### Commit (R39, R91, R177, R242) -/

/-- The commit of an accumulator's events, tag-table changes, counts and effect command, and the flags that end with a commit (R39,
R91, R177, R279, R322, R332). -/
def Core.commitRegion (c : Core) (r : Region) : Core :=
  { c with
    ctx := { r.commitEvents c.ctx with retry := false, resumed := if r.resumed then none else c.ctx.resumed }
    sram := { c.sram with corr := BitVec.ofNat 32 (min (2 ^ 32 - 1) (c.sram.corr.toNat + r.corr)) }
    run := { c.run with
      regions := c.run.regions.filter (·.id != r.id), effects := c.run.effects ++ r.effect.toList
      tagTable := r.tagOps.foldr (fun o t => waySet t o.way o.entry) c.run.tagTable } }

/-- How many records of a task have joined its log. -/
def State.joined (s : State) (tid : Word) : Nat := ((s.logOf tid).map (·.count)).getD 0
/-- A region commits: its appends join its log first, and its own copies do not see them (R208). END's region sends the cancels of R273; a drain-add's rows are applied from
now on (R171). -/
def State.commitRegion (s : State) (k : CoreId) (r : Region) : State :=
  let tid := s.cores[k].ctx.x.tid
  let flag := s.cores[k].ctx.groupFlag
  let before := s.joined tid
  let s := s.joinSegment (s.spaceOn k) tid r.priv r.segment
  let s := s.onCore k fun c => (c.commitRegion r).onRun fun x => { x with
    copies := x.copies.map fun m => if m.region = r.id && m.phase == .waiting then { m with hole := (before, s.joined tid) } else m }
  let s := if r.drainAdd then s.cross k 0 (devCore .drainAddApply k) else s
  if r.ended && flag != .none then
    match s.latestGroup tid with
    | some g => s.cancelGroup g.handle true
    | none => s
  else s

/-- The observed count and CRC bits of a checked region, as [31:16] and [15:0] (R333). -/
def Region.observed (r : Region) : BitVec 32 :=
  ((r.lastTick - r.headTick + 1).setWidth 16 : BitVec 16) ++ ((r.crc ^^^ 0xFFFFFFFF).setWidth 16 : BitVec 16)

/-- A signature does not match (R332): a first mismatch restarts the region, a second is MACHINE-CHECK. -/
def State.mismatch (s : State) (k : CoreId) (r : Region) : State :=
  let c := s.cores[k]
  let again := c.ctx.retry
  let w := r.observed.setWidth 64
  let s := s.onCore k fun c => (c.landFault r.id 0 (r.head.setWidth 48) .machineCheck 0 w).onRun fun x =>
    { x with trap := x.trap.map fun t => { t with kind := if again then .normal else .retry } }
  let s := if again then s.suspect k else s
  s.event (if again then 0x41 else 0x42) 1 (coreNumber k) (r.head &&& 0xFFFFFFFFFFFF) w

/-- Regions commit in order, each once its last bundle has issued and nothing of it is outstanding (R39); a checked one is compared
first (R332). -/
def State.commitAll (s : State) (k : CoreId) : Nat → State
  | 0 => s
  | n + 1 =>
    let c := s.cores[k]
    match c.run.regions.getLast? with
    | none => s
    | some r =>
      let trapped := c.run.phase == .trapping && ((c.run.trap.bind (·.region)).any fun i => i ≤ r.id)
      if trapped || !r.closed || c.pendingOf r then s
      else if r.checked.any fun x => x != r.observed then s.mismatch k r
      else (s.commitRegion k r).commitAll k n

/-- REGION_COMMIT (R39). -/
def execRegionCommit (s : State) : Out :=
  match s.arg with
  | .core k => .next ((s.commitAll k s.cores[k].run.regions.length).wake k)
  | _ => .next s

/-! ### Drain-adds (R169, R171) -/

/-- Bytes of a task from an address, little-endian. -/
def State.taskGet (s : State) (t : Task) (a : Nat) : Nat → Nat
  | 0 => 0
  | n + 1 => (s.taskByte t a).toNat + 256 * s.taskGet t (a + 1) n

/-- One row added into the target task's bytes at an address, with the events raised; one read from a poisoned page is poisoned (R197). -/
def State.addRow (s : State) (t : Task) (a : Nat) (clamp : Bool) (x : Row) (pois : Bool) : State × BitVec 32 :=
  let s := s.checkLines t a 512
  let pois := pois || s.taskLost t a || s.taskLost t (a + 256)
  let old : Row := BitVec.ofNat 4096 (s.taskGet t a 512)
  let es := (List.range 128).map fun j => drainAddElem clamp (elem old j) (elem x j)
  let s := s.taskPut t a (ofElems (es.map (·.1))).toNat 512
  let s := if pois then (s.taskPoisonPut t a true).taskPoisonPut t (a + 256) true else s
  (s, es.foldl (fun e p => e ||| p.2) 0)

/-- The buffer of a core has rows of a committed region to apply. -/
def Core.addsDue (c : Core) : Bool := c.run.drainBuf.any fun b => !c.run.regions.any (·.id == b.region)

/-- DRAIN_ADD_APPLY (R171): the next row is applied at the target, wherever its task holds it; its events go into the drained tile's
committed word. The buffer is free after its last row. -/
def execDrainAddApply (s : State) : Out :=
  match s.arg with
  | .core k =>
    let c := s.cores[k]
    match c.run.drainBuf with
    | none => .next s
    | some b =>
      if !c.addsDue then .next s
      else
        match b.rows with
        | [] => .next (s.onCore k fun c => c.onRun fun r => { r with drainBuf := none })
        | (j, x, pois) :: rest =>
          let (s, ev) := match s.taskOf b.tid with
            | some t => s.addRow t (b.addr + 512 * j) b.clamp x pois
            | none => (s, 0)
          let ti := (tileRow b.tile j).1
          let s := s.onCore k fun c =>
            (c.setTile ti { c.ctx.a[ti] with events := c.ctx.a[ti].events ||| ev }).onRun fun r => { r with
              drainBuf := if rest.isEmpty then none else some { b with rows := rest, applied := b.applied + 1 } }
          .next (if rest.isEmpty then s.wake k else s.cross k 0 (devCore .drainAddApply k))
  | _ => .next s

/-! ### The Inlet as a TAIL write sees it (R256, R264) -/

/-- Records queued, holes among them. -/
def Queue.count (q : Queue) : Nat := (q.tail.val + 64 - q.head.val) % 64
/-- A record queued behind the others, bound to an owner tag and a priority (R257, R264). -/
def Queue.push (q : Queue) (image : Line) (owner : BitVec 16) (prio : Nat) : Queue :=
  { q with slots := q.slots.set q.tail image, tail := q.tail + 1, bound := (q.tail, owner, prio) :: q.bound.filter (·.1 != q.tail) }
/-- A queue updated. -/
def State.onQueue (s : State) (q : Fin 16) (f : Queue → Queue) : State := { s with queues := s.queues.set q (f s.queues[q]) }
/-- The wait words of every queue's head are read again (R258). -/
def State.rereadHeads (s : State) : State := s.soon ((List.finRange 16).map fun q => .dev .waitWordRead (.queue q))
/-- LAUNCHes that wait at the distributor for a slot of a queue are looked at again once one is free (R264). Of several for one queue the first
in `State.tasks` takes it: DESIGN CHOICE (log 115). -/
def State.slotFreed (s : State) : State :=
  s.soon ((s.tasks.filter fun t => (s.sentOf t).any (·.kind == .launch)).map fun t => .dev .effectCommandSend (.arrive t.tid t.born))

/-! ### Launches named by a cancel (R260) -/

/-- The owner tag of a record image. -/
def imgOwner (m : Line) : BitVec 16 := m.extractLsb' 704 16
/-- The done address of a record image. -/
def imgDone (m : Line) : BitVec 48 := m.extractLsb' 384 48
/-- The slots a queue holds, from its head. -/
def Queue.held (q : Queue) : List (Fin 64) := ((List.range q.count).map fun i => q.head + Fin.ofNat 64 i).filter (!q.holes.contains ·)

/-- The completion word of a launch that ends (R254). A done address that is misaligned or fails translation leaves nothing written and
enters event 0x10 (R253). -/
def State.putDone (s : State) (sp : Option Space) (done : Nat) (state status code wear : Nat) : State :=
  let w := state * 2 ^ 62 + status * 2 ^ 56 + code * 2 ^ 48 + min wear (2 ^ 40 - 1)
  match sp with
  | none => s.eventOpen 0x10 0 0
  | some sp =>
    if done % 8 != 0 then s.eventOpen 0x10 0 0
    else
      let s := s.checkWalk sp done
      match s.writeVa sp done 8 w with
      | .ok t => t
      | .error _ => s.eventOpen 0x10 0 0

/-- A running launch is cancelled: every task and every sibling of its groups (R260, R263). -/
def State.cancelLaunch (s : State) (n : Nat) (wear : Bool) : State :=
  let s := s.onLaunch n fun l => if wear then { l with overWear := true } else { l with cancelled := true }
  let s := (s.tasksOf n).foldl (fun s t => s.sendCancel t.tid) s
  ((s.groups.filter fun g => g.launch == n && !g.placed && !g.failed).map (·.handle)).foldl (fun s h => s.cancelGroup h false) s

/-- The head of a queue moves past its slot and the cancelled ones after it (R256). -/
def Queue.advance (q : Queue) : Nat → Queue
  | 0 => q
  | n + 1 =>
    if q.head != q.tail && q.holes.contains q.head then
      ({ q with head := q.head + 1, holes := q.holes.filter (· != q.head), bound := q.bound.filter (·.1 != q.head) } : Queue).advance n
    else q
/-- A slot is freed: dispatched, rejected or cancelled. The record that becomes the head is a new candidate. -/
def Queue.free (q : Queue) (i : Fin 64) : Queue :=
  let q1 := { q with holes := i :: q.holes.filter (· != i) }
  let q2 := q1.advance 64
  if q2.head == q.head then q1 else { q2 with cand := ⟨0, none, false⟩, ready := false, checked := none }

/-- The slots of a queue that a cancel with an owner tag names. -/
def Queue.named (q : Queue) (tag : BitVec 16) (addr : BitVec 48) : List (Fin 64) :=
  q.held.filter fun i => imgOwner q.slots[i] == tag && imgDone q.slots[i] == addr
/-- A cancel with an owner tag names a completion word (R260): queued launches end with status 2, running ones are cancelled. With a final
word written the wait words of every head are read again (R258). -/
def State.cancelBy (s : State) (tag : BitVec 16) (addr : BitVec 48) : State :=
  let any := (List.finRange 16).any fun q => !(s.queues[q].named tag addr).isEmpty
  let s := if any then s.checkSpace tag else s
  let s := (List.finRange 16).foldl (fun s q =>
    (s.queues[q].named tag addr).foldl (fun s i => (s.onQueue q (·.free i)).putDone (s.spaceOf tag) addr.toNat 2 2 0 0) s) s
  let s := ((s.launches.filter fun l => l.lrec.owner == tag && l.lrec.done == addr.toNat).map (·.num)).foldl
    (fun s n => s.cancelLaunch n false) s
  if any then s.rereadHeads.slotFreed else s

/-! ### Sending (R215, R216) -/

/-- An effect command may be sent: none is on its way, and no row of a committed drain-add waits (R171, R215). -/
def Core.maySend (c : Core) : Bool := c.run.sent.isNone && !c.addsDue

/-- What a step of a task's commands is for: the TID, and the commands that may be sent now (R215). -/
def State.unsent (s : State) : StepArg → Word × List EffCmd
  | .core k => (s.cores[k].ctx.x.tid, if s.cores[k].maySend then s.cores[k].run.effects else [])
  | .task tid => (tid, match s.taskOf tid with
    | some t => if t.stand = .parked && t.sent.isNone then t.cmds else []
    | none => [])
  | _ => (0, [])
/-- The commands that remain, and the one on its way. -/
def State.setUnsent (s : State) (rest : List EffCmd) (sent : Option EffCmd) : StepArg → State
  | .core k => s.onCore k fun c => c.onRun fun r => { r with effects := rest, sent := sent }
  | .task tid => s.onTask tid fun t => { t with cmds := rest, sent := sent }
  | _ => s
/-- An item on its way from a core over one of its free crossings, or from a task off its core (R347, R353). -/
def State.sendOver (s : State) (j : Fin 10) (a : StepArg) (d : Due) : State :=
  match a with
  | .core k => s.cross k j d
  | _ => s.later d
/-- The command of a task on its way to its engine: over the crossing to the base die for the sequencer, the publisher and the distributor, and
to the quadrants for the Weirs and the group engines (R218, R347, R353). -/
def State.dispatchCmd (s : State) (a : StepArg) (tid : Word) (e : EffCmd) : State :=
  match e.kind with
  | .rel | .acq | .acqs | .phase => s.sendOver 4 a (.dev .sequencerNumbering a)
  | .publish => s.sendOver 4 a (.dev .publishCounterWrite a)
  | .launch | .cancel => s.sendOver 4 a (.dev .effectCommandSend (.arrive tid (((s.taskOf tid).map (·.born)).getD 0)))
  | .fork => s.sendOver 3 a (.dev .forkAccept a)
  | .grwd | .gbar | .gcancel | .gquit => s.sendOver 3 a (.dev .groupEngineCommand a)
  | _ => s.sendOver 3 a (.dev .weirOperation a)

/-- A LAUNCH or a CANCEL at the distributor, which accepts it; a LAUNCH for a full queue waits there until a slot is free (R215, R264, R265). -/
def State.receive (s : State) (t : Task) (e : EffCmd) : State :=
  let l := (s.launchOf t.launch).map (·.lrec)
  let owner := (l.map (·.owner)).getD 0
  match e.kind with
  | .launch =>
    let q : Fin 16 := Fin.ofNat 16 e.b.toNat
    if s.queues[q].count = 63 then s
    else ((s.onQueue q (·.push e.image owner ((l.map (·.prio)).getD 0))).rereadHeads).accept t
  | .cancel => (s.cancelBy owner (e.a.setWidth 48)).accept t
  | _ => s

/-- EFFECT_COMMAND_SEND (R215, R216, R264, R265, R347): the oldest queued command of a task leaves it, for its engine. A LAUNCH or a CANCEL
that has crossed to the distributor is received there. -/
def execEffectCommandSend (s : State) : Out :=
  match s.arg with
  | .arrive tid born =>
    if s.onItsWay (.dev .effectCommandSend (.arrive tid born)) then .next s
    else match (s.taskOf tid).filter (·.born == born) with
      | some t =>
        match s.sentOf t with
        | some e => .next (s.receive t e)
        | none => .next s
      | none => .next s
  | a =>
    match s.unsent a with
    | (_, []) => .next s
    | (tid, e :: rest) => .next ((s.setUnsent rest (some e) a).dispatchCmd a tid e)

end Sys2Proof.Machine
end

