-- ==== Sys2Proof/Machine/Save.lean ====
section
/-! DEFINITION. The save area: its layout written and read, pitches written out, claimed and loaded, and the end of a task
(R120, R205, R243, R254, R255, R273, R282 to R288, R291, R325, R340). -/

namespace Sys2Proof.Machine

/-! ### The layout (R282 to R284) -/

/-- A bit as a number. -/
def bit (b : Bool) : Nat := if b then 1 else 0

/-- The code of a group flag (R283). -/
def GroupFlag.code : GroupFlag → Nat
  | .none => 0
  | .opened => 1
  | .barrierSent => 2
/-- The group flag of a code. -/
def groupFlagOf (n : Nat) : GroupFlag := if n = 1 then .opened else if n = 2 then .barrierSent else .none

/-- The header (R283): offset, bytes, value. -/
def Ctx.header (c : Ctx) (kind rem stages : Nat) (restart : Word) : List (Nat × Nat × Nat) :=
  let x := c.x
  [(0, 8, kind * 2 ^ 62 + restart.toNat % 2 ^ 48), (8, 8, stages * 2 ^ 32 + rem), (16, 8, x.tick.toNat), (24, 8, x.emet.toNat),
    (32, 8, x.wuc.toNat), (40, 8, x.srs.toNat), (48, 8, x.tid.toNat),
    (56, 8, bit x.priv * 2 ^ 40 + x.sib.toNat * 2 ^ 32 + x.grp.toNat),
    (64, 8, x.lstg.toNat * 2 ^ 40 + x.vrb.toNat * 2 ^ 32 + x.lcnt.toNat), (72, 8, x.prb.toNat), (80, 8, x.tvec.toNat),
    (88, 8, x.trec.toNat), (96, 8, c.groupFlag.code * 4 + bit c.resumed.isSome * 2), (104, 152, 0)]

/-- The two words of a ring and its stamps (R284). -/
def ringWords (r : Option Ring) : Nat :=
  match r with
  | none => 0
  | some r => 2 ^ 63 + r.fill * 2 ^ 50 + r.reserved * 2 ^ 43 + r.free * 2 ^ 36 + (r.count - 1) * 2 ^ 30 + (r.size - 1) * 2 ^ 22 + r.base +
      2 ^ 64 * (r.cons * 2 ^ 8 + r.prod) + 2 ^ 128 * r.stamps.foldr (fun z n => z.val + 4 * n) 0

/-- The state code of a tag (R284); a tag that is pending at a save is pending at the Weir (R280), or unsent behind such a command. -/
def TagSt.code : TagSt → Nat
  | .idle => 0
  | .complete => 1
  | .pending => 2

/-- The status block without the pitch map (R284). -/
def Ctx.statusBlock (c : Ctx) : List (Nat × Nat × Nat) :=
  (List.finRange 64).map (fun k => (0x400 + k.val, 1, c.v[k].tag.code)) ++
  (List.finRange 8).map (fun n => (0x440 + 32 * n.val, 32,
    c.a[n].clean.toNat + 2 ^ 128 * c.a[n].events.toNat + 2 ^ 160 * c.a[n].tag.code)) ++
  (List.finRange 2).map (fun b => (0x540 + 16 * b.val, 16, c.w[b].tag.code + 256 * bit c.w[b].clean)) ++
  [(0x560, 0x20, 0), (0x580, 16, c.tags.toList.foldr (fun t n => t.st.code + 4 * n) 0), (0x590, 8, c.ctb.toNat), (0x598, 0x68, 0)] ++
  (List.finRange 16).map (fun h => (0x600 + 32 * h.val, 32, ringWords c.h[h])) ++
  (List.finRange 64).map (fun t => (0x800 + 8 * t.val, 8, c.tags[t].status.toNat)) ++ [(0xC00, 0x400, 0)]

/-- Registers, buffers and tiles (R282). -/
def Ctx.registers (c : Ctx) : List (Nat × Nat × Nat) :=
  (List.finRange 64).map (fun k => (0x100 + 8 * k.val, 8, (c.sreg k).toNat)) ++
  (List.finRange 32).map (fun k => (0x300 + 8 * k.val, 8, (c.preg k).toNat)) ++
  (List.finRange 64).map (fun k => (0x1000 + 256 * k.val, 256, c.v[k].bits.toNat)) ++
  (List.finRange 2).flatMap (fun b => (List.finRange 128).flatMap fun j =>
    [(0x5000 + 0x8800 * b.val + 256 * j.val, 256, c.w[b].lines[j].toNat),
     (0xD000 + 0x8800 * b.val + 16 * j.val, 16, c.w[b].scales[j].toNat)]) ++
  (List.finRange 8).flatMap fun n => (List.finRange 128).map fun r =>
    (0x16000 + 0x10000 * n.val + 512 * r.val, 512, c.a[n].rows[r].toNat)

/-- The unsent effect commands (R282): 32 entries of 320 bytes, oldest first; the rest up to the pitches is zero. -/
def effectItems (l : List EffCmd) : List (Nat × Nat × Nat) :=
  (0x97000, 0x9000, 0) :: ((l.take 32).zipIdx.flatMap fun p =>
    let o := 0x97000 + 320 * p.2
    let e := p.1
    [(o, 8, 2 ^ 63 + e.syll.toNat), (o + 8, 24, e.a.toNat + 2 ^ 64 * e.b.toNat + 2 ^ 128 * e.c.toNat)] ++
      (if e.kind == .launch then [(o + 32, 256, e.image.toNat)]
       else if e.kind == .fork then [(o + 32, 64, e.image.toNat % 2 ^ 512)] else []))

/-- The horizons (R282): tasks of the launch first, then the siblings of each. -/
def State.horizonItems (s : State) (t : Task) (cores : Nat) : List (Nat × Nat × Nat) :=
  let h (i : Nat) : Nat := View.at ⟨t.horizon, t.horizons, 0, (0, 0)⟩ (s.holderOf (BitVec.ofNat 64 (t.launch * 65536 + i)))
  (List.range cores).map (fun j => (0x4A0000 + 8 * j, 8, h j)) ++
    (List.range (64 * cores)).map fun i => (0x4A0000 + 8 * (cores + i), 8, h (0x8000 + i))

/-- A word of the pitch map (R284). -/
def pitchWord : PitchAt → Nat
  | .resident k p => 2 ^ 63 + p.val * 2 ^ 9 + coreNumber k
  | .saved => 2 ^ 63 + 2 ^ 62
/-- The pitch map (R284). -/
def pitchItems (l : List PitchAt) : List (Nat × Nat × Nat) :=
  (List.range 64).map fun i => (0xA00 + 8 * i, 8, (l[i]?.map pitchWord).getD 0)

/-- Items written into a save area. -/
def State.areaWrite (s : State) (i : Nat) (l : List (Nat × Nat × Nat)) : State := l.foldl (fun s x => s.areaPut i x.1 x.2.1 x.2.2) s

/-- The pages of a save area that a save stores into: all before the pitches, and those of the horizons. -/
def savePages (cores : Nat) : List Nat :=
  (List.range 10).map (65536 * ·) ++ (List.range ((520 * cores + 65535) / 65536)).map fun k => 0x4A0000 + 65536 * k

/-- What an unsent command needs beside its entry: the expected value of a SYN.CAS, the SRS and the number of a FORK. -/
def EffCmd.seed (e : EffCmd) : Word × Nat :=
  if e.kind == .fork then (imgWord e.image 8, (imgWord e.image 9).toNat) else (imgWord e.image 0, 0)

/-! ### Events and the end of a task -/

/-- A context leaves a core: what its interval has gathered stays (R340), and the core is free. -/
def State.leaveCore (s : State) (k : CoreId) : State :=
  s.onCore k fun c =>
    { c with
      ctx := { c.ctx with pitch := [] }, run := Run.reset
      sample := { c.sample with
        act := c.sample.act + (c.ctx.x.tick - c.sample.tick0).toNat, fj := c.sample.fj + (c.ctx.x.emet - c.sample.emet0).toNat
        last := (s.taskOf c.ctx.x.tid).map (·.born), ran := true } }

/-- The code of a cause (R318). -/
def Cause.code : Cause → Nat
  | .illegal => 1 | .format => 2 | .cleanRequired => 3 | .staleHandle => 4 | .swizzle => 5 | .scaleNotPermitted => 6 | .align => 7
  | .bounds => 8 | .priv => 9 | .segmentCheck => 10 | .poisonUse => 11 | .staleView => 12 | .contextSaveFault => 13 | .trapInstr => 14
  | .ringConfig => 15 | .machineCheck => 16

/-- A task was ended by a trap: event 0x40 (R325, R338). -/
def State.escalation (s : State) (k : CoreId) (t : Trap) (tid : Word) : State :=
  s.event 0x40 1 (coreNumber k) (t.bundle.setWidth 64 <<< 16 ||| BitVec.ofNat 64 t.cause.code) tid

/-- The task's parent, when it is a sibling (R268). -/
def parentOf (tid : Word) : Word := BitVec.ofNat 64 (launchNo tid * 65536 + ((tid.extractLsb' 0 16).toNat - 0x8000) / 64)
/-- A parent has a sibling that has not retired. -/
def State.hasSiblings (s : State) (tid : Word) : Bool := s.groups.any fun g => g.parent == tid && s.groupLive g

/-- A task retires (R120, R205, R254, R270, R273, R291): its log is released under a fresh number, it leaves the live set, its figures
enter the launch, and a sibling's pending slot is decided. Where the release reports a sticky code and a count of dropped segments R242 does not
say: they are cleared and stand nowhere, a DESIGN CHOICE (log 121). A parent that waits for its last sibling, and the final write of a launch
without tasks, follow. -/
def State.retire (s : State) (t : Task) (wuc code : Nat) (faulted : Bool) : State :=
  let (n, s) := s.number
  let (s, _, _) := s.release t.tid n
  let s := ({ s with tasks := s.tasks.filter (·.tid != t.tid) } : State).onLaunch t.launch fun l =>
    { l with code := max l.code code, wear := l.wear + wuc, faulted := l.faulted || faulted }
  let s := if t.group = 0 then s else s.decideSlot t.group ((t.tid.extractLsb' 0 6).toNat) (if faulted then .faulted else .withdrawn)
  let s := s.freeGroups
  let s := if s.hasSiblings t.tid then s else { s with groups := s.groups.filter (·.parent != t.tid) }
  let s := if t.group = 0 then s else
    match s.taskOf (parentOf t.tid) with
    | some p => if p.stand == .parked && !s.hasSiblings p.tid then s.soon [.dev .taskRetirement (.task p.tid)] else s
    | none => s
  if (s.tasksOf t.launch).isEmpty then (s.later (.dev .logCompaction (.launch t.launch))).later (.dev .completionFinalWrite (.launch t.launch))
  else s.later (.dev .logCompaction (.launch t.launch))

/-- A task off its core ends: its waits at the Weirs leave their queues, and it retires from its saved state (R261, R288). -/
def State.endSaved (s : State) (t : Task) (wuc code : Nat) (faulted : Bool) : State :=
  (s.withdraw t.tid stCancelled).retire t wuc code faulted
/-- The WUC a save area holds (R283). -/
def State.savedWuc (s : State) (t : Task) : Nat := s.areaGet t.area 32 8
/-- The same, with the state after the check of what is read for it (R196). -/
def State.readWuc (s : State) (t : Task) : Nat × State :=
  let s := s.checkBytes t.area 32 8
  (s.savedWuc t, s)

/-- CONTEXT-SAVE-FAULT against a task (R288, R325): it is terminated, with an event of its own and that of an escalation, whose
bundle is a free value. Its state is lost: of a parent that stays until its siblings have retired no pitch, no wait and no command is left. -/
def State.saveFault (s : State) (t : Task) (wuc : Nat) : State :=
  let s := s.eventOpen 0x30 1 (coreNumber t.core)
  let s := s.draw.escalation t.core ⟨.contextSaveFault, 0, Config.freeBits 48 s.free 0, none, none, 0, 0, 0, .normal⟩ t.tid
  if s.hasSiblings t.tid then
    (s.withdraw t.tid stCancelled).onTask t.tid fun t =>
      { t with stand := .parked, faulted := true, code := 0, pitches := [], seeds := [], sent := none, cmds := [], held := [] }
  else s.endSaved t wuc 0 true
/-- A task off its core is ended by CONTEXT-SAVE-FAULT, with the WUC its area holds. -/
def State.areaFault (s : State) (t : Task) : State := (s.readWuc t).2.saveFault t (s.readWuc t).1

/-! ### Pitches (R285, R286) -/

/-- The bits of 256 lines from a line, as a number. -/
def lineBits (l : List Nat) (first : Nat) : Nat := (List.range 256).foldr (fun i n => bit (l.contains (first + i)) + 2 * n) 0
/-- The bits of 256 lines from a line put into a list. -/
def putLineBits (l : List Nat) (first bits : Nat) : List Nat :=
  (List.range 256).foldl (fun l i => setPut l (first + i) (bits / 2 ^ i % 2 == 1)) l

/-- PITCH_WRITE_OUT's effect (R285, R288): a resident pitch of a task off its core goes to its slot, data and line bits together; a
fault terminates the task. -/
def State.writeOut (s : State) (tid : Word) (i : Nat) : State :=
  match s.taskOf tid with
  | none => s
  | some t =>
    match t.pitches[i]? with
    | some (.resident k p) =>
      let s := s.checkStores t.area [areaPitch i, areaBits i, 0]
      let m := s.cores[k].sram
      if s.areaAllows .write t.area (areaPitch i) && s.areaAllows .write t.area (areaBits i) && s.areaAllows .write t.area 0 then
        (s.areaWrite t.area [(areaPitch i, 65536, memLe m.bytes (65536 * p.val) 65536), (areaBits i, 32, lineBits m.poison (256 * p.val)),
          (areaBits i + 32, 32, lineBits m.clean (256 * p.val)), (0xA00 + 8 * i, 8, pitchWord .saved)]).onTask tid
          fun t => { t with pitches := t.pitches.set i .saved }
      else s.areaFault t
    | _ => s

/-- PITCH_WRITE_OUT (R285). -/
def execPitchWriteOut (s : State) : Out :=
  match s.arg with
  | .pitch tid i => .next (s.writeOut tid i)
  | _ => .next s

/-- The resident pitches of contexts that have left a core, in the order of claims: the context suspended earliest first, its highest
logical pitch first; one context is left out. -/
def State.claimable (s : State) (k : CoreId) (but : Option Word) : List (Word × Nat × Fin 64) :=
  let ts := sortOn (·.order) (s.tasks.filter fun t => t.stand != .onCore && some t.tid != but)
  ts.flatMap fun t => (t.pitches.zipIdx.filterMap fun p =>
    match p.1 with
    | .resident c f => if c = k then some (t.tid, p.2, f) else none
    | .saved => none).reverse
/-- The free physical pitches of a core. -/
def State.freePitches (s : State) (k : CoreId) : List (Fin 64) :=
  (List.finRange 64).filter fun p => !(s.claimable k none).any (·.2.2 == p) && !s.cores[k].ctx.pitch.contains p
/-- n physical pitches for a context on a core: free ones, then claimed ones written out first (R285). -/
def State.claimPitches (s : State) (k : CoreId) (tid : Word) (n : Nat) : State × List (Fin 64) :=
  let free := s.freePitches k
  let claim := (s.claimable k (some tid)).take (n - free.length)
  let s := claim.foldl (fun s c => s.writeOut c.1 c.2.1) s
  (s, (free ++ claim.map (·.2.2)).take n)

/-- A physical pitch zero-filled: poison bits clear and clean bits set (R36, R95). -/
def Sram.zeroPitch (m : Sram) (p : Fin 64) : Sram :=
  { m with
    bytes := memPut m.bytes (65536 * p.val) 0 65536, poison := putLineBits m.poison (256 * p.val) 0
    clean := putLineBits m.clean (256 * p.val) (2 ^ 256 - 1) }
/-- A saved pitch loaded exactly as saved (R285). -/
def State.loadPitch (s : State) (k : CoreId) (area i : Nat) (p : Fin 64) : State :=
  let v := s.areaGet area (areaPitch i) 65536
  let pb := s.areaGet area (areaBits i) 32
  let cb := s.areaGet area (areaBits i + 32) 32
  s.onCore k fun c => { c with sram := { c.sram with
    bytes := memPut c.sram.bytes (65536 * p.val) v 65536, poison := putLineBits c.sram.poison (256 * p.val) pb
    clean := putLineBits c.sram.clean (256 * p.val) cb } }

/-! ### Reading a context (R283, R284, R287) -/

/-- n bytes of a save area as bits. -/
def State.areaBitsAt (s : State) (i w off n : Nat) : BitVec w := BitVec.ofNat w (s.areaGet i off n)

/-- A tile as the area holds it (R282, R284). -/
def State.loadTile (s : State) (i : Nat) (n : Fin 8) : Tile :=
  { rows := Vector.ofFn fun r : Fin 128 => s.areaBitsAt i 4096 (0x16000 + 0x10000 * n.val + 512 * r.val) 512
    clean := s.areaBitsAt i 128 (0x440 + 32 * n.val) 16, events := s.areaBitsAt i 32 (0x450 + 32 * n.val) 4
    tag := tagOfCode (s.areaGet i (0x454 + 32 * n.val) 1 % 16) }

/-- A ring from its words (R284). -/
def ringOfWords (v : Nat) : Option Ring :=
  if v / 2 ^ 63 % 2 = 0 then none
  else
    let count := v / 2 ^ 30 % 64 + 1
    some { base := v % 2 ^ 22, size := v / 2 ^ 22 % 256 + 1, count := count, free := v / 2 ^ 36 % 128, reserved := v / 2 ^ 43 % 128
           fill := v / 2 ^ 50 % 128, prod := v / 2 ^ 64 % 64, cons := v / 2 ^ 72 % 64
           stamps := (List.range count).map fun j => Fin.ofNat 4 (v / 2 ^ (128 + 2 * j)), done := List.replicate count false }

/-- The tag state of a code. -/
def tagStOf (n : Nat) : TagSt := if n = 1 then .complete else if n = 2 then .pending else .idle

/-- The context a save area holds (R282 to R284, R287). -/
def State.loadCtx (s : State) (i : Nat) : Ctx :=
  let w (off : Nat) : Word := s.areaBitsAt i 64 off 8
  let st := s.areaGet i 0x580 16
  { s := Vector.ofFn fun k : Fin 64 => w (0x100 + 8 * k.val)
    p := Vector.ofFn fun k : Fin 32 => w (0x300 + 8 * k.val)
    v := Vector.ofFn fun k : Fin 64 => ⟨s.areaBitsAt i 2048 (0x1000 + 256 * k.val) 256, tagOfCode (s.areaGet i (0x400 + k.val) 1 % 16)⟩
    a := Vector.ofFn fun n : Fin 8 => s.loadTile i n
    w := Vector.ofFn fun b : Fin 2 =>
      { lines := Vector.ofFn fun j : Fin 128 => s.areaBitsAt i 2048 (0x5000 + 0x8800 * b.val + 256 * j.val) 256
        scales := Vector.ofFn fun j : Fin 128 => s.areaBitsAt i 128 (0xD000 + 0x8800 * b.val + 16 * j.val) 16
        tag := tagOfCode (s.areaGet i (0x540 + 16 * b.val) 1 % 16), clean := s.areaGet i (0x541 + 16 * b.val) 1 % 2 == 1 }
    h := Vector.ofFn fun h : Fin 16 => ringOfWords (s.areaGet i (0x600 + 32 * h.val) 32)
    tags := Vector.ofFn fun t : Fin 64 => ⟨tagStOf (st / 4 ^ t.val % 4), w (0x800 + 8 * t.val)⟩
    x := { tick := w 16, vrb := s.areaBitsAt i 6 68 1, prb := s.areaBitsAt i 5 72 1, lcnt := s.areaBitsAt i 32 64 4
           lstg := s.areaBitsAt i 8 69 1, srs := w 40, tid := w 48, sib := s.areaBitsAt i 8 60 1, grp := s.areaBitsAt i 32 56 4
           emet := w 24, wuc := w 32, priv := s.areaGet i 61 1 % 2 == 1, tvec := w 80, trec := w 88 }
    groupFlag := groupFlagOf (s.areaGet i 96 1 / 4 % 4), groupStatus := 0, forks := 0, retry := false, resumed := some (w 0 &&& 0xFFFFFFFFFFFF)
    pc := w 0 &&& 0xFFFFFFFFFFFF, pitch := [] }

/-- The unsent commands a save area holds, with what the task kept beside them (R216, R282). -/
def State.loadEffects (s : State) (i : Nat) (seeds : List (Word × Nat)) : List EffCmd :=
  (seeds.zipIdx.filterMap fun p =>
    let o := 0x97000 + 320 * p.2
    let v := s.areaGet i o 8
    let y := BitVec.ofNat 32 v
    let a := s.areaBitsAt i 64 (o + 8) 8
    let b := s.areaBitsAt i 64 (o + 16) 8
    let c := s.areaBitsAt i 64 (o + 24) 8
    if v / 2 ^ 63 % 2 = 0 then none
    else (effKinds.find? fun k => k.major == (y.extractLsb' 25 7).toNat).map fun k =>
      let tag : Option TagId :=
        if [EffKind.fork, .grwd, .gbar, .gcancel, .gquit, .launch, .cancel].contains k then none
        else some (Fin.ofNat 64 (y.extractLsb' 19 6).toNat)
      let image : Line :=
        if k == .launch then s.areaBitsAt i 2048 (o + 32) 256
        else if k == .fork then BitVec.ofNat 2048 (s.areaGet i (o + 32) 64 + 2 ^ 512 * p.1.1.toNat + 2 ^ 576 * p.1.2)
        else p.1.1.setWidth 2048
      ⟨y, k, tag, a, b, c, image⟩)

end Sys2Proof.Machine
end

