-- ==== Sys2Proof/Machine/Stop.lean ====
section
/-! DEFINITION. How a task leaves its core and comes back: cancels and pre-emptions at their taking points, the save, retirement and the
final write, and resumption (R25, R26, R120, R213, R254, R255, R260, R261, R273, R275 to R281, R285 to R288, R351). -/

namespace Sys2Proof.Machine

/-! ### Taking points (R25, R261, R275, R276) -/

/-- The current region, whose last bundle has issued, closes; it stays checked. -/
def Core.endRegion (c : Core) : Core := if c.run.openNext then c else c.closeRegion
/-- A split commit closes the current region at the last bundle that issued; it is no longer checked (R276, R278). -/
def Core.splitRegion (c : Core) : Core :=
  if c.run.openNext then c else (c.onRegion fun r => { r with checked := none }).closeRegion
/-- The current region is returned to its head without a record (R25). -/
def Core.returnHead (c : Core) : Core :=
  c.onRun fun r => { r with
    phase := .trapping, frozen := [], trap := some ⟨.illegal, 0, c.pc48, some c.regionId, none, 0, 0, 0, .quiet⟩ }
/-- Where a task that stands at its next bundle stops: frozen it splits its region, or returns it to its head while a loop is armed;
otherwise its region has ended. head says that the waiting bundle heads a region. -/
def Core.standStill (c : Core) (head : Bool) : Core × Bool :=
  if c.run.frozen.isEmpty || head then (c.endRegion, true)
  else if c.ctx.x.armed then (c.returnHead, false)
  else (c.splitRegion, true)

/-- PREEMPT_TAKE (R25, R275 to R277): the request is taken at the core's taking point, with its restart kind. -/
def execPreemptTake (s : State) : Out :=
  match s.arg with
  | .take k head =>
    let c := s.cores[k]
    if c.run.phase != .running || !c.run.preempt || c.run.cancel then .next s
    else
      let go (c : Core) (kind : Fin 3) (pc : Word) : Core :=
        c.onRun fun r => { r with phase := .preempting, take := (kind, pc), frozen := [] }
      if c.run.drain.isSome && !c.ctx.x.armed then .next (s.onCore k fun c => go c.splitRegion 2 c.run.loopTop)
      else
        let kind : Fin 3 := if c.run.frozen.isEmpty || c.ctx.x.armed then 0 else 1
        let r := c.standStill head
        .next (s.onCore k fun _ => if r.2 then go r.1 kind c.ctx.pc else r.1)
  | _ => .next s

/-- What a stopped task's commands come to (R216, R261, R325): under a cancel, copies that have not started complete with CANCELLED, each in
its queue's order (R214); waits at the Weirs leave their queues. -/
def State.stopCommands (s : State) (k : CoreId) : State :=
  let c := s.cores[k]
  let s := if c.run.escalated.isSome then s else
    (c.run.copies.filter fun m => m.phase == .waiting && m.tag.isSome).foldl
      (fun s m => s.halt k { m with phase := .running, atoms := [] } stCancelled) s
  s.withdraw c.ctx.x.tid stCancelled

/-- TASK_STOP (R261): a cancelled task stops at its stopping point, and its commands in flight are ended. -/
def execTaskStop (s : State) : Out :=
  match s.arg with
  | .take k head =>
    let c := s.cores[k]
    match c.run.phase with
    | .running =>
      if !c.run.cancel then .next s
      else
        let r := c.standStill head
        if r.2 then
          .next ((s.onCore k fun _ => r.1.onRun fun x => { x with phase := .stopping, code := 0, frozen := [], drain := none }).stopCommands k)
        else .next (s.onCore k fun _ => r.1)
    | .stopping => .next (s.stopCommands k)
    | .ended => .next (if c.run.cancel then s.stopCommands k else s)
    | _ => .next s
  | _ => .next s

/-! ### Requests and cancels that arrive (R260, R261, R275) -/

/-- A suspended task cancelled (R216, R261, R273): its waits leave their queues, the commands behind them are sent, and it retires from its
saved state once they have been accepted and its siblings have retired. -/
def State.cancelSaved (s : State) (t : Task) : State :=
  let s := s.checkArea t.area [0x97000]
  let s := s.onTask t.tid fun u =>
    { u with stand := .parked, cancel := true, code := 0, cmds := s.loadEffects t.area t.seeds ++ u.cmds, seeds := [], held := [] }
  (s.withdraw t.tid stCancelled).soon [.dev .effectCommandSend (.task t.tid), .dev .taskRetirement (.task t.tid)]

/-- CANCEL_DELIVERY (R260, R261): a cancel reaches a task on its core, or one that is suspended. -/
def execCancelDelivery (s : State) : Out :=
  match s.arg with
  | .born tid n =>
    match (s.taskOf tid).filter (·.born == n) with
    | none => .next s
    | some t =>
      match t.stand with
      | .onCore => .next ((s.onTask tid fun t => { t with cancel := true }).onCore t.core fun c => c.onRun fun r =>
          { r with cancel := true, phase := if r.phase == .preempting then .stopping else r.phase })
      | .suspended => .next (s.cancelSaved t)
      | .parked => .next (s.onTask tid fun t => { t with cancel := true })
  | _ => .next s

/-- A pre-emption request on its way; for a sibling it goes to its whole gang (R275, R281, R353). -/
def State.requestPreempt (s : State) (tid : Word) : State :=
  match s.taskOf tid with
  | none => s
  | some t =>
    let all := if t.group = 0 then [t] else s.tasks.filter (·.group == t.group)
    all.foldl (fun s t => s.cross t.core 5 (.dev .preemptRequest (.born t.tid t.born))) s

/-- PREEMPT_REQUEST (R275): a request reaches the core of the task it names. Where it is taken goes by the core's state as the first one
arrives: fresh holds until the core goes on. -/
def execPreemptRequest (s : State) : Out :=
  match s.arg with
  | .born tid n =>
    match (s.taskOf tid).filter (·.born == n) with
    | none => .next s
    | some t =>
      if t.stand != .onCore then .next s
      else .next (s.onCore t.core fun c => c.onRun fun r =>
        let first := !r.preempt && (r.phase == .running || r.phase == .trapping) && !r.cancel
        { r with preempt := r.preempt || first, fresh := r.fresh || first })
  | _ => .next s

/-! ### The save (R280 to R285, R288) -/

/-- Everything of a task that runs in its core has ended. -/
def Core.drained (c : Core) : Bool :=
  c.run.regions.isEmpty && c.run.flights.isEmpty && c.run.mops.isEmpty && c.run.copies.isEmpty &&
    c.run.drainBuf.isNone
/-- The command a core has sent is pending at a Weir. -/
def State.atWeir (s : State) (c : Core) : Bool := (s.sems ++ s.bars).any (·.tid == c.ctx.x.tid)
/-- The save may be made: only a SYN.WAIT or SYN.BAR pending at its Weir, and commands queued behind it, may be left (R280). -/
def State.maySave (s : State) (c : Core) : Bool :=
  c.drained && ((c.run.sent.isNone && c.run.effects.isEmpty) || s.atWeir c)

/-- The pages that a save of a task stores into. -/
def State.saveStores (s : State) (t : Task) : List Nat := savePages (((s.launchOf t.launch).map (·.lrec.cores)).getD 0)
/-- The context of the task on a core saved: every page of its area is asked first, and nothing is written where one of them fails. -/
def State.saveCtx (s : State) (k : CoreId) (t : Task) (kind rem stages : Nat) (restart : Word) : Option State :=
  let c := s.cores[k]
  let cores := ((s.launchOf t.launch).map (·.lrec.cores)).getD 0
  let pitches := c.ctx.pitch.map (PitchAt.resident k)
  if (s.saveStores t).all fun off => s.areaAllows .write t.area off then
    some (s.areaWrite t.area (c.ctx.header kind rem stages restart ++ c.ctx.registers ++ c.ctx.statusBlock ++ pitchItems pitches ++
      effectItems c.run.effects ++ s.horizonItems t cores))
  else none

/-- A task off its core keeps what its area does not hold, the commands behind a full queue among it (log 83); its pitches stay resident
(R285). -/
def State.putAway (s : State) (k : CoreId) (tid : Word) (stand : Stand) : State :=
  let c := s.cores[k]
  let s := s.onTask tid fun t => { t with
    stand := stand, pitches := c.ctx.pitch.map (PitchAt.resident k), order := s.orders, code := c.run.code, forks := c.ctx.forks
    seeds := (c.run.effects.take 32).map (·.seed), cmds := c.run.effects.drop 32, status := c.ctx.groupStatus, held := c.run.held }
  ({ s with orders := s.orders + 1 } : State).leaveCore k

/-- CONTEXT_SAVE (R280 to R285, R288). -/
def execContextSave (s : State) : Out :=
  match s.arg with
  | .core k =>
    let c := s.cores[k]
    match s.taskOf c.ctx.x.tid with
    | none => .next s
    | some t =>
      if c.run.phase != .preempting || !s.maySave c then .next s
      else
        let two := c.run.take.1 = 2
        let s := s.checkStores t.area (s.saveStores t)
        match s.saveCtx k t c.run.take.1.val (if two then c.run.drain.getD 0 else 0) (if two then c.run.stages else 0) c.run.take.2 with
        | some s => .next (s.putAway k t.tid .suspended)
        | none => .next ((s.putAway k t.tid .suspended).saveFault t c.ctx.x.wuc.toNat)
  | _ => .next s

/-! ### Retirement and the final write (R120, R254, R255, R273, R351) -/

/-- Every command of a task has completed, besides what is drained (R120). -/
def Core.retires (c : Core) : Bool := c.drained && c.run.effects.isEmpty && c.run.sent.isNone

/-- A parent leaves its core until its siblings have retired; its context is saved as a suspended one's (R273). -/
def State.park (s : State) (k : CoreId) (t : Task) (faulted : Bool) : State :=
  let s := s.checkStores t.area (s.saveStores t)
  match s.saveCtx k t 0 0 0 s.cores[k].ctx.pc with
  | some s => (s.putAway k t.tid .parked).onTask t.tid fun t => { t with faulted := faulted }
  | none => (s.putAway k t.tid .parked).saveFault t s.cores[k].ctx.x.wuc.toNat

/-- TASK_RETIREMENT (R120, R273, R325, R351): a task on its core that has ended or stopped retires once nothing of it is outstanding; a
fault held after END escalates first. A parent off its core retires after its siblings. -/
def execTaskRetirement (s : State) : Out :=
  match s.arg with
  | .core k =>
    let c := s.cores[k]
    match s.taskOf c.ctx.x.tid with
    | none => .next s
    | some t =>
      if !(c.run.phase == .ended || c.run.phase == .stopping) || !c.retires then .next s
      else
        match c.run.held with
        | h :: _ =>
          if c.run.cancel || c.run.escalated.isSome then .next (s.onCore k fun c => c.onRun fun r => { r with held := [] })
          else .next ((s.escalation k h t.tid).onCore k fun c => c.onRun fun r =>
            { r with held := [], escalated := some h.cause, phase := .stopping, code := 0 })
        | [] =>
          let faulted := c.run.escalated.isSome
          if s.hasSiblings t.tid then .next (s.park k t faulted)
          else .next ((s.retire t c.ctx.x.wuc.toNat c.run.code.toNat faulted).leaveCore k)
  | .task tid =>
    match s.taskOf tid with
    | none => .next s
    | some t =>
      if t.stand != .parked || t.sent.isSome || !t.cmds.isEmpty then .next s
      else
        match t.held with
        | h :: _ => .next (((s.escalation t.core h tid).onTask tid fun t => { t with held := [], code := 0, faulted := true }).soon
            [.dev .taskRetirement (.task tid)])
        | [] => .next (if s.hasSiblings tid then s else (s.readWuc t).2.endSaved t (s.readWuc t).1 t.code.toNat t.faulted)
  | _ => .next s

/-- The status of a launch's completion word (R254). -/
def Launch.status (l : Launch) : Nat := if l.cancelled then 3 else if l.overWear then 4 else if l.faulted then 5 else 0

/-- COMPLETION_FINAL_WRITE (R254, R255): every task has retired; every released record is folded first. -/
def execCompletionFinalWrite (s : State) : Out :=
  match s.arg with
  | .launch n =>
    match s.launchOf n with
    | none => .next s
    | some l =>
      if !(s.tasksOf n).isEmpty || s.groups.any (·.launch == n) then .next s
      else
        let s := (s.compact n).putDone (some l.space) l.lrec.done 2 l.status l.code l.wear
        .next ({ s with launches := s.launches.filter (·.num != n), logs := s.logs.filter (·.launch != n) } : State).rereadHeads
  | _ => .next s

/-! ### Resumption (R213, R278, R279, R285, R287, R288) -/

/-- A core's clock at the end of the time in which it ran nothing, its next period to start at a clock or next after it: its periods have gone
on, stretched ones among them (R345, R346). -/
def Clk.idleTo (x : Clk) (now : Nat) : Clk :=
  let p := (x.following now).1
  let a := (x.ctl.filter (· < p)).length
  let b := (x.arr.filter (· < p)).length
  { x with
    edge := (x.following now).2, period := p, ctl := x.ctl.filter (p ≤ ·), arr := x.arr.filter (p ≤ ·), skew := x.skew + a - b, late := false
    start := none }
/-- A context begins to run on a core: its first bundle issues after a time that is not fixed (R353). -/
def State.startCore (s : State) (k : CoreId) (ctx : Ctx) (run : Run) : State :=
  (s.draw).onCore k fun c =>
    { c with
      ctx := ctx, run := run, clk := { c.clk with late := false, start := some (s.now + 1 + Config.delay s.free) }
      sample := { c.sample with tick0 := ctx.x.tick, emet0 := ctx.x.emet, ran := true } }

/-- The state a kind-2 restart applies (R278). -/
def Ctx.rearm (c : Ctx) (rem stages : Nat) : Ctx :=
  let c := c.setP (physPOf c.x.prb 8) (BitVec.allOnes 64) (BitVec.allOnes 64)
  { c with x := { c.x with lcnt := BitVec.ofNat 32 (rem - 1), lstg := lstgOf stages } }

/-- The pitches of a context that comes to a core: those resident there are taken back, the others claimed and loaded (R285). -/
def State.bringPitches (s : State) (k : CoreId) (t : Task) : State × List (Fin 64) :=
  let need := (t.pitches.filter fun p => match p with
    | .saved => true
    | .resident _ _ => false).length
  let (s, ps) := s.claimPitches k t.tid need
  let r := t.pitches.zipIdx.foldl (fun (x : State × List (Fin 64) × List (Fin 64)) p =>
    match p.1 with
    | .resident _ f => (x.1, x.2.1 ++ [f], x.2.2)
    | .saved =>
      let f := x.2.2.headD 0
      (x.1.loadPitch k t.area p.2 f, x.2.1 ++ [f], x.2.2.drop 1)) (s, [], ps)
  (r.1, r.2.1)

/-- A core's state accepts a ramp floor: a Derated core one of ramp 2 or more (R259, R342). -/
def Core.accepts (c : Core) (floor : Fin 4) : Bool :=
  c.usable && (c.wear.st == .healthy || (c.wear.st == .derated && floor.val ≥ 1))
/-- RESUMPTION (R278, R285, R287, R288, R343): a suspended task comes to a core that may still take it: pitches resident elsewhere are written out first, then
everything is restored. A failed or poisoned read of its area is CONTEXT-SAVE-FAULT. -/
def execResumption (s : State) : Out :=
  match s.arg with
  | .place tid k =>
    match s.taskOf tid with
    | none => .next s
    | some t =>
      if t.stand != .suspended || s.cores[k].busy || !s.cores[k].accepts (((s.launchOf t.launch).map (·.lrec.floor)).getD 0) then .next s
      else
        let s := if t.core = k then s else (List.range t.pitches.length).foldl (fun s i => s.writeOut tid i) s
        match (s.taskOf tid).filter (·.stand == .suspended) with
        | none => .next s
        | some t =>
          let pages := s.saveStores t
          let saved := t.pitches.zipIdx.filterMap fun p => if p.1 = .saved then some (areaPitch p.2) else none
          let s := s.checkArea t.area (pages ++ saved)
          if !((pages ++ saved).all fun off => s.areaAllows .read t.area off) then .next (s.areaFault t)
          else
            let (s, ps) := s.bringPitches k t
            let c := { s.loadCtx t.area with groupStatus := t.status, forks := t.forks, pitch := ps }
            let head := s.areaGet t.area 0 8
            let counts := s.areaGet t.area 8 8
            let c := if head / 2 ^ 62 = 2 then c.rearm (counts % 2 ^ 32) (counts / 2 ^ 32) else c
            let wait := (s.sems.find? (·.tid == tid)).map fun w => (EffKind.synWait, w)
            let bar := (s.bars.find? (·.tid == tid)).map fun w => (EffKind.synBar, w)
            let sent : Option EffCmd := (wait.or bar).map fun w => ⟨0, w.1, some w.2.tag, BitVec.ofNat 64 w.2.var, BitVec.ofNat 64 w.2.addr, 0, 0⟩
            let effects := s.loadEffects t.area t.seeds ++ t.cmds
            let acqs := effects.filterMap fun e => if e.kind == .acq || e.kind == .acqs || e.kind == .phase then e.tag.map (·.val) else none
            let run := { Run.reset with
              phase := .running, sent := sent, effects := effects, acqs := acqs, held := t.held, cancel := t.cancel }
            let s := (s.onTask tid fun t => { t with stand := .onCore, core := k, pitches := [], held := [], seeds := [], cmds := [] }).startCore k c run
            if t.held.any (·.cause == .staleView) then
              let (n, s) := s.number
              .next (s.onTask tid (·.setAll n))
            else .next s
  | _ => .next s

/-! ### Shootdowns, fetches and crossings (R3, R23, R299, R302, R345, R346) -/

/-- SHOOTDOWN_COMPLETE (R302, R330): once every command, and every write of a peer, that translated an address in scope has completed, what is
in scope is dropped again and the region of the TLBI waits no longer. -/
def execShootdownComplete (s : State) : Out :=
  match s.arg with
  | .shoot id =>
    match s.shoots.find? (·.id == id) with
    | none => .next s
    | some x =>
      if !x.waits.isEmpty || s.inbox.any (·.shoots.contains id) then .next (s.later (.dev .shootdownComplete (.shoot id)))
      else
        let s := ({ s with shoots := s.shoots.filter (·.id != id) } : State).dropCached x
        .next ((s.onCore x.core fun c => c.onRun fun r => { r with
          regions := r.regions.map fun g => { g with tlbis := g.tlbis.filter (· != id) } }).soon [devCore .regionCommit x.core])
  | _ => .next s

/-- A bundle read for the instruction cache, or the failure to be raised where it would issue (R299). A poisoned page gives unspecified
bits, and so does one that an entry of the walk lies in (R197, R336). -/
def State.fetchLine (s : State) (k : CoreId) (a : Nat) : ILine :=
  let c := s.cores[k]
  let sp := s.spaceOn k
  let priv := c.ctx.x.priv
  let l : ILine := ⟨sp.tag, sp.root, a, priv, none, .bounds, stTranslation⟩
  if a ≥ 2 ^ 48 then l
  else match s.fetchFault sp priv a, s.resolve sp priv .fetch a with
    | some (cause, st), _ => { l with cause := cause, status := st }
    | none, .ok p =>
      { l with data := some (if s.poisoned p.dpa then Config.freeBits 128 s.free 0 else BitVec.ofNat 128 (hbmLe s.hbm p.pat p.dpa 16)) }
    | none, .error _ => { l with data := some (Config.freeBits 128 s.free 0) }

/-- ICACHE_FILL (R3, R23): a missed bundle reaches the instruction cache. -/
def execIcacheFill (s : State) : Out :=
  match s.arg with
  | .fetch k a =>
    let t := s.checkVa (s.spaceOn k) (a / 32 * 32) 32
    .next ((t.draw).onCore k fun c => if c.busy then { c with icache := (t.fetchLine k a :: c.icache).take 8192 } else c)
  | _ => .next s

/-- CROSSING_DELIVERY (R346): the late item is delivered once the skew is within the margin, or the stretch imposed for it has been
applied. -/
def execCrossingDelivery (s : State) : Out :=
  match s.arg with
  | .core k => .next (s.onCore k fun c => if c.clk.skew.natAbs < 2 || c.clk.paid then { c with clk := { c.clk with late := false } } else c)
  | _ => .next s

/-- A stretch requested for the next period of an island (R346): imposed on the partner two periods later, unless an imposition has
already stretched that period. -/
def Clk.stretch (x : Clk) (now : Nat) (array : Bool) : Clk :=
  let p := x.at now
  let y := { x with asked := x.asked ++ [(array, p)] }
  if array then (if x.arr.contains p then y else { y with arr := setInsert x.arr p, ctl := setInsert x.ctl (p + 2) })
  else (if x.ctl.contains p then y else { y with ctl := setInsert x.ctl p, arr := setInsert x.arr (p + 2) })

/-- A memory controller (R192). -/
def isController (n : Fin 256) : Bool := 48 ≤ n.val && n.val < 144
/-- An island's monitor asks for a stretch of the period it is in, which one request stretches once, though a sampling interval ends in it; a
controller's slots move by one clock (R192, R345). -/
def Isle.stretch (x : Isle) (now : Nat) (slots : Bool) : Isle :=
  let p := now - x.taken
  if (x.old ++ x.asked).getLast? = some p then x
  else
    let y := { x with taken := x.taken + 1, asked := x.asked ++ [p] }
    if slots then { y with shift := x.shift + 1, next := if x.shift = 0 then now / 5 + 1 else x.next } else y

/-- PERIOD_STRETCH (R192, R345, R346). -/
def execPeriodStretch (s : State) : Out :=
  match s.arg with
  | .island k array => .next (s.onCore k fun c => { c with clk := c.clk.stretch s.now array })
  | .isle n => .next { s with isles := s.isles.set n (s.isles[n].stretch s.now (isController n)) }
  | _ => .next s

end Sys2Proof.Machine
end

