-- ==== Sys2Proof/Machine/Traps.lean ====
section
/-! DEFINITION. Taking an exception: the trap sequence, its unwind, the record and the handler, escalation (R41, R42, R100 to R105,
R279, R318 to R326, R332, R351), and bundles that do not decode (R65). -/

namespace Sys2Proof.Machine

/-! ### Unwinding (R104, R105) -/

/-- What a landed step changed given back as it stood before, tags and line bits with it: for a reversible step its exact inverse. An SRAM
line that an engine has written since is not made clean again. -/
def Core.undoStep (c : Core) (u : Undo) : Core :=
  match u with
  | .vreg d mask old tag =>
    c.onCtx fun x => { x with v := x.v.set d ⟨(x.v[d].bits &&& ~~~mask) ||| (old &&& mask), tag⟩ }
  | .row t r old clean tag =>
    let x := c.ctx.a[t]
    let b := BitVec.twoPow 128 r.val
    c.setTile t { x with rows := x.rows.set r old, clean := if clean then x.clean ||| b else x.clean &&& ~~~b, tag := tag }
  | .line w j old scales =>
    let x := c.ctx.w[w]
    c.onCtx fun y => { y with w := y.w.set w { x with lines := x.lines.set j old, scales := x.scales.set j scales } }
  | .ready w tag clean => c.onCtx fun y => { y with w := y.w.set w { y.w[w] with tag := tag, clean := clean } }
  | .buf w old => c.onCtx fun y => { y with w := y.w.set w old }
  | .bytes a mask old clean pois =>
    let line := a / 256
    let bytes := memPutMask c.sram.bytes a mask.toNat old.toNat 256
    { c with sram := { c.sram with
        bytes := bytes, clean := setPut c.sram.clean line (clean && memLe bytes (256 * line) 256 == 0)
        poison := match pois with
          | some p => setPut c.sram.poison line p
          | none => c.sram.poison } }

/-- The undoing of a copy into clean storage: it returns a register, a buffer or a line to CLEAN, whatever stood there before (R104). -/
def Undo.cleans (u : Undo) : Bool :=
  match u with
  | .vreg _ _ _ tag => tag == .clean
  | .row _ _ _ _ _ => false
  | .line _ _ _ _ => true
  | .ready _ _ clean => clean
  | .buf _ _ => false
  | .bytes _ _ _ clean _ => clean
/-- Two steps changed one register, one weight buffer or one SRAM line. -/
def Undo.meets (u v : Undo) : Bool :=
  match u, v with
  | .vreg d _ _ _, .vreg e _ _ _ => d == e
  | .line w _ _ _, .line x _ _ _ => w == x
  | .line w _ _ _, .buf x _ => w == x
  | .line w _ _ _, .ready x _ _ => w == x
  | .ready w _ _, .line x _ _ _ => w == x
  | .ready w _ _, .buf x _ => w == x
  | .ready w _ _, .ready x _ _ => w == x
  | .bytes a _ _ _ _, .bytes b _ _ _ _ => a / 256 == b / 256
  | _, _ => false
/-- The storage that stands CLEAN by the undoing of a copy, once a reversible step is undone: of a copy, its own is added; any other step gives
its storage back what stood there before it. -/
def Undo.cleanedBy (u : Undo) (cleaned : List Undo) : List Undo := if u.cleans then u :: cleaned else cleaned.filter (!·.meets u)
/-- What an unwind takes back of landed steps, latest first: every reversible step (R104), and every other one but those before a copy into
the same storage, whose undoing leaves it CLEAN (DEDUCED: log 114). cleaned lists the storage that stands so. -/
def takenBack (cleaned : List Undo) : List Landed → List Landed
  | [] => []
  | u :: l =>
    if u.fj.isSome then u :: takenBack (u.what.cleanedBy cleaned) l
    else if cleaned.any (·.meets u.what) then takenBack cleaned l
    else u :: takenBack cleaned l

/-- The landed steps of a region undone, latest first; the energy of the reversible ones is charged (R104). The dissipative ones are taken
back too, but those before a copy that is undone: what is not region-local then holds the value and tag it held at the region's head (R105). -/
def Core.unwindRegion (c : Core) (r : Region) : Core :=
  (((takenBack [] r.landed).foldl (fun c u => c.undoStep u.what) c).meter ((r.landed.map fun u => u.fj.getD 0).foldl (· + ·) 0)).onRegionId r.id
    fun r => { r with landed := [] }

/-- The bits of a vector register that a list of locations covers. -/
def coveredBits (d : VReg) (l : List Undo) : Line :=
  l.foldl (fun m x => match x with
    | .vreg e k _ _ => if e = d then m ||| k else m
    | _ => m) 0
/-- A row of a tile is among a list of locations. -/
def coversRow (t : TileId) (r : Fin 128) (l : List Undo) : Bool :=
  l.any fun x => match x with
    | .row u q _ _ _ => u == t && q == r
    | _ => false
/-- Every row of a tile is among a list of locations. -/
def coversTile (t : TileId) (l : List Undo) : Bool := (List.finRange 128).all fun r => coversRow t r l

/-- A weight buffer of free values; whether it stands erased is free too. -/
def WBuf.anew (draw i : Nat) (tag : Tag) : WBuf :=
  if Config.freeNat draw (4 * i + 2) % 2 = 1 then WBuf.cleared
  else
    { lines := Vector.ofFn fun j : Fin 128 => Config.freeBits 2048 (draw + 1) (128 * i + j.val)
      scales := Vector.ofFn fun j : Fin 128 => Config.freeBits 128 (draw + 2) (128 * i + j.val)
      tag := tag, clean := false }

/-- A location that the trapping region wrote by a dissipative step, an erase or a store is region-local to it and holds a free value after
the unwind (R105). The tag of a register or tile is free where all of it is region-local, and as at the region's head otherwise: a register
or tile that stays CLEAN is zero and clean (R31, R34), and a tile that stays what it was does not come to hold clean rows alone. Whether an
erased row or buffer stands erased is free too. A line of the SRAM is left not clean, whatever the region did to it: DESIGN CHOICE (log 61). -/
def Core.scatter (c : Core) (all : List Undo) (draw : Nat) (l : Undo) (i : Nat) : Core :=
  let pick (ts : List Tag) : Tag := ts.getD (Config.freeNat draw (4 * i) % ts.length) .poison
  match l with
  | .vreg d mask _ _ =>
    let x := c.ctx.v[d]
    let whole := coveredBits d all == BitVec.allOnes 2048
    let tag := if whole then pick [.clean, .raw, .i32, .f32, .bf16, .fp8e4, .fp8e5, .fp4, .int8, .rns, .poison] else x.tag
    let bits := (x.bits &&& ~~~mask) ||| (Config.freeBits 2048 draw (4 * i + 1) &&& mask)
    c.onCtx fun y => { y with v := y.v.set d ⟨if tag == .clean then 0 else bits, tag⟩ }
  | .row t r _ _ _ =>
    let x := c.ctx.a[t]
    let b := BitVec.twoPow 128 r.val
    let drawn := if Config.freeNat draw (4 * i + 2) % 2 = 1 then x.clean ||| b else x.clean &&& ~~~b
    let whole := coversTile t all
    let clean := if !whole && drawn == BitVec.allOnes 128 then drawn &&& ~~~b else drawn
    let tag := if !whole then x.tag else if clean == BitVec.allOnes 128 then .clean else pick [.f32, .rns, .poison]
    if !whole && x.tag == .clean then c
    else c.setTile t { x with rows := x.rows.set r (Config.freeBits 4096 draw (4 * i + 1)), clean := clean, tag := tag }
  | .line w _ _ _ => c.onCtx fun y => { y with w := y.w.set w (WBuf.anew draw i (pick [.bf16, .fp8e4, .fp8e5, .fp4, .int8, .poison])) }
  | .ready _ _ _ => c
  | .buf w _ => c.onCtx fun y => { y with w := y.w.set w (WBuf.anew draw i (pick [.bf16, .fp8e4, .fp8e5, .fp4, .int8, .poison])) }
  | .bytes a mask _ _ _ =>
    let m := c.sram.store a mask (Config.freeBits 2048 draw (4 * i + 1)) .dirty
    { c with sram := if mask == BitVec.allOnes 256 then
        { m with poison := setPut m.poison (a / 256) (Config.freeNat draw (4 * i) % 2 == 1) } else m }

/-- A line of a weight buffer is among a list of locations. -/
def coversLine (w : BufId) (j : Fin 128) (l : List Undo) : Bool :=
  l.any fun x => match x with
    | .line u q _ _ => u == w && q == j
    | _ => false
/-- A whole line of the SRAM is among a list of locations. -/
def coversBytes (line : Nat) (l : List Undo) : Bool :=
  l.any fun x => match x with
    | .bytes a mask _ _ _ => a / 256 == line && mask == BitVec.allOnes 256
    | _ => false
/-- What of a location the steps of a list did not reach. -/
def Undo.less (u : Undo) (l : List Undo) : Option Undo :=
  match u with
  | .vreg d mask old tag =>
    let m := mask &&& ~~~coveredBits d l
    if m = 0 then none else some (.vreg d m old tag)
  | .row t r _ _ _ => if coversRow t r l then none else some u
  | .line w j _ _ => if coversLine w j l then none else some u
  | .ready _ _ _ => none
  | .buf w _ => if (List.finRange 128).all fun j => coversLine w j l then none else some u
  | .bytes a _ _ _ _ => if coversBytes (a / 256) l then none else some u
/-- What the dissipative steps, erases and stores among the steps taken back wrote, oldest first, but for what an earlier reversible step had
reached: its undoing leaves that as it was, or CLEAN (R104, R105). -/
def localSteps (reached : List Undo) : List Landed → List Undo
  | [] => []
  | u :: l => if u.fj.isSome then localSteps (u.what :: reached) l else (u.what.less reached).toList ++ localSteps reached l
/-- What is region-local to a region (R105). -/
def Region.local_ (r : Region) : List Undo := localSteps [] (takenBack [] r.landed).reverse
/-- Every such location of a region. -/
def Core.scatterAll (c : Core) (l : List Undo) (draw : Nat) : Core := l.zipIdx.foldl (fun c p => c.scatter l draw p.1 p.2) c

/-! ### Rings and tags (R321) -/

/-- A CPY.RIN's slot returns to free (R321). -/
def Ring.unreserve (r : Ring) (slot : Nat) : Ring :=
  if (slot + r.count - r.prod) % r.count < r.reserved then
    { r with reserved := r.reserved - 1, free := r.free + 1, done := r.done.set slot false }
  else { r with fill := r.fill - 1, free := r.free + 1, prod := (r.prod + r.count - 1) % r.count }
/-- The producer pointer moved back, and the stamps of its slots with it (R41). -/
def Ring.backp (r : Ring) (n : Nat) (stamps : List (Fin 4)) : Ring :=
  let p := (r.prod + r.count - n % r.count) % r.count
  { r with
    prod := p, free := r.free + n, fill := r.fill - n
    stamps := (List.range n).foldl (fun l i => l.set ((p + i) % r.count) (stamps.getD ((p + i) % r.count) 0)) r.stamps }
/-- The consumer pointer moved back (R41). -/
def Ring.backc (r : Ring) (n : Nat) : Ring :=
  { r with cons := (r.cons + r.count - n % r.count) % r.count, fill := r.fill + n, free := r.free - n }

/-- One ring change undone. -/
def Core.undoRing (c : Core) (u : RingUndo) : Core :=
  match u with
  | .set h old => c.setRing h old
  | .advp h n stamps => c.setRing h (c.ctx.h[h].map (·.backp n stamps))
  | .advc h n => c.setRing h (c.ctx.h[h].map (·.backc n))
  | .rin h slot => c.setRing h (c.ctx.h[h].map (·.unreserve slot))

/-- A region's rings and tags return (R321). -/
def Core.undoNames (c : Core) (r : Region) : Core :=
  let c := r.rings.foldl Core.undoRing c
  (r.tclrs ++ r.claims).foldl (fun c p => c.onCtx (·.setTag p.1 p.2)) c

/-! ### The steps of R320 -/

/-- Steps 1 to 3 and what R321 and R322 drop at once, for a trapping region: nothing of it or of a later region is in flight, unstarted or
unsent, and the later regions are unwound, latest first. -/
def Core.trapClear (c : Core) (id : Nat) : Core :=
  let c := (c.run.regions.filter (·.id > id)).foldl Core.unwindRegion c
  let doomed := c.run.regions.filter (id ≤ ·.id)
  let tags := doomed.filterMap fun r => r.effect.bind fun e => e.tag.map (·.val)
  c.onRun fun r => { r with
    flights := r.flights.filter (·.region < id), mops := r.mops.filter (·.region < id)
    copies := r.copies.filter fun m => !(id ≤ m.region && m.phase == .waiting)
    drainBuf := r.drainBuf.filter (·.region < id), acqs := tags.foldl List.erase r.acqs
    regions := r.regions.map fun g => if id ≤ g.id then { g with effect := none } else g
    target := none, bubbles := 0, frozen := [] }

/-- Step 4: earlier regions have committed, and every started command has completed but for a wait pending at a Weir (R42, R320). -/
def State.trapReady (s : State) (c : Core) (id : Nat) : Bool :=
  !c.run.regions.any (·.id < id) && !(c.run.copies.any (·.phase == .running)) &&
    (c.run.sent.isNone || s.atWeir c)

/-- Steps 5 and 6 on a core: the trapping region unwound, what is region-local to it left free, snapshot, rings and tags restored, and the
regions gone. The answer is the restart point. A location that only a discarded later region wrote is not region-local to the trapping
one, which does not write it first, and holds its head value: log 77. -/
def Core.rewind (c : Core) (id draw : Nat) : Core × Word :=
  let rs := c.run.regions.filter (id ≤ ·.id)
  let c1 := (rs.foldl Core.unwindRegion c).scatterAll ((rs.filter (·.id == id)).flatMap (·.local_)) draw
  match rs.getLast? with
  | none => (c1, c.ctx.pc)
  | some r =>
    let c2 := rs.foldl Core.undoNames (c1.onCtx (·.restore r.snap))
    (c2.onRun fun x => { x with
      regions := x.regions.filter (·.id < id), openNext := true, yielded := x.yielded.filter (· < id)
      drain := if c2.ctx.x.armed && c2.ctx.x.lcnt == 0 then x.drain else none }, r.head)

/-- The 64 bytes of a trap record (R323). -/
def Trap.record (t : Trap) (restart : BitVec 48) (tick tid : Word) : BitVec 512 :=
  let own := t.cause == .machineCheck || t.cause == .staleView
  let bundle := if own then restart else t.bundle
  BitVec.ofNat 512 (t.cause.code * 2 ^ 56 + (if own then 0 else t.pos.val) * 2 ^ 54 + bundle.toNat + 2 ^ 64 * restart.toNat +
    2 ^ 128 * (t.head.getD restart).toNat + 2 ^ 192 * (t.detail.toNat * 2 ^ 32 + t.index % 2 ^ 16) + 2 ^ 256 * t.status.toNat +
    2 ^ 320 * tick.toNat + 2 ^ 384 * tid.toNat)

/-- A trap escalates (R325). -/
def Core.escalates (c : Core) (t : Trap) : Bool :=
  let a := c.ctx.x.trec.toNat
  c.ctx.x.priv || c.ctx.x.tvec == 0 || !c.inBounds a 64 || c.poisonAt a || t.cause == .contextSaveFault

/-- Issue goes on at an address, whose bundle opens a region; a pending pre-emption is taken there (R326). -/
def Core.restartAt (c : Core) (pc : Word) : Core :=
  (c.onCtx fun x => { x with pc := pc }).onRun fun r => { r with phase := .running, trap := none, openNext := true, atHead := r.preempt }

/-- The handler is entered (R324): the record is written, PRIV becomes 1, and the bundle at TVEC follows two bubbles. -/
def Core.enterHandler (c : Core) (t : Trap) (restart : Word) : Core :=
  let x := c.ctx.x
  let rec_ := t.record (restart.setWidth 48) x.tick x.tid
  let c := { c with sram := c.sram.store (c.ctx.phys x.trec.toNat) (BitVec.ofNat 256 (2 ^ 64 - 1)) (rec_.setWidth 2048) .dirty }
  ((c.onSpr fun y => { y with priv := true }).restartAt x.tvec).onRun fun r => { r with bubbles := 2 }

/-- Step 7 of R320: stop for a cancel, restart, take a pre-emption, escalate, or enter the handler (R324 to R326, R332). -/
def State.afterUnwind (s : State) (k : CoreId) (t : Trap) (head : Word) : State :=
  let c := s.cores[k]
  let stop (c : Core) (e : Option Cause) : Core :=
    (c.onCtx fun x => { x with pc := head }).onRun fun r => { r with phase := .stopping, trap := none, code := 0, escalated := e }
  if c.run.cancel && t.cause != .contextSaveFault then (s.onCore k (stop · none)).stopCommands k
  else
    match t.kind with
    | .retry => s.onCore k fun c => (c.onCtx fun x => { x with retry := true }).restartAt head
    | .quiet =>
      if c.run.preempt then s.onCore k fun c => (c.onCtx fun x => { x with pc := head }).onRun fun r =>
        { r with phase := .preempting, trap := none, take := (0, head) }
      else s.onCore k (·.restartAt head)
    | .normal =>
      if c.escalates t then
        let own := t.cause == .machineCheck || t.cause == .staleView
        let t := if own then { t with bundle := head.setWidth 48 } else t
        ((s.escalation k t c.ctx.x.tid).onCore k (stop · (some t.cause))).stopCommands k
      else s.onCore k (·.enterHandler t head)

/-- Tiles loaded again from the save area, for a trap in the region that a resumption opened; what is read of the area is checked (R196,
R279). That they are loaded before the handler runs, and that a read of the area that fails here ends nothing, its tiles being zero or free
values, is a DESIGN CHOICE (log 123). -/
def State.reloadTiles (s : State) (k : CoreId) (resumed : Bool) : State :=
  match s.taskOf s.cores[k].ctx.x.tid with
  | some t =>
    if resumed then
      let s := s.checkArea t.area ((List.range 10).map fun i => 65536 * i)
      s.onCore k fun c => c.onCtx fun x => { x with a := Vector.ofFn fun n : Fin 8 => s.loadTile t.area n }
    else s
  | none => s

/-- TRAP_SEQUENCE (R320): the trap under way goes as far as it can. -/
def execTrapSequence (s : State) : Out :=
  match s.arg with
  | .core k =>
    match s.cores[k].run.phase, s.cores[k].run.trap with
    | .trapping, some t =>
      let id := t.region.getD s.cores[k].run.nextRegion
      let s := s.onCore k (·.trapClear id)
      let c := s.cores[k]
      if !s.trapReady c id then .next s
      else
        let r := c.rewind id s.free
        let resumed := c.run.regions.any fun g => g.id == id && g.resumed
        .next (((({ s with free := s.free + 3 } : State).onCore k fun _ => r.1).reloadTiles k resumed).afterUnwind k t r.2)
    | _, _ => .next s
  | _ => .next s

/-- MALFORMED_BUNDLE (R65): a bundle that meets a decode fault raises ILLEGAL at the position of the first offending syllable. -/
def execMalformedBundle (s : State) : Out :=
  match s.arg with
  | .bundle pos => .next (s.onCur fun c => c.raise pos .illegal)
  | _ => .next s

end Sys2Proof.Machine
end

