-- ==== Sys2Proof/Machine/Rights.lean ====
section
/-! DEFINITION. Who may change what: the rights of masters and peers, freezing, the lapse of ownership and the registers of the management
space as a master reads them (R256, R306 to R312, R314, R317). -/

namespace Sys2Proof.Machine

/-! ### Ownership (R307 to R310) -/

/-- An event about a master port (R314). -/
def State.portEvent (s : State) (code : Nat) (m : Nat) : State := s.eventOpen code 2 m
/-- Distributor cycles are 4 calendar clocks: a claim window closes 2^24 of them after it opens (R252, R308). -/
def windowClocks : Nat := 2 ^ 26
/-- A claim window opens (R308). -/
def State.openWindow (s : State) : State :=
  ({ s with mgmt := { s.mgmt with open_ := some (s.now + windowClocks), claims := [] } } : State).atClock
    (s.now + windowClocks) (.dev .claimWindowClose .none)
/-- Ownership lapses: grants are cleared, no successor stays named and a window opens (R308 to R310). -/
def State.lapse (s : State) : State :=
  (({ s with mgmt := { s.mgmt with owned := false, succ := 31, grants := Vector.replicate 20 0 } } : State).portEvent 0x02
    s.mgmt.owner.toNat).openWindow
/-- A port is the owner's. -/
def Mgmt.isOwner (g : Mgmt) (m : Nat) : Bool := g.owned && g.owner.toNat == m
/-- A master port is frozen; a frozen owner loses ownership (R310, R311). -/
def State.freezePort (s : State) (m : PortId) : State :=
  let own := s.mgmt.isOwner m.val
  let s := ({ s with mgmt := { s.mgmt with frozen := s.mgmt.frozen ||| BitVec.twoPow 20 m.val } } : State).portEvent 0x04 m.val
  if own then s.lapse else s

/-- What a write of a master meets (R309, R311). -/
inductive Right where
  | accepted | refused | violation | unheard
  deriving DecidableEq, Repr

/-- A master's requests reach the device: its link is up, or it is the board controller (R306). -/
def State.reaches (s : State) (m : PortId) : Bool := s.powered && (m == 19 || s.mgmt.links.getLsbD m.val)
/-- A master's requests are heard: it is not frozen (R311). -/
def State.hears (s : State) (m : PortId) : Bool := s.reaches m && !s.mgmt.frozen.getLsbD m.val
/-- How a port refuses a request (R311). -/
def refusalOf (m : PortId) : Answer := if m = 0 then .completerAbort else if m = 19 then .nack else .nak
/-- The right of a master to a write: anyone's, granted, or the owner's (R306, R309, R311). -/
def State.right (s : State) (m : PortId) (anyone granted : Bool) : Right :=
  if !s.hears m then .unheard
  else if anyone then .accepted
  else if !s.mgmt.owned then .refused
  else if s.mgmt.isOwner m.val || granted then .accepted else .violation
/-- A management write: performed where the master may write and the value keeps the field's limits, refused with an event, or a
violation that freezes the master (R306, R309, R311). A frozen master's request is refused as its port refuses. -/
def State.manage (s : State) (m : PortId) (anyone granted fits : Bool) (f : State → State) : State :=
  match s.right m anyone granted with
  | .accepted => (if fits then f s else s.portEvent 0x07 m.val).respond m .taken
  | .refused => (s.portEvent 0x07 m.val).respond m .taken
  | .violation => (s.freezePort m).respond m (refusalOf m)
  | .unheard => if s.reaches m then s.respond m (refusalOf m) else s

/-! ### Peers (R311, R312) -/

/-- A field of an access-control entry (R312). -/
def aclOwner (e : Word) : BitVec 16 := e.extractLsb' 40 16
/-- A peer is frozen, with the port its violation came by (R311, R312). -/
def State.freezePeer (s : State) (peer port : Nat) : State :=
  let e := wayGet s.mgmt.acl peer
  if e.getLsbD 60 then s
  else ({ s with mgmt := { s.mgmt with
    acl := waySet s.mgmt.acl peer (e ||| BitVec.twoPow 64 60), via := s.mgmt.via ++ [(peer, port)] } } : State).eventOpen 0x04 3 peer
/-- The master port of a fabric port (R306). -/
def fabPort (p : Fin 18) : PortId := Fin.ofNat 20 (1 + p.val)
/-- A packet of a peer that has arrived by a fabric port: it acts when its entry lets it pass, else it is a violation (R312). A frozen peer's,
and one that offends, is refused with a NAK (R311). -/
def State.fromPeer (s : State) (peer : Fin 4096) (port : Fin 18) (permits : Word → Bool) (f : Word → State) : State :=
  let e := wayGet s.mgmt.acl peer.val
  let p := (e.extractLsb' 0 5).toNat
  if !s.powered || !s.mgmt.links.getLsbD (1 + port.val) then s
  else if e.getLsbD 63 && !e.getLsbD 60 && (p == port.val || p == 31) && permits e then f e
  else (s.freezePeer peer.val port.val).respond (fabPort port) .nak

/-! ### What masters read (R256, R306, R307, R314, R317) -/

/-- OWNER (R307). -/
def Mgmt.ownerWord (g : Mgmt) : Word :=
  BitVec.ofNat 64 (bit g.owned * 2 ^ 63 + bit g.open_.isSome * 2 ^ 62 + g.epoch.toNat * 2 ^ 32 + g.prio.toNat * 2 ^ 24 +
    g.succ.toNat * 2 ^ 16 + g.owner.toNat)
/-- The HEAD register of a queue (R256). -/
def Queue.headWord (q : Queue) : Word :=
  BitVec.ofNat 64 (q.head.val + (if q.head = q.tail then 64 else 0) + (if q.count = 63 then 128 else 0))
/-- Word i of an event record (R314). -/
def Event.word (e : Event) (i : Nat) : Word :=
  if i = 0 then BitVec.ofNat 64 (e.seq % 2 ^ 48)
  else if i = 1 then BitVec.ofNat 64 (e.code * 2 ^ 56 + e.kind * 2 ^ 48 + e.source) else if i = 2 then e.d0 else e.d1
/-- The record that stands in place r of the ring: the newest whose number is r mod 4,096 (R314). -/
def State.ringRecord (s : State) (r : Nat) : Option Event :=
  let newest := s.evcount - 1
  s.events[(newest + 4096 - r) % 4096]?
/-- A register of the management space as a master reads it; an offset that is not listed reads zero (R306). The certificate is a
free value (R316). -/
def State.mgmtRead (s : State) (off : Nat) : Word :=
  let g := s.mgmt
  let vec (l : List Word) (base : Nat) : Word := l.getD ((off - base) / 8) 0
  if off % 8 != 0 then 0
  else if off < 0x100 then
    match off with
    | 0x00 => g.ownerWord
    | 0x10 => BitVec.ofNat 64 g.succ.toNat
    | 0x20 => g.frozen.setWidth 64
    | 0x28 => g.devid.setWidth 64
    | 0x30 => g.astbase.setWidth 64
    | 0x38 => g.spbase
    | 0x40 => g.spctl
    | 0x88 => g.fwAddr
    | 0x90 => g.fwstat
    | 0xC8 => if g.atBusy then BitVec.twoPow 64 63 else if g.report.headD 0 == 0 then 0 else 0x4000000000000000
    | 0xD0 => BitVec.ofNat 64 s.evcount
    | o => if 0x48 ≤ o ∧ o < 0x68 then vec g.ovf.toList 0x48 else if 0xA0 ≤ o ∧ o < 0xC0 then vec g.nonce.toList 0xA0 else 0
  else if off < 0x1A0 then vec g.grants.toList 0x100
  else if 0x200 ≤ off ∧ off < 0x300 then vec (g.hostWin.toList.flatMap fun w => [w.1, w.2]) 0x200
  else if 0x300 ≤ off ∧ off < 0x400 then vec (g.cxlWin.toList.flatMap fun w => w.toList) 0x300
  else if 0x10000 ≤ off ∧ off < 0x10200 then
    (if off % 32 = 0 then (s.queues[(off - 0x10000) / 32]?.map fun q => BitVec.ofNat 64 q.tail.val).getD 0
     else if off % 32 = 8 then (s.queues[(off - 0x10000) / 32]?.map Queue.headWord).getD 0 else 0)
  else if 0x20000 ≤ off ∧ off < 0x40000 then ((s.ringRecord ((off - 0x20000) / 32)).map fun e => e.word (off / 8 % 4)).getD 0
  else if 0x40000 ≤ off ∧ off < 0x48000 then vec g.report 0x40000
  else if 0x48000 ≤ off ∧ off < 0x50000 then Config.freeBits 64 0 ((off - 0x48000) / 8 + 4)
  else if 0x80000 ≤ off ∧ off < 0x88000 then wayGet g.acl ((off - 0x80000) / 8)
  else if 0x100000 ≤ off ∧ off < 0x140000 then
    let q := s.queues[Fin.ofNat 16 ((off - 0x100000) / 0x4000)]
    (q.slots[Fin.ofNat 64 ((off - 0x100000) / 256)]).extractLsb' (64 * (off % 256 / 8)) 64
  else 0
/-- A register as a master reads it: a frozen one is refused, and one that does not reach the device reads nothing (R306, R311). -/
def State.readBy (s : State) (m : PortId) (off : Nat) : Option (Except Answer Word) :=
  if !s.reaches m then none else some (if s.hears m then .ok (s.mgmtRead off) else .error (refusalOf m))

end Sys2Proof.Machine
end

