-- ==== Sys2Proof/Machine/Inlet.lean ====
section
/-! DEFINITION. The Inlet: slots, TAIL and CANCEL registers, and launch and cancel packets of peers (R256, R257, R260, R312). -/

namespace Sys2Proof.Machine

/-- The queue whose register lies at an offset, registers of one kind standing 0x20 apart (R256). -/
def queueAt (base off : Nat) : Option (Fin 16) :=
  if base ≤ off ∧ (off - base) % 32 = 0 ∧ (off - base) / 32 < 16 then some (Fin.ofNat 16 ((off - base) / 32)) else none
/-- A master is granted a queue's TAIL and slots, or with 16 the CANCEL registers (R309). -/
def State.granted (s : State) (m : PortId) (i : Nat) : Bool := s.mgmt.grants[m].getLsbD i

/-- Doubleword i of a slot replaced. -/
def putWord (x : Line) (i : Nat) (v : Word) : Line :=
  (x &&& ~~~(BitVec.ofNat 2048 (2 ^ 64 - 1) <<< (64 * i))) ||| (v.setWidth 2048 <<< (64 * i))

/-- INLET_SLOT_WRITE (R256): a whole record, or one doubleword of it by its offset. -/
def execInletSlotWrite (s : State) : Out :=
  match s.arg with
  | .write m off v =>
    let q : Fin 16 := Fin.ofNat 16 ((off - 0x100000) / 0x4000)
    let i : Fin 64 := Fin.ofNat 64 ((off - 0x100000) / 256)
    if off % 8 != 0 || off < 0x100000 || 0x140000 ≤ off then .next s
    else .next (s.manage m false (s.granted m q.val) true fun s => s.onQueue q fun x =>
      { x with slots := x.slots.set i (putWord x.slots[i] (off % 256 / 8) v) })
  | .line m q i image => .next (s.manage m false (s.granted m q.val) true fun s => s.onQueue q fun x => { x with slots := x.slots.set i image })
  | _ => .next s

/-- INLET_TAIL_WRITE (R256, R258): ignored with an event where the count would fall; the wait words of the heads are read again. -/
def execInletTailWrite (s : State) : Out :=
  match s.arg with
  | .write m off v =>
    match queueAt 0x10000 off with
    | none => .next s
    | some q => .next (s.manage m false (s.granted m q.val) (v.extractLsb' 6 58 == 0) fun s =>
        let x := s.queues[q]
        let t : Fin 64 := Fin.ofNat 64 v.toNat
        if (t.val + 64 - x.head.val) % 64 < x.count then s.portEvent 0x11 m.val
        else (s.onQueue q fun x => { x with tail := t }).rereadHeads)
  | _ => .next s

/-- INLET_CANCEL_WRITE (R256, R260): the value carries the owner tag and the completion word's address. -/
def execInletCancelWrite (s : State) : Out :=
  match s.arg with
  | .write m off v =>
    match queueAt 0x10010 off with
    | none => .next s
    | some _ => .next (s.manage m false (s.granted m 16) true fun s => s.cancelBy (v.extractLsb' 48 16) (v.setWidth 48))
  | _ => .next s

/-- FABRIC_LAUNCH_PACKET (R257, R312): an admitted record is queued as a TAIL write would queue it; a packet for a full queue is refused
at the link. -/
def execFabricLaunchPacket (s : State) : Out :=
  match s.arg with
  | .packet peer port q image => .next (s.fromPeer peer port
      (fun e => e.getLsbD (24 + q.val) && imgOwner image == aclOwner e) fun e =>
      if s.queues[q].count = 63 then s.respond (fabPort port) .nak
      else ((s.onQueue q (·.push image (aclOwner e) 3)).rereadHeads).respond (fabPort port) .taken)
  | _ => .next s

/-- FABRIC_CANCEL_PACKET (R260, R312). -/
def execFabricCancelPacket (s : State) : Out :=
  match s.arg with
  | .cancel peer port addr => .next (s.fromPeer peer port (·.getLsbD 61) fun e => (s.cancelBy (aclOwner e) addr).respond (fabPort port) .taken)
  | _ => .next s

end Sys2Proof.Machine
end

