-- ==== Sys2Proof/Machine/Record.lean ====
section
/-! DEFINITION. The launch record: its fields, its check, its images and its wait words (R252, R253, R258, R264, R296). -/

namespace Sys2Proof.Machine

/-! ### Fields (R252) -/

/-- Bits of doubleword i of a record. -/
def launchField (m : Line) (i lo n : Nat) : Nat := ((imgWord m i).extractLsb' lo n).toNat

/-- The fields of a record (R252). -/
def recOf (m : Line) : LRec :=
  { entry := launchField m 0 0 48, prio := launchField m 1 20 2, pitches := launchField m 1 13 7, floor := Fin.ofNat 4 (launchField m 1 11 2)
    place := launchField m 1 9 2, cores := launchField m 1 0 9, shapes := launchField m 2 0 48, timeout := launchField m 3 32 32
    logsize := launchField m 3 0 16, deadline := launchField m 4 0 32, wear := (imgWord m 5).toNat, done := launchField m 6 0 48
    waits := ((List.range 4).map fun k => launchField m (7 + k) 0 48).filter (· != 0), owner := imgOwner m
    preload := ((List.range 8).map fun k => launchField m (12 + k) 0 48).filter (· != 0), logbase := launchField m 20 0 48 }

/-- A reserved bit of a record is set (R252). -/
def recReserved (m : Line) : Bool :=
  [0, 2, 6, 7, 8, 9, 10, 12, 13, 14, 15, 16, 17, 18, 19, 20].any (fun i => launchField m i 48 16 != 0) ||
    launchField m 1 22 42 != 0 || launchField m 3 16 16 != 0 || launchField m 4 32 32 != 0 || launchField m 11 16 48 != 0 ||
    (List.range 11).any fun k => imgWord m (21 + k) != 0

/-- Limits and alignments of a record's fields (R253). -/
def LRec.bad (r : LRec) : Bool :=
  r.cores == 0 || r.cores > 384 || r.place == 3 || (r.place == 1 && r.cores > 8) || (r.place == 2 && r.cores > 96) ||
    r.pitches == 0 || r.pitches > 64 || r.entry % 16 != 0 || r.shapes % 64 != 0 || r.logbase % 65536 != 0 || r.done % 8 != 0 ||
    r.waits.any (· % 8 != 0)

/-! ### Bytes of a space, page by page -/

/-- The 64 KiB pages that n bytes from an address lie in. -/
def spanPages (va n : Nat) : List Nat :=
  if n = 0 then [] else (List.range ((va % 65536 + n + 65535) / 65536)).map fun i => va / 65536 * 65536 + 65536 * i
/-- Every one of n bytes from an address translates (R253). -/
def State.spanOk (s : State) (sp : Space) (va n : Nat) : Bool :=
  (spanPages va n).all fun a =>
    match s.resolve sp true .read a with
    | .ok _ => true
    | .error _ => false

/-- A run of bytes within one page of 4 KiB: its address, its length, its bytes as a number and whether the page is poisoned. -/
structure Chunk where
  va : Nat
  n : Nat
  value : Nat
  poison : Bool
  deriving DecidableEq, Repr

/-- n bytes that translate, in chunks; the bytes of a poisoned page are free values (R197). -/
def State.chunks (s : State) (sp : Space) (va n : Nat) : Nat → List Chunk
  | 0 => []
  | f + 1 =>
    let k := min n (4096 - va % 4096)
    match k, s.resolve sp true .read va with
    | 0, _ => []
    | _, .error _ => []
    | k, .ok p =>
      let bad := s.poisoned p.dpa
      ⟨va, k, if bad then Config.freeNat s.free va % 2 ^ (8 * k) else hbmLe s.hbm p.pat p.dpa k, bad⟩ :: s.chunks sp (va + k) (n - k) f
/-- The bytes of chunks as one number. -/
def chunkValue (l : List Chunk) : Nat := l.foldr (fun c v => c.value + 2 ^ (8 * c.n) * v) 0

/-! ### Preload images (R252, R253) -/

/-- The header of an image: scratchpad offset and length, when it translates and its reserved bits are zero. -/
def State.imageHead (s : State) (sp : Space) (p : Nat) : Option (Nat × Nat) :=
  if !s.spanOk sp p 16 then none
  else
    let v := chunkValue (s.chunks sp p 16 2)
    if v % 2 ^ 64 / 2 ^ 22 != 0 then none else some (v % 2 ^ 22, v / 2 ^ 64)
/-- An image that can be applied to so many pitches. -/
def State.imageOk (s : State) (sp : Space) (pitches p : Nat) : Bool :=
  match s.imageHead sp p with
  | some (o, n) => o + n ≤ 65536 * pitches && s.spanOk sp (p + 16) n
  | none => false
/-- Every image of a record can be applied. -/
def State.imagesOk (s : State) (sp : Space) (r : LRec) : Bool := r.preload.all (s.imageOk sp r.pitches)

/-- A chunk put into the scratchpad. -/
def Core.putChunk (c : Core) (a : Nat) (x : Chunk) : Core :=
  let c := (List.range x.n).foldl (fun c i =>
    { c with sram := c.sram.poke (c.ctx.phys (a + i)) (BitVec.ofNat 8 (x.value / 256 ^ i)) }) c
  if x.poison then c.putPoison ((List.range ((a + x.n - 1) / 256 - a / 256 + 1)).map (a / 256 + ·)) true else c
/-- An image applied to the scratchpad of a core (R252). -/
def State.applyImage (s : State) (k : CoreId) (sp : Space) (p : Nat) : State :=
  match s.imageHead sp p with
  | none => s
  | some (o, n) =>
    let s := (List.range (n / 65536 + 2)).foldl (fun s i =>
      let a := max (p + 16) ((p + 16) / 65536 * 65536 + 65536 * i)
      let z := min (p + 16 + n) ((p + 16) / 65536 * 65536 + 65536 * (i + 1))
      if a < z then s.checkVa sp a (z - a) else s) s
    let l := s.chunks sp (p + 16) n (n / 4096 + 2)
    (s.draw).onCore k fun c => l.foldl (fun c x => c.putChunk (o + (x.va - (p + 16))) x) c

/-! ### The check (R253, R264, R296) -/

/-- A record is refused: by its own bits and fields, by its owner tag's space, by a pointer that does not translate, or by what binds its
slot (R253, R264, R296). -/
def State.recordBad (s : State) (m : Line) (bound : Option (BitVec 16 × Nat)) : Bool :=
  let r := recOf m
  recReserved m || r.bad || (bound.any fun b => r.owner != b.1 || r.prio > b.2) ||
    match s.spaceOf r.owner with
    | none => true
    | some sp => r.waits.any (fun w => !s.spanOk sp w 8) || !s.imagesOk sp r

/-- What binds the slot at the head of a queue. -/
def Queue.binding (q : Queue) : Option (BitVec 16 × Nat) := (q.bound.find? (·.1 == q.head)).map (·.2)
/-- The record at the head of a queue. -/
def Queue.record (q : Queue) : Line := q.slots[q.head]

/-- The head of a queue leaves it with a final word (R253, R254, R258). That the heads' wait words are read again though nothing could be written
is a DESIGN CHOICE (log 115). -/
def State.dropHead (s : State) (q : Fin 16) (status : Nat) : State :=
  let r := recOf s.queues[q].record
  let s := s.checkSpace r.owner
  let s := (s.onQueue q fun x => x.free x.head).putDone (s.spaceOf r.owner) r.done 2 status 0 0
  s.rereadHeads.slotFreed

/-- What a check of a record's images reads from HBM is checked: their headers, and the walks of their pages (R196). -/
def State.checkImages (s : State) (sp : Space) (r : LRec) : State :=
  r.preload.foldl (fun s p =>
    let s := s.checkVa sp p 16
    match s.imageHead sp p with
    | some (o, n) => if o + n ≤ 65536 * r.pitches then (spanPages (p + 16) n).foldl (fun s a => s.checkWalk sp a) s else s
    | none => s) s
/-- What a check of a record reads from HBM is checked: the entry of its space, the walks of its wait words, and what its images take (R196). -/
def State.checkHeads (s : State) (r : LRec) : State :=
  let s := s.checkSpace r.owner
  match s.spaceOf r.owner with
  | none => s
  | some sp => (r.waits.foldl (fun s a => s.checkWalk sp a) s).checkImages sp r
/-- A wait word reads final; none where it fails translation. A word in a poisoned page is a free value. -/
def State.waitFinal (s : State) (sp : Space) (a : Nat) : Option Bool :=
  if !s.spanOk sp a 8 then none else some (chunkValue (s.chunks sp a 8 2) / 2 ^ 62 == 2)

/-- The wait words of an accepted head are read: it is ready once each reads final, and rejected where one fails translation (R258). -/
def State.readWaits (s : State) (q : Fin 16) : State :=
  let r := recOf s.queues[q].record
  let s := s.checkSpace r.owner
  match s.spaceOf r.owner with
  | none => s.dropHead q 1
  | some sp =>
    let s := r.waits.foldl (fun s a => s.checkVa sp a 8) s
    let rs := r.waits.map (s.waitFinal sp)
    if rs.contains none then s.dropHead q 1
    else (s.draw).onQueue q fun x =>
      let ready := rs.all (· == some true)
      { x with ready := ready, cand := if ready && !x.ready then { x.cand with since := some s.now } else x.cand }

/-- WAIT_WORD_READ, with RECORD_CHECK (R253, R258): the record at a queue's head is checked when it arrives there, and rejected or
accepted under the next launch number; then its wait words are read. -/
def execWaitWordRead (s : State) : Out :=
  match s.arg with
  | .queue q =>
    let x := s.queues[q]
    if !s.ready || x.head == x.tail || x.ready then .next s
    else
      match x.checked with
      | some _ => .next (s.readWaits q)
      | none =>
        let s := s.checkHeads (recOf x.record)
        if s.recordBad x.record x.binding then .next ((s.draw).dropHead q 1)
        else
          let s := ({ s.draw with nextLaunch := s.nextLaunch + 1 } : State).onQueue q fun x =>
            { x with checked := some s.nextLaunch, cand := ⟨(recOf x.record).prio, none, false⟩ }
          .next (s.readWaits q)
  | _ => .next s

end Sys2Proof.Machine
end

