-- ==== Sys2Proof/Machine/Distributor.lean ====
section
/-! DEFINITION. The master distributor: candidates, placement, the start of tasks, resumptions, reservation and YIELD (R36, R205, R252 to
R259, R266, R268, R269, R281, R282, R293, R294, R354). -/

namespace Sys2Proof.Machine

/-! ### Cores (R259, R341, R342) -/

/-- The lifetime wear count that placement uses (R341). -/
def Core.wearKey (c : Core) : Nat := c.wear.lifetime + 2 ^ 40 * c.wear.marks
/-- All cores in the order of their numbers. -/
def allCores : List CoreId := List.finRange 384
/-- The cores of a site. -/
def siteCores (n : Nat) : List CoreId := (List.range 8).map fun i => Fin.ofNat 384 (8 * n + i)
/-- The cores of a die. -/
def dieCores (n : Nat) : List CoreId := (List.range 96).map fun i => Fin.ofNat 384 (96 * n + i)
/-- The zones a place constraint allows (R252). -/
def zonesOf (place : Nat) : List (List CoreId) :=
  if place = 1 then (List.range 48).map siteCores else if place = 2 then (List.range 4).map dieCores else [allCores]
/-- The zone of a place constraint that holds a core (R269, R294). -/
def zoneAt (place : Nat) (k : CoreId) : List CoreId :=
  if place = 1 then siteCores (k.val / 8) else if place = 2 then dieCores (k.val / 96) else allCores

/-- A core may take a task now, unless it is barred. -/
def State.eligible (s : State) (floor : Fin 4) (barred : CoreId → Bool) (k : CoreId) : Bool :=
  !s.cores[k].busy && s.cores[k].accepts floor && !barred k
/-- n cores for a launch, in task-index order: of the zones with enough eligible cores the one that holds the least-worn of them, and in
it the least-worn first, ties to the lower number (R259). -/
def State.choose (s : State) (floor : Fin 4) (barred : CoreId → Bool) (zones : List (List CoreId)) (n : Nat) : Option (List CoreId) :=
  let good := (zones.map fun z => sortOn (fun k : CoreId => s.cores[k].wearKey) (z.filter (s.eligible floor barred))).filter fun z => n ≤ z.length
  let least (z : List CoreId) : Nat := match z with
    | [] => 0
    | k :: _ => s.cores[k].wearKey
  (sortOn least good).head?.map (·.take n)

/-! ### Candidates (R258, R269) -/

/-- A candidate of the distributor. -/
inductive Seek where
  | head (q : Fin 16)
  | group (h : BitVec 32)
  deriving DecidableEq, Repr

/-- A queue's head is ready (R258). -/
def State.headReady (s : State) (q : Fin 16) : Bool := s.ready && s.queues[q].ready && s.queues[q].head != s.queues[q].tail
/-- The slots of a group whose siblings are to be started: a sibling cancelled before its placement never is (R289). -/
def Group.wanted (g : Group) : List Nat := (g.slots.zipIdx.filter (·.1 == .pending)).map (·.2)
/-- A group awaits placement, and every sibling of its parent's previous groups has retired (R269). -/
def State.groupReady (s : State) (g : Group) : Bool :=
  !g.placed && !g.failed && !((s.groups.takeWhile (·.handle != g.handle)).any fun x => x.parent == g.parent && s.groupLive x)

/-- What placing a candidate takes: ramp floor, the zones it may use, the number of cores and the record priority. -/
structure Need where
  floor : Fin 4
  zones : List (List CoreId)
  n : Nat
  prio : Nat
  deriving DecidableEq, Repr

/-- What a group needs: its place constraint binds it to its parent's site or die (R269). -/
def State.groupNeed (s : State) (g : Group) : Need :=
  match s.launchOf g.launch, s.taskOf g.parent with
  | some l, some p => ⟨l.lrec.floor, [zoneAt l.lrec.place p.core], g.wanted.length, l.lrec.prio⟩
  | _, _ => ⟨0, [], 0, 0⟩
/-- What a candidate needs. -/
def State.need (s : State) : Seek → Need
  | .head q =>
    let r := recOf s.queues[q].record
    ⟨r.floor, zonesOf r.place, r.cores, r.prio⟩
  | .group h => ((s.groupOf h).map s.groupNeed).getD ⟨0, [], 0, 0⟩

/-- The wait of a candidate. -/
def State.candOf (s : State) : Seek → Cand
  | .head q => s.queues[q].cand
  | .group h => ((s.groupOf h).map (·.cand)).getD ⟨0, none, false⟩
/-- The wait of a candidate updated. -/
def State.onCand (s : State) (x : Seek) (f : Cand → Cand) : State :=
  match x with
  | .head q => s.onQueue q fun y => { y with cand := f y.cand }
  | .group h => s.onGroup h fun g => { g with cand := f g.cand }
/-- The queues, from the one after the last that was served (R258). -/
def State.rounds (s : State) : List (Fin 16) := (List.range 16).map fun i => s.lastQueue + 1 + Fin.ofNat 16 i
/-- The ready candidates: groups in the order of their FORKs, then heads round-robin. -/
def State.ready? (s : State) : List Seek :=
  ((s.groups.filter s.groupReady).map fun g => Seek.group g.handle) ++ (s.rounds.filter s.headReady).map Seek.head
/-- The ready candidates from the highest level down (R258). -/
def State.candidates (s : State) : List Seek := sortOn (fun x => 3 - (s.candOf x).level) s.ready?

/-- The reserving candidates, that first which has reserved longest; R258's order decides between those that did at once. -/
def State.reservers (s : State) : List Seek :=
  sortOn (fun x => ((s.candOf x).since).getD 0) (s.candidates.filter fun x => (s.candOf x).reserving)
/-- The cores kept from a candidate for reserving ones (R258): for those that reserved before it, where it reserves itself: log 14. -/
def State.barred (s : State) (x : Option Seek) (k : CoreId) : Bool :=
  (s.reservers.takeWhile fun y => some y != x).any fun y =>
    (s.need y).zones.any fun z => z.contains k && s.cores[k].accepts (s.need y).floor
/-- Cores for a candidate now. -/
def State.coresFor (s : State) (x : Seek) : Option (List CoreId) :=
  let n := s.need x
  s.choose n.floor (s.barred (some x)) n.zones n.n
/-- The free areas of the save pool (R282). They are assigned from the lowest number up: DESIGN CHOICE (log 116). -/
def State.freeAreas (s : State) : List Nat :=
  (List.range (s.mgmt.spctl.extractLsb' 0 16).toNat).filter fun i => !s.tasks.any (·.area == i)

/-! ### Starting tasks (R36, R205, R252, R268, R296) -/

/-- The context of a task that starts (R36, R296). -/
def Ctx.start (l : Launch) (tid : Word) : Ctx :=
  { Ctx.reset with
    pc := BitVec.ofNat 64 l.lrec.entry
    x := { Ctx.reset.x with
      srs := 0x9E3779B97F4A7C15 ^^^ (tid.extractLsb' 0 16).setWidth 64, tid := tid, tvec := l.space.tvec, trec := l.space.trec } }
/-- The context of sibling k (R268). -/
def Ctx.startSib (l : Launch) (g : Group) (k : Nat) : Ctx :=
  let c := Ctx.start l (g.sib k)
  let srs := g.srs ^^^ (0x9E3779B97F4A7C15 * BitVec.ofNat 64 (k + 1))
  { ((c.setS 1 (BitVec.ofNat 64 g.arena + BitVec.ofNat 64 k * g.stride)).setS 2 g.arg) with
    pc := g.entry, groupStatus := g.statusWord
    x := { c.x with sib := BitVec.ofNat 8 k, grp := g.handle, srs := if srs = 0 then 1 else srs } }

/-- The log of a task that starts, by its number: in the area of its TID, where records of an earlier holder may still lie (R241, R243). -/
def State.openLog (s : State) (l : Launch) (tid : Word) (n : Nat) : State :=
  if (s.logOf tid).isSome then s.onLog tid fun g => { g with holder := n, sticky := 0, dropped := 0 }
  else { s with logs := s.logs ++ [l.newLog tid n] }

/-- A task starts on a core: its number is its first horizon; its pitches are claimed and zero-filled and take the images; it issues
after a time that is not fixed (R36, R205, R252, R285, R353). -/
def State.startTask (s : State) (k : CoreId) (area : Nat) (l : Launch) (ctx : Ctx) : State :=
  let tid := ctx.x.tid
  let (n, s) := s.number
  let (s, ps) := s.claimPitches k tid l.lrec.pitches
  let t : Task := { tid := tid, born := n, launch := l.num, core := k, area := area, stand := .onCore, pitches := [], horizon := n, horizons := []
                    group := ctx.x.grp, cancel := false, order := 0, cycle := s.now / 4, code := 0, forks := 0, seeds := [], sent := none, cmds := [], status := 0, held := []
                    faulted := false }
  let s := ({ s with tasks := s.tasks ++ [t] } : State).openLog l tid n
  let s := s.onCore k fun c => { c with sram := ps.foldl Sram.zeroPitch c.sram }
  let s := s.startCore k { ctx with pitch := ps } { Run.reset with phase := .running }
  l.lrec.preload.foldl (fun s p => s.applyImage k l.space p) s
/-- Tasks start, each on its core and with its area. -/
def State.startAll (s : State) (l : Launch) : List (Ctx × CoreId × Nat) → State
  | [] => s
  | (c, k, a) :: r => (s.startTask k a l c).startAll l r

/-- The head of a queue dispatched on chosen cores (R253, R254, R259). Images that no longer translate start no task: status 5. The record that
becomes the head of the queue has its wait words read (R258). The slot is read anew at the check, at each reading of its wait words and here,
and what has been written into it since its check is taken unchecked: DESIGN CHOICE (log 115). -/
def State.placeHead (s : State) (q : Fin 16) (ks : List CoreId) : State :=
  let x := s.queues[q]
  let r := recOf x.record
  let s := ({ s with lastQueue := q } : State).checkHeads r
  match s.spaceOf r.owner, x.checked with
  | some sp, some n =>
    if !s.imagesOk sp r then s.dropHead q 5
    else
      let l : Launch := ⟨n, r, sp, 0, 0, false, false, false⟩
      let s := ((s.onQueue q fun x => x.free x.head).putDone (some sp) r.done 1 0 0 0)
      let ctxs := (List.range r.cores).map fun j => Ctx.start l (BitVec.ofNat 64 (n * 65536 + j))
      ((({ s with launches := s.launches ++ [l] } : State).startAll l (ctxs.zip (ks.zip s.freeAreas))).soon [.dev .waitWordRead (.queue q)]).slotFreed
  | _, _ => s.dropHead q 1

/-- A group that cannot be placed: every slot takes the outcome no sibling (R269). -/
def State.failGroup (s : State) (h : BitVec 32) : State :=
  let s := match s.groupOf h with
    | some g => (s.emptyLogs g (List.range g.n)).soon [.dev .taskRetirement (.task g.parent)]
    | none => s
  ((s.onGroup h fun g => { g with failed := true, slots := g.slots.map fun _ => .noSibling }).mirrors h).soon
    [.dev .groupBarrierComplete (.group h)]
/-- A group placed on chosen cores (R268, R269). A gang whose launch's images no longer translate fails. -/
def State.placeGroup (s : State) (h : BitVec 32) (ks : List CoreId) : State :=
  match s.groupOf h with
  | none => s
  | some g =>
    match s.launchOf g.launch with
    | none => s
    | some l =>
      let s := s.checkImages l.space l.lrec
      if !s.imagesOk l.space l.lrec then s.failGroup h
      else
        let s := (s.onGroup h fun g => { g with placed := true }).emptyLogs g ((List.range g.n).filter (!g.wanted.contains ·))
        (s.startAll l ((g.wanted.map (Ctx.startSib l g)).zip (ks.zip s.freeAreas))).mirrors h
/-- A group that could never be placed under its constraint (R269). -/
def State.impossible (s : State) (g : Group) : Bool :=
  let n := s.groupNeed g
  !n.zones.any fun z => n.n ≤ (z.filter fun k => s.cores[k].accepts n.floor).length

/-- A candidate placed, unless its cores or save areas are wanting or the governor holds it. -/
def State.tryPlace (s : State) (x : Seek) (held : Bool) : Option State :=
  if held || s.freeAreas.length < (s.need x).n then none
  else (s.coresFor x).map fun ks => match x with
    | .head q => s.placeHead q ks
    | .group h => s.placeGroup h ks

/-! ### Resumption (R281, R294, R354) -/

/-- Where suspended tasks of one gang, or one task, resume: each on the core it left where that may be, the others on the least-worn
eligible cores of a zone (R294). -/
def State.resumeCores (s : State) (floor : Fin 4) (zone : List CoreId) (ts : List Task) : Option (List (Word × CoreId)) :=
  let ok (k : CoreId) : Bool := zone.contains k && s.eligible floor (s.barred none) k
  let home := (ts.filter fun t => ok t.core).foldl (fun l t => if l.any (·.2 == t.core) then l else l ++ [(t.tid, t.core)]) []
  let rest := ts.filter fun t => !home.any (·.1 == t.tid)
  let free := sortOn (fun k : CoreId => s.cores[k].wearKey) (zone.filter fun k => ok k && !home.any (·.2 == k))
  if rest.length ≤ free.length then some (home ++ (rest.map (·.tid)).zip free) else none

/-- The tasks that resume with a suspended task: itself, or its whole gang (R281). -/
def State.gangOf (s : State) (t : Task) : List Task := if t.group = 0 then [t] else s.tasks.filter (·.group == t.group)
/-- The zone a suspended task may resume in: that of its launch's other unretired tasks, a sibling's that of its parent (R269, R294). One that is
off its core counts at the core it last ran on, as R243 says for ACQS: DEDUCED (log 124). -/
def State.resumeZone (s : State) (l : LRec) (t : Task) : List CoreId :=
  if t.group = 0 then
    match (s.tasksOf t.launch).find? fun u => u.tid != t.tid with
    | some u => zoneAt l.place u.core
    | none => allCores
  else ((s.taskOf (parentOf t.tid)).map fun p => zoneAt l.place p.core).getD allCores
/-- A task on its core that will not be suspended: it has ended, or a cancel stops it (R275). -/
def State.endsHere (s : State) (t : Task) : Bool :=
  let r := s.cores[t.core].run
  t.stand == .onCore && (r.cancel || r.phase == .ended || r.phase == .stopping)
/-- A suspended task, with those of its gang that are suspended, sent to its cores, all of them before anything else happens: its record
priority, and the state after the decision. The gang waits for a sibling that is yet to be suspended (R281). -/
def State.tryResume (s : State) (t : Task) : Option (Nat × State) :=
  let ts := (s.gangOf t).filter (·.stand == .suspended)
  match s.launchOf t.launch with
  | none => none
  | some l =>
    if (s.gangOf t).any fun u => u.stand == .onCore && !s.endsHere u then none
    else (s.resumeCores l.lrec.floor (s.resumeZone l.lrec t) ts).map fun p =>
      (l.lrec.prio, s.first (p.map fun x => .dev .resumption (.place x.1 x.2)))
/-- The suspended tasks in the order of suspension. -/
def State.suspended (s : State) : List Task := sortOn (·.order) (s.tasks.filter (·.stand == .suspended))

/-! ### The decision (R258) -/

/-- The first candidate that can be placed, with its level. Whether the governor holds a candidate is a free value (R8). -/
def State.firstPlace (s : State) (draw : Nat) : List Seek → Nat → Option (Nat × State)
  | [], _ => none
  | x :: r, i =>
    match s.tryPlace x (Config.freeNat draw i % 2 == 1) with
    | some t => some ((s.candOf x).level, t)
    | none => s.firstPlace draw r (i + 1)

/-- DISPATCH_DECISION (R258, R259, R269, R354): a group that can never be placed fails; else the first suspended task that can be resumed
goes before every candidate at or below its priority; else the first candidate that can be placed is. -/
def execDispatchDecision (s : State) : Out :=
  match (s.groups.filter s.groupReady).find? s.impossible with
  | some g => .next (s.failGroup g.handle)
  | none =>
    let draw := s.free
    let s := s.draw
    let resumes := s.suspended.filterMap s.tryResume
    match resumes, s.firstPlace draw s.candidates 0 with
    | [], none => .next s
    | [], some p => .next p.2
    | r :: _, none => .next r.2
    | r :: _, some p => .next (if resumes.any fun x => p.1 ≤ x.1 then r.2 else p.2)

/-! ### Ageing and reservation (R258, R293) -/

/-- 2^20 distributor cycles, in calendar clocks. -/
def ageClocks : Nat := 2 ^ 22
/-- A candidate's wait as it stands at a clock: its level has risen by one for each 2^20 distributor cycles, up to 3. -/
def Cand.age (c : Cand) (now : Nat) : Cand :=
  match c.since with
  | none => { c with since := some now }
  | some t => if c.level < 3 && t + ageClocks ≤ now then { c with level := c.level + 1, since := some now } else c

/-- LEVEL_AGEING (R258). -/
def execLevelAgeing (s : State) : Out := .next (s.ready?.foldl (fun s x => s.onCand x (·.age s.now)) s)

/-- A task's pre-emption has been asked for. -/
def State.asked (s : State) (t : Task) : Bool :=
  s.cores[t.core].run.preempt || s.cores[t.core].run.phase == .preempting || s.onItsWay (.dev .preemptRequest (.born t.tid t.born))
/-- The running tasks that a candidate of a priority may displace, in the order of R258 and R293: by priority, dispatch and index. Those
that have been asked already, and have yet to leave, come first. -/
def State.displaceable (s : State) (prio : Nat) : List Task :=
  let p (t : Task) : Nat := ((s.launchOf t.launch).map (·.lrec.prio)).getD 0
  let ts := s.tasks.filter fun t => t.stand == .onCore && p t < prio && !s.endsHere t
  sortOn (fun t => if s.asked t then 0 else 1)
    (sortOn p (sortOn (fun t => s.now / 4 - t.cycle) (sortOn (fun t => 65535 - (t.tid.extractLsb' 0 16).toNat) ts)))
/-- Tasks to be displaced, gangs whole, until enough cores of a zone are free: those chosen, and whether they are enough. -/
def State.displace (s : State) (floor : Fin 4) (zone : List CoreId) (need : Nat) : List Task → List Task → List Task × Bool
  | got, [] => (got, need ≤ (got.filter fun t => zone.contains t.core && s.cores[t.core].accepts floor).length)
  | got, t :: r =>
    let n := (got.filter fun t => zone.contains t.core && s.cores[t.core].accepts floor).length
    if need ≤ n then (got, true)
    else if got.any (·.tid == t.tid) || !zone.contains t.core || !s.cores[t.core].accepts floor then s.displace floor zone need got r
    else s.displace floor zone need (got ++ s.gangOf t) r

/-- The pre-emptions a reserving candidate asks for (R258): in any place the permitted ones in order; under a constraint those of the
zone that needs the fewest still to be asked for, or none. -/
def State.askFor (s : State) (x : Seek) : List Task :=
  let n := s.need x
  let run := s.displaceable n.prio
  let plan (z : List CoreId) : List Task × Bool :=
    s.displace n.floor z (n.n - (z.filter (s.eligible n.floor (s.barred (some x)))).length) [] run
  match n.zones with
  | [z] => if z.length = 384 || (plan z).2 then (plan z).1 else []
  | zs => ((sortOn (fun p : List Task × Bool => (p.1.filter (!s.asked ·)).length) ((zs.map plan).filter (·.2))).head?.map (·.1)).getD []

/-- A request for a task that has none yet. -/
def State.askOnce (s : State) (t : Task) : State :=
  if s.asked t then s else s.requestPreempt t.tid

/-- RESERVATION_START (R258, R293): a candidate that has waited 2^20 distributor cycles at level 3 reserves; while a reserving candidate
cannot be placed its pre-emptions are asked for. -/
def execReservationStart (s : State) : Out :=
  let s := s.ready?.foldl (fun s x =>
    let c := s.candOf x
    if c.level = 3 && (c.since.map fun t => decide (t + ageClocks ≤ s.now)).getD false then s.onCand x fun c => { c with reserving := true } else s) s
  .next (((s.ready?.filter fun x => (s.candOf x).reserving && (s.coresFor x).isNone).flatMap s.askFor).foldl State.askOnce s)

/-! ### YIELD (R266) -/

/-- A ready head of a level or more cannot be placed for want of a core. -/
def State.wantsCore (s : State) (level : Nat) : Bool :=
  (s.rounds.filter s.headReady).any fun q => level ≤ s.queues[q].cand.level && (s.coresFor (.head q)).isNone

/-- YIELD (R266): the request is taken at the end of its region. -/
def execYield (g : PReg) (s : State) : Out :=
  let prio := ((s.launchOn s.cur).map (·.lrec.prio)).getD 0
  s.syl g fun c =>
    if c.ctx.x.armed || c.ctx.x.grp != 0 || c.run.cancel || !s.wantsCore prio then c
    else c.onRun fun r => { r with yielded := some c.regionId }

end Sys2Proof.Machine
end

