-- ==== Sys2Proof/Machine/Keccak.lean ====
section
/-! DEFINITION. SHAKE-256, which R317 names and no file of the spec gives: as FIPS 202 defines it (PRESUMED: log 65). -/

namespace Sys2Proof.Machine

/-- The constants of the 24 rounds. -/
def keccakConstants : List Word :=
  [0x0000000000000001, 0x0000000000008082, 0x800000000000808A, 0x8000000080008000, 0x000000000000808B, 0x0000000080000001,
   0x8000000080008081, 0x8000000000008009, 0x000000000000008A, 0x0000000000000088, 0x0000000080008009, 0x000000008000000A] ++
  [0x000000008000808B, 0x800000000000008B, 0x8000000000008089, 0x8000000000008003, 0x8000000000008002, 0x8000000000000080,
   0x000000000000800A, 0x800000008000000A, 0x8000000080008081, 0x8000000000008080, 0x0000000080000001, 0x8000000080008008]
/-- By how much each lane is rotated; lane (x, y) stands at x + 5 y. -/
def keccakRotations : List Nat :=
  [0, 1, 62, 28, 27, 36, 44, 6, 55, 20, 3, 10, 43, 25, 39, 41, 45, 15, 21, 8, 18, 2, 61, 56, 14]

/-- Lane (x, y) of a state of 25 lanes, its coordinates mod 5. -/
def keccakLane (a : List Word) (x y : Nat) : Word := a.getD (x % 5 + 5 * (y % 5)) 0
/-- The step theta: every lane takes the parities of two columns. -/
def keccakTheta (a : List Word) : List Word :=
  let c := (List.range 5).map fun x => (List.range 5).foldl (fun p y => p ^^^ keccakLane a x y) 0
  (List.range 25).map fun i => keccakLane a i (i / 5) ^^^ keccakLane c (i + 4) 0 ^^^ (keccakLane c (i + 1) 0).rotateLeft 1
/-- The steps rho and pi: every lane is rotated, and moves. -/
def keccakRhoPi (a : List Word) : List Word :=
  let r := (List.range 25).map fun i => (keccakLane a i (i / 5)).rotateLeft (keccakRotations.getD i 0)
  (List.range 25).map fun i => keccakLane r (i + 3 * (i / 5)) i
/-- The steps chi and iota: every lane takes its two neighbours in its row, and the first the constant of the round. -/
def keccakChiIota (k : Word) (a : List Word) : List Word :=
  (List.range 25).map fun i =>
    let x := keccakLane a i (i / 5) ^^^ (~~~ keccakLane a (i + 1) (i / 5) &&& keccakLane a (i + 2) (i / 5))
    if i = 0 then x ^^^ k else x
/-- One round of Keccak-f[1600]. -/
def keccakRound (a : List Word) (k : Word) : List Word := keccakChiIota k (keccakRhoPi (keccakTheta a))
/-- Keccak-f[1600]. -/
def keccakF (a : List Word) : List Word := keccakConstants.foldl keccakRound a

/-- A message of so many bytes, a little-endian number, with the padding of SHAKE-256 to whole blocks of 136 bytes. -/
def shakePadded (len bytes : Nat) : Nat :=
  bytes % 2 ^ (8 * len) + 0x1F * 2 ^ (8 * len) + 0x80 * 2 ^ (8 * (136 * (len / 136 + 1) - 1))
/-- A block taken into the state. -/
def shakeAbsorb (a : List Word) (block : Nat) : List Word :=
  keccakF (a.zipIdx.map fun p => if p.2 < 17 then p.1 ^^^ BitVec.ofNat 64 (block / 2 ^ (64 * p.2)) else p.1)
/-- The SHAKE-256 digest, 512 bits, of a message of so many bytes, a little-endian number (R317). -/
def shake256 (len bytes : Nat) : BitVec 512 :=
  let m := shakePadded len bytes
  let a := (List.range (len / 136 + 1)).foldl (fun a i => shakeAbsorb a (m / 2 ^ (1088 * i))) (List.replicate 25 0)
  BitVec.ofNat 512 ((a.take 8).foldr (fun w n => w.toNat + 2 ^ 64 * n) 0)

end Sys2Proof.Machine
end

