-- ==== Sys2Proof/Machine/Management.lean ====
section
/-! DEFINITION. The management space: election, handover, thaw, registers, access control, links, firmware and attestation; accesses of the
host and of peers (R304 to R317). -/

namespace Sys2Proof.Machine

/-- A write at an offset by a master, where the step's argument is one. -/
def State.onWrite (s : State) (f : PortId → Nat → Word → State) : Out :=
  match s.arg with
  | .write m off v => .next (f m off v)
  | _ => .next s
/-- The same for one register. -/
def State.onRegister (s : State) (reg : Nat) (f : PortId → Word → State) : Out :=
  s.onWrite fun m off v => if off = reg then f m v else s

/-! ### Election and handover (R307 to R310) -/

/-- A port becomes the owner; the epoch rises by one (R308). -/
def State.elect (s : State) (m : PortId) (prio : BitVec 8) (code : Nat) : State :=
  ({ s with mgmt := { s.mgmt with
    owned := true, owner := BitVec.ofNat 5 m.val, prio := prio, epoch := s.mgmt.epoch + 1, succ := 31, open_ := none
    claims := [] } } : State).portEvent code m.val

/-- CLAIM (R306, R308, R310): kept in an open window; the named successor's passes ownership; the first after a window without claims is
elected at once; any other outside a window is ignored. -/
def execClaim (s : State) : Out :=
  s.onRegister 0x08 fun m v =>
    let p := v.extractLsb' 8 8
    s.manage m true false (v == (p.setWidth 64 <<< 8) && p != 0) fun s =>
      if s.mgmt.open_.isSome then
        { s with mgmt := { s.mgmt with claims := s.mgmt.claims.filter (·.1 != m) ++ [(m, p)] } }
      else if s.mgmt.owned then (if s.mgmt.succ.toNat = m.val then s.elect m p 0x03 else s)
      else if s.ready then s.elect m p 0x01 else s

/-- The claim that wins: the highest priority, ties to the lower port (R308). -/
def winner (l : List (PortId × BitVec 8)) : Option (PortId × BitVec 8) :=
  l.foldl (fun b c => match b with
    | none => some c
    | some x => if x.2.toNat < c.2.toNat || (x.2 == c.2 && c.1.val < x.1.val) then some c else some x) none

/-- CLAIM_WINDOW_CLOSE (R308): the owner is elected, or the device stays ownerless. At bring-up the last step follows (R349). -/
def execClaimWindowClose (s : State) : Out :=
  match s.mgmt.open_ with
  | none => .next s
  | some t =>
    if s.now < t then .next s
    else
      let s1 := match winner s.mgmt.claims with
        | some c => s.elect c.1 c.2 0x01
        | none => { s with mgmt := { s.mgmt with open_ := none } }
      .next (if s.ready then s1 else s1.soon [.dev .bringUp (.bring 8)])

/-- HANDOVER (R306, R310): a successor named, or withdrawn with 31. -/
def execHandover (s : State) : Out :=
  s.onRegister 0x10 fun m v =>
    s.manage m false false (v.extractLsb' 5 59 == 0 && (v.toNat < 20 || v.toNat = 31)) fun s =>
      { s with mgmt := { s.mgmt with succ := v.setWidth 5 } }

/-- A master port is thawed (R311). -/
def State.thawPort (s : State) (m : Nat) : State :=
  if s.mgmt.frozen.getLsbD m then
    ({ s with mgmt := { s.mgmt with frozen := s.mgmt.frozen &&& ~~~BitVec.twoPow 20 m } } : State).portEvent 0x05 m
  else s
/-- THAW (R306, R311). -/
def execThaw (s : State) : Out :=
  s.onRegister 0x18 fun m v => s.manage m false false (v.toNat < 20) fun s => s.thawPort v.toNat

/-- The core of a CORE number (R30, R344). -/
def coreOfNumber (n : Nat) : Option CoreId := if n / 128 < 4 ∧ n % 128 < 96 then some (Fin.ofNat 384 (n / 128 * 96 + n % 128)) else none
/-- PREEMPT (R275, R306): the task that runs on the core receives a pre-emption request. -/
def execPreempt (s : State) : Out :=
  s.onRegister 0x80 fun m v =>
    s.manage m false false (coreOfNumber v.toNat).isSome fun s =>
      match coreOfNumber v.toNat with
      | some k => if s.cores[k].busy then s.requestPreempt s.cores[k].ctx.x.tid else s
      | none => s

/-! ### Registers (R305, R306, R309) -/

/-- An address of device memory keeps its field's limits: 40 bits, on one of 12 stacks (R186, R295). -/
def dpaFits (v : Word) : Bool := v.extractLsb' 40 24 == 0 && (v.extractLsb' 36 4).toNat < 12
/-- An OVFd value: an area of some size lies on a stack of die d (R306). -/
def ovfFits (d : Nat) (v : Word) : Bool := v.extractLsb' 40 24 == 0 || (v.extractLsb' 36 4).toNat / 3 == d
/-- Doubleword i of a CXL.mem window (R305). -/
def cxlFits (i : Nat) (v : Word) : Bool :=
  if i = 0 then v.extractLsb' 52 11 == 0 && v.extractLsb' 0 28 == 0
  else if i = 1 then v.extractLsb' 0 28 == 0
  else if i = 2 then v.extractLsb' 48 16 == 0 && v.extractLsb' 0 16 == 0
  else v.extractLsb' 16 48 == 0

/-- The management space updated. -/
def State.onMgmt (s : State) (f : Mgmt → Mgmt) : State := { s with mgmt := f s.mgmt }

/-- A register that MGMT_REGISTER_WRITE writes: whether any master may, whether the value fits, and its effect (R305, R306, R309,
R317). -/
def mgmtReg (off : Nat) (v : Word) : Option (Bool × Bool × (Mgmt → Mgmt)) :=
  let i (base : Nat) := (off - base) / 8
  if off % 8 != 0 then none
  else if off = 0x28 then some (false, v.extractLsb' 12 52 == 0, fun g => { g with devid := v.setWidth 12 })
  else if off = 0x30 then some (false, dpaFits v, fun g => { g with astbase := v.setWidth 40 })
  else if off = 0x38 then some (false, v.extractLsb' 48 16 == 0 && v.extractLsb' 0 16 == 0, fun g => { g with spbase := v })
  else if off = 0x40 then some (false, v.extractLsb' 32 32 == 0, fun g => { g with spctl := v })
  else if 0x48 ≤ off && off < 0x68 then some (false, ovfFits (i 0x48) v, fun g => { g with ovf := g.ovf.setIfInBounds (i 0x48) v })
  else if 0xA0 ≤ off && off < 0xC0 then some (true, true, fun g => { g with nonce := g.nonce.setIfInBounds (i 0xA0) v })
  else if 0x100 ≤ off && off < 0x1A0 then
    some (false, v.extractLsb' 17 47 == 0, fun g => { g with grants := g.grants.setIfInBounds (i 0x100) v })
  else if 0x200 ≤ off && off < 0x300 then
    let w (x : Word × Word) : Word × Word := if i 0x200 % 2 = 0 then (v, x.2) else (x.1, v)
    some (false, true, fun g => { g with hostWin := g.hostWin.setIfInBounds (i 0x200 / 2) (w (g.hostWin.toList.getD (i 0x200 / 2) (0, 0))) })
  else if 0x300 ≤ off && off < 0x400 then
    some (false, cxlFits (i 0x300 % 4) v, fun g => { g with
      cxlWin := g.cxlWin.setIfInBounds (i 0x300 / 4) ((g.cxlWin.toList.getD (i 0x300 / 4) (Vector.replicate 4 0)).setIfInBounds (i 0x300 % 4) v) })
  else none

/-- Registers that a step of their own writes. -/
def ownStep (off : Nat) : Bool :=
  [0x08, 0x10, 0x18, 0x80, 0x88, 0x98, 0xC0].contains off || (queueAt 0x10000 off).isSome || (queueAt 0x10010 off).isSome ||
    (off % 8 == 0 && ((0x100000 ≤ off && off < 0x140000) || (0x80000 ≤ off && off < 0x88000)))

/-- MGMT_REGISTER_WRITE (R306, R309, R311): a register without a writer, or an offset not listed, is refused to the owner and a violation
of any other. -/
def execMgmtRegisterWrite (s : State) : Out :=
  s.onWrite fun m off v =>
    if ownStep off then s
    else match mgmtReg off v with
      | some (anyone, fits, f) => s.manage m anyone false fits (·.onMgmt f)
      | none => s.manage m false false false id

/-- ACCESS_CONTROL_WRITE (R311, R312): a frozen peer is thawed by the owner rewriting its entry. -/
def execAccessControlWrite (s : State) : Out :=
  s.onWrite fun m off v =>
    let id := (off - 0x80000) / 8
    let port := (v.extractLsb' 0 5).toNat
    if off % 8 != 0 || off < 0x80000 || 0x88000 ≤ off then s
    else s.manage m false false (v.extractLsb' 56 4 == 0 && v.extractLsb' 5 19 == 0 && (port < 18 || port = 31)) fun s =>
      let was := (wayGet s.mgmt.acl id).getLsbD 60
      let s := s.onMgmt fun g => { g with
        acl := waySet g.acl id (v &&& ~~~BitVec.twoPow 64 60), via := g.via.filter (·.1 != id) }
      if was then s.eventOpen 0x05 3 id else s

/-! ### Links (R308, R310, R311, R349) -/

/-- A peer frozen by a violation over a port is thawed (R311). -/
def State.thawPeer (s : State) (peer : Nat) : State :=
  (s.onMgmt fun g => { g with
    acl := waySet g.acl peer (wayGet g.acl peer &&& ~~~BitVec.twoPow 64 60), via := g.via.filter (·.1 != peer) }).eventOpen 0x05 3 peer

/-- A link's next training attempt; whether it succeeds is a free value (R349). -/
def State.train (s : State) (m : PortId) : State :=
  (s.draw).later (.dev .linkTraining (.link m (Config.freeNat s.free 0 % 2 == 1)))

/-- Bring-up has trained a port's link, or begun to (R349); the board controller's takes no training. -/
def State.hasLink (s : State) (m : PortId) : Bool := m == 19 || (if m = 0 then 5 else 6) ≤ s.brought
/-- LINK_RESET (R308, R310, R311, R349): the link of a port resets, and comes back at once or stays down and trains again; what was frozen
over it is thawed; the owner's link takes ownership with it. -/
def execLinkReset (s : State) : Out :=
  match s.arg with
  | .link m up =>
    if !s.hasLink m then .next s
    else
    let b := BitVec.twoPow 20 m.val
    let s := s.portEvent 0x06 m.val
    let s := s.onMgmt fun g => { g with links := if up then g.links ||| b else g.links &&& ~~~b }
    let s := s.thawPort m.val
    let s := ((s.mgmt.via.filter fun p => p.2 + 1 == m.val).map (·.1)).foldl State.thawPeer s
    let s := if s.mgmt.isOwner m.val then s.lapse else s
    .next (if up || m == 19 then s else s.train m)
  | _ => .next s

/-- The ports that bring-up trains: the host's and the fabric's (R349). -/
def trainedPorts : BitVec 20 := BitVec.ofNat 20 (2 ^ 19 - 1)
/-- LINK_TRAINING (R304, R349): an attempt to train a link ends; a failed one is made again. The claim window opens once every link has
trained or failed its first attempt. -/
def execLinkTraining (s : State) : Out :=
  match s.arg with
  | .link m up =>
    let b := BitVec.twoPow 20 m.val
    let before := s.mgmt.tried &&& trainedPorts == trainedPorts
    let s := s.onMgmt fun g => { g with tried := g.tried ||| b, links := if up then g.links ||| b else g.links }
    let after := s.mgmt.tried &&& trainedPorts == trainedPorts
    let s := if up then s else s.train m
    .next (if after && !before then s.soon [.dev .bringUp (.bring 7)] else s)
  | _ => .next s

/-! ### Firmware (R315) -/

/-- FWUPD (R315): a check starts; a write while one runs is ignored. -/
def execFwupd (s : State) : Out :=
  s.onRegister 0x88 fun m v =>
    s.manage m false false true fun s =>
      if s.mgmt.fwBusy then s
      else (s.onMgmt fun g => { g with fwAddr := v, fwBusy := true, fwstat := 0 }).later (.dev .fwCheckDone .none)

/-- The version in an image's header (R315). -/
def Image.version (i : Image) : BitVec 32 := BitVec.ofNat 32 i.bytes
/-- The SHAKE-256 digest of an image (R317). -/
def Image.digest (i : Image) : BitVec 512 := shake256 i.len i.bytes
/-- The image at a host-window address: its bytes as a number and its length, when its header is well formed and the window holds it
(R200, R315). -/
def State.fwImage (s : State) (a : Word) : Option (Nat × Nat) :=
  match s.hostAddr a 64 with
  | .error _ => none
  | .ok h =>
    let head := memLe s.host h 64
    let total := 64 + head / 2 ^ 64 % 2 ^ 64 + 29792
    if head / 2 ^ 32 % 2 ^ 32 != 0 || head / 2 ^ 128 != 0 then none
    else match s.hostAddr a total with
      | .error _ => none
      | .ok h => some (memLe s.host h total, total)

/-- FW_CHECK_DONE (R315): with both checks passed the image goes to the store and FWSTAT becomes 1, else 2. Which of the two images it
replaces is a free value; it is the one that the next bring-up runs. -/
def execFwCheckDone (s : State) : Out :=
  if !s.mgmt.fwBusy then .next s
  else
    let ok := (s.fwImage s.mgmt.fwAddr).filter fun i =>
      s.mgmt.links.getLsbD 0 && Config.fwSigned i.2 i.1 && s.minimum.toNat ≤ i.1 % 2 ^ 32
    match ok with
    | some i => .next ((s.draw).onMgmt fun g => { g with
        fwBusy := false, fwstat := 1
        store := g.store.set (Fin.ofNat 2 (Config.freeNat s.free 0)) (some ⟨i.2, i.1⟩), newest := Fin.ofNat 2 (Config.freeNat s.free 0) })
    | none => .next (s.onMgmt fun g => { g with fwBusy := false, fwstat := 2 })

/-- FWCOMMIT (R315, R344): the stored minimum rises to the running version; the record is written first. -/
def execFwcommit (s : State) : Out :=
  s.onRegister 0x98 fun m _ =>
    s.manage m false false true fun s =>
      match s.mgmt.running with
      | some i => s.writeLife (if s.minimum.toNat < i.version.toNat then i.version else s.minimum)
      | none => s

/-! ### Attestation (R317) -/

/-- Doublewords of a digest. -/
def digestWords (d : BitVec 512) : List Word := (List.range 8).map fun i => d.extractLsb' (64 * i) 64
/-- The retired cores (R317). -/
def State.retiredCores (s : State) : Nat := (s.cores.toList.filter (·.wear.st == .retired)).length
/-- Bytes 0 to 127 of a report (R317). -/
def State.reportBody (s : State) (n : Nat) : List Word :=
  let run := s.mgmt.running
  BitVec.ofNat 64 (n % 2 ^ 48) :: s.mgmt.nonce.toList ++ digestWords ((run.map Image.digest).getD 0) ++
    [BitVec.ofNat 64 (((run.map Image.version).getD 0).toNat + 2 ^ 32 * s.minimum.toNat), s.mgmt.ownerWord,
      BitVec.ofNat 64 (s.mgmt.devid.toNat + 2 ^ 16 * s.retiredCores)]

/-- ATTEST (R317): the body of a report is fixed; a write while one is being signed is ignored. -/
def execAttest (s : State) : Out :=
  s.onRegister 0xC0 fun m v =>
    s.manage m true false (v == 1) fun s =>
      if s.mgmt.atBusy then s
      else
        let (n, s) := s.number
        (s.onMgmt fun g => { g with atBusy := true, body := s.reportBody n }).later (.dev .attestDone .none)

/-- ATTEST_DONE (R317): the report replaces the one before; its signature is a free value. -/
def execAttestDone (s : State) : Out :=
  if !s.mgmt.atBusy then .next s
  else .next ((s.draw).onMgmt fun g => { g with
    atBusy := false
    report := g.body ++ List.replicate 16 0 ++ (List.range 3724).map fun i => Config.freeBits 64 s.free i })

/-! ### Accesses of the host and of peers (R305, R311 to R313) -/

/-- The CXL.mem window that holds a host address: its virtual address and its owner tag (R305). -/
def Mgmt.cxlAt (g : Mgmt) (a : Nat) : Option (Nat × BitVec 16) :=
  g.cxlWin.toList.findSome? fun w =>
    let base := (w[0].extractLsb' 0 52).toNat
    if w[0].getLsbD 63 && base ≤ a && a < base + w[1].toNat then some ((w[2].extractLsb' 0 48).toNat + (a - base), w[3].setWidth 16) else none

/-- Where a host access goes: none is a violation; the flag says that the page refuses a write because it is logged (R305). -/
def State.hostPlace (s : State) (write : Bool) (a : Nat) : Option (Place × Nat × BitVec 16 × Bool) :=
  match s.mgmt.cxlAt a with
  | none => none
  | some (va, tag) =>
    match s.spaceOf tag with
    | none => none
    | some sp =>
      match s.resolve sp true .read va with
      | .error _ => none
      | .ok p =>
        if p.exposed = 0 then none
        else if !write then some (p, va, tag, false)
        else match s.resolve sp true .write va, s.resolve sp true .append va with
          | .ok p, _ => some (p, va, tag, false)
          | _, .ok p => some (p, va, tag, true)
          | _, _ => none

/-- The check of what the translation of a host access reads (R196, R305). -/
def State.hostCheck (s : State) (a : Nat) : State :=
  match s.mgmt.cxlAt a with
  | none => s
  | some (va, tag) =>
    let s := s.checkSpace tag
    match s.spaceOf tag with
    | none => s
    | some sp => s.checkWalk sp va

/-- HOST_MEM_ACCESS (R305, R311): one 32-byte atom. Reads of poisoned pages and of a frozen host come back poisoned; the error check of
what is read is a free value (R196). -/
def execHostMemAccess (s : State) : Out :=
  match s.arg with
  | .host write a _ data =>
    if !s.powered || !s.mgmt.links.getLsbD 0 || a % 32 != 0 then .next s
    else if s.mgmt.frozen.getLsbD 0 then .next (if write then s else { s with reply := some ⟨0, true, false⟩ })
    else
      let s := s.hostCheck a
      match s.hostPlace write a with
      | none => .next { s.freezePort 0 with reply := if write then s.reply else some ⟨0, true, false⟩ }
      | some (p, _, _, logged) =>
        if logged then .next { s with reply := some ⟨0, false, true⟩ }
        else if write then .next { s with hbm := memPut s.hbm (cellOf p.pat p.dpa) data.toNat 32, reply := some ⟨0, false, false⟩ }
        else
          let t := s.checkAtom p.chan p.dpa
          let bad := t.poisoned p.dpa
          .next { t with reply := some ⟨if bad then Config.freeBits 256 s.free 1 else memBits t.hbm 256 (cellOf p.pat p.dpa) 32, bad, false⟩ }
  | _ => .next s

/-- PEER_FAB_WRITE (R233, R312, R313): an owned write at task privilege in the space of the peer's entry; what fails to translate is
returned to the sender. What translates waits for its slot (R201). -/
def execPeerFabWrite (s : State) : Out :=
  match s.arg with
  | .fab peer port addr mask data => .next (s.fromPeer peer port (·.getLsbD 62) fun e =>
      let s := s.checkSpace (aclOwner e)
      let s := ((s.spaceOf (aclOwner e)).map fun sp => s.checkWalk sp addr.toNat).getD s
      match (s.spaceOf (aclOwner e)).map fun sp => s.resolve sp false .write addr.toNat with
      | none => s.respond (fabPort port) (.failed stTranslation)
      | some (.error x) => s.respond (fabPort port) (.failed x)
      | some (.ok p) =>
        { s with inbox := s.inbox ++ [⟨aclOwner e, addr.toNat, [], p.chan, p.dpa, mask, data, fabPort port⟩] })
  | _ => .next s

end Sys2Proof.Machine
end

