-- ==== Sys2Proof/Machine/Lantern.lean ====
section
/-! DEFINITION. The Lantern: wear, budgets, core states and the lifetime record; bring-up and power-off (R263, R339 to R344, R346, R348 to
R350). -/

namespace Sys2Proof.Machine

/-! ### Wear (R339, R340) -/

/-- A sampling interval of 2^20 distributor cycles, in calendar clocks (R339). -/
def intervalClocks : Nat := 2 ^ 22

/-- The factor of a junction temperature (R340). -/
def heatFactor (t : Nat) : Nat := if t ≤ 65 then 1 else if t ≤ 80 then 2 else if t ≤ 95 then 4 else 8

/-- A core held a running context during the interval. -/
def Core.ranInterval (c : Core) : Bool := c.busy || c.sample.ran
/-- The wear charge of an interval (R340): act active cycles and dEMET femtojoules, or a powered and idle core. -/
def Core.charge (c : Core) (f : Nat) : Nat :=
  if c.ranInterval then
    let x := c.ctx.x
    let act := c.sample.act + if c.busy then (x.tick - c.sample.tick0).toNat else 0
    let fj := c.sample.fj + if c.busy then (x.emet - c.sample.emet0).toNat else 0
    act * f + fj / 2 ^ 20
  else f * 2 ^ 20

/-- The wear units of an interval (R340). -/
def Core.wearUnits (c : Core) (f : Nat) : Nat := (c.sample.acc + c.charge f) / 2 ^ 22
/-- A core at the end of an interval: its accumulator and lifetime count, its drift and integral, and the context that runs then is
charged (R339, R340). -/
def Core.interval (c : Core) (now f drift amps : Nat) : Core :=
  let n := c.wearUnits f
  let c1 := if c.busy then c.onSpr fun x => { x with wuc := x.wuc + BitVec.ofNat 64 n } else c
  { c1 with
    wear := { c1.wear with
      lifetime := min (2 ^ 48 - 1) (c1.wear.lifetime + n), drift := max c1.wear.drift (min (2 ^ 20 - 1) drift)
      integral := min (2 ^ 44 - 1) (c1.wear.integral + amps) }
    sample := ⟨(c.sample.acc + c.charge f) % 2 ^ 22, 0, 0, c1.ctx.x.tick, c1.ctx.x.emet, none, c.busy⟩
    clk := { c1.clk with asked := [], old := c1.clk.asked.filter fun p => c1.clk.at now < p.2 + 64 } }

/-- Wear units charged to a task, by its number, that does not run on the core that took them, wherever its context is held (R340). -/
def State.chargeTask (s : State) (born n : Nat) : State :=
  match s.tasks.find? (·.born == born) with
  | none => s
  | some t =>
    if t.stand = .onCore then s.onCore t.core fun c => c.onSpr fun x => { x with wuc := x.wuc + BitVec.ofNat 64 n }
    else
      let x := s.readWuc t
      x.2.areaPut t.area 32 8 (x.1 + n)

/-- A request of one monitor in this interval came within 64 periods of the one before it (R346, R350). -/
def overBudget (old l : List Nat) : Bool := l.zipIdx.any fun q => (old ++ l.take q.2).any fun p => q.1 < p + 64
/-- Event 0x53 of an island that asked for too many stretches in the interval (R346, R350). -/
def State.budgetEvent (s : State) (kind source island : Nat) (old l : List Nat) : State :=
  if overBudget old l then
    s.event 0x53 kind source (BitVec.ofNat 64 (min l.length 65535 * 2 ^ 16 + Config.islandNo island % 1024)) 0
  else s
/-- The budgets of the two islands of a core. -/
def State.coreBudget (s : State) (k : CoreId) : State :=
  let l (array : Bool) (x : List (Bool × Nat)) := (x.filter (·.1 == array)).map (·.2)
  let c := s.cores[k].clk
  let s := s.budgetEvent 1 (coreNumber k) (2 * k.val) (l false c.old) (l false c.asked)
  s.budgetEvent 1 (coreNumber k) (2 * k.val + 1) (l true c.old) (l true c.asked)
/-- The die of an island outside the cores. -/
def isleDie (n : Nat) : Nat := if n < 48 then n / 12 else if n < 144 then (n - 48) / 24 else if n < 240 then (n - 144) / 24 else (n - 240) / 4
/-- The budgets of the islands outside the cores, whose next interval begins. -/
def State.isleBudgets (s : State) : State :=
  let s := (List.range 256).foldl (fun s n =>
    let x := s.isles[Fin.ofNat 256 n]
    s.budgetEvent 0 (isleDie n) (768 + n) x.old x.asked) s
  { s with isles := s.isles.map fun x => { x with asked := [], old := x.asked.filter fun p => s.now - x.taken < p + 64 } }

/-- A core's interval ends. -/
def State.coreInterval (s : State) (k : CoreId) (temp drift amps : Nat) : State :=
  let s := s.coreBudget k
  let c := s.cores[k]
  if c.wear.st == .retired && !c.usable then s
  else
    let f := heatFactor temp
    let s1 := s.onCore k (·.interval s.now f drift amps)
    if c.busy then s1
    else match c.sample.last with
      | some w => s1.chargeTask w (c.wearUnits f)
      | none => s1

/-- The wear units of a launch so far: of the tasks that have retired and of those that have not (R254, R263). -/
def State.launchWear (s : State) (l : Launch) : Nat :=
  (s.tasksOf l.num).foldl (fun n t => n + if t.stand = .onCore then s.cores[t.core].ctx.x.wuc.toNat else s.savedWuc t) l.wear
/-- The check of what is read of the save areas of a launch's tasks for that (R196). -/
def State.checkWear (s : State) (l : Launch) : State :=
  (s.tasksOf l.num).foldl (fun s t => if t.stand = .onCore then s else s.checkBytes t.area 32 8) s
/-- WEAR_BUDGET_EXCEEDED (R263): a launch over its budget is cancelled. -/
def State.budget (s : State) (l : Launch) : State :=
  let s := if l.lrec.wear != 0 && !l.overWear then s.checkWear l else s
  if l.lrec.wear != 0 && !l.overWear && l.lrec.wear < s.launchWear l then
    (s.cancelLaunch l.num true).event 0x54 0 0 (BitVec.ofNat 64 (l.num % 2 ^ 48)) 0
  else s

/-- The state that a core's figures call for (R342). -/
def Core.nextState (c : Core) : CoreSt :=
  let w := c.wear
  let drain := w.lifetime ≥ 350000000000 || w.drift ≥ 25000 || w.integral ≥ 2 ^ 43 || w.marks ≥ 2 || c.sram.corr.toNat ≥ 65536
  match w.st with
  | .healthy => if drain then .draining else if w.lifetime ≥ 250000000000 || w.drift ≥ 15000 then .derated else .healthy
  | .derated => if drain then .draining else .derated
  | x => x

/-- WEAR_INTERVAL (R339, R340, R342): every core forms its charge; budgets are compared; a change of state follows in the next distributor
cycle. -/
def execWearInterval (s : State) : Out :=
  match s.arg with
  | .sense temp drift amps =>
    let s := allCores.foldl (fun s k => s.coreInterval k (temp.getD k.val 0) (drift.getD k.val 0) (amps.getD k.val 0)) s.isleBudgets
    let s := s.launches.foldl State.budget s
    .next ((allCores.filter fun k => s.cores[k].nextState != s.cores[k].wear.st).foldl
      (fun s k => s.atClock (s.now + 4) (.dev .coreStateChange (.state k s.cores[k].nextState))) s)
  | _ => .next s

/-! ### Core states (R342, R343) -/

/-- A core holds no context: none running and no context off its core with a pitch there (R342). -/
def State.emptyCore (s : State) (k : CoreId) : Bool := !s.cores[k].busy && (s.claimable k none).isEmpty
/-- Event 0x50 of a core's new state (R350). -/
def State.stateEvent (s : State) (k : CoreId) (st : CoreSt) : State :=
  s.event 0x50 1 (coreNumber k) (BitVec.ofNat 64 (st.code * 2 ^ 16 + coreNumber k)) (BitVec.ofNat 64 s.cores[k].wear.lifetime)
/-- A core's new state, in the record before it takes effect, with its event (R342, R344, R350). -/
def State.setCoreState (s : State) (k : CoreId) (st : CoreSt) : State :=
  let s := s.onCore k fun c => { c with wear := { c.wear with st := st } }
  (s.writeLife s.minimum).stateEvent k st

/-- CORE_STATE_CHANGE (R342, R343): the state that an interval's end has called for is entered; a core that enters Draining has its running
task pre-empted and its resident pitches written out; it is Retired once it holds no context. -/
def execCoreStateChange (s : State) : Out :=
  match s.arg with
  | .core k => .next (if s.cores[k].wear.st == .draining && s.emptyCore k then s.setCoreState k .retired else s)
  | .state k st =>
    let c := s.cores[k]
    if st.code ≤ c.wear.st.code then .next s
    else
      let s := s.setCoreState k st
      if st != .draining then .next s
      else
        let s := if c.busy then s.requestPreempt c.ctx.x.tid else s
        .next (s.soon ((s.claimable k none).map fun p => .dev .pitchWriteOut (.pitch p.1 p.2.1)))
  | _ => .next s

/-! ### The lifetime record (R344) -/

/-- The cells of a copy as they stand where a write or a check of it has failed: free values (R344, R350). -/
def State.spoilCopy (s : State) (i : Fin 2) : State :=
  let x := s.life[i]
  (({ s with life := s.life.set i ⟨Config.freeNat s.free 2 % 2 ^ 98816⟩ } : State).draw).event 0x52 0 0
    (BitVec.ofNat 64 (x.generation % 2 ^ 56 * 256 + i.val)) 0
/-- LIFETIME_CHECKPOINT (R344, R350): the copy that is not in force is written. Whether the write fails is a free value. -/
def execLifetimeCheckpoint (s : State) : Out :=
  let t := (s.draw).writeLife s.minimum
  .next (if Config.freeNat s.free 0 % 2 = 0 then t else t.spoilCopy s.lifeOld)

/-! ### Bring-up (R348, R349) -/

/-- Event 0x55 (R350): a step of bring-up failed, or left a core out of service. -/
def State.bringFail (s : State) (n what : Nat) : State := s.event 0x55 0 0 (BitVec.ofNat 64 (what % 512 * 2 ^ 16 + n)) 0
/-- The next step of bring-up, after a time that is not fixed. -/
def State.bringNext (s : State) (n : Nat) : State := s.later (.dev .bringUp (.bring n))

/-- Step 1 (R9, R315, R349): the image that the last accepted update put into the store, if it is at or above the minimum and the service
core accepts its signature, else the other. -/
def State.authenticate (s : State) : Option Image :=
  let g := s.mgmt
  ([g.store[g.newest], g.store[g.newest + 1]].filterMap id).find? fun i =>
    s.minimum.toNat ≤ i.version.toNat && Config.fwSigned i.len i.bytes

/-- A core's free crossings measured: D is from 2 to 6 periods (R348). -/
def Clk.measure (x : Clk) (draw i : Nat) : Clk :=
  { x with cross := x.cross.mapIdx fun j y => { y with d := 2 + Config.freeNat draw (i + j) % 5 } }
/-- Step 3 (R348, R349): the crossings are measured, and slot 0 of every pseudo-channel is aligned, so that no controller's slots lag the
calendar; cores whose paired crossings fail stay out of service, and a failing controller stops
bring-up. Which of them fail is a free value. -/
def State.calibrate (s : State) (draw : Nat) : State × Bool :=
  let s := { s with
    cores := s.cores.mapIdx fun i c => { c with clk := c.clk.measure draw (512 + 10 * i) }
    isles := s.isles.map fun x => { x with shift := 0, next := 0 } }
  let s := allCores.foldl (fun s k =>
    if Config.freeNat draw k.val % 2 = 1 then (s.onCore k fun c => { c with usable := false }).bringFail 3 (coreNumber k) else s) s
  let bad := (List.range 96).filter fun n => Config.freeNat draw (384 + n) % 2 == 1
  (bad.foldl (fun s n => s.bringFail 3 n) s, bad.isEmpty)

/-- A copy of the record read: its cells may have come to hold anything; event 0x52 where its check fails (R344, R349, R350). -/
def State.checkCopy (s : State) (i : Fin 2) (decayed : Bool) : State :=
  if decayed then s.spoilCopy i
  else if s.life[i].sound then s else s.event 0x52 0 0 (BitVec.ofNat 64 (s.life[i].generation % 2 ^ 56 * 256 + i.val)) 0

/-- Step 4 (R344, R349, R350): the cores take their figures from the copy in force; Draining ones become Retired, in the record before they
do, with their events, and Retired ones are fused out. -/
def State.readLife (s : State) (x : LifeCopy) : State :=
  let drained := allCores.filter fun k => (x.entry k.val).st == .draining
  let s := { s with cores := s.cores.mapIdx fun i c =>
    let w := x.entry i
    let w := if w.st == .draining then { w with st := .retired } else w
    { c with wear := w, sram := { c.sram with corr := BitVec.ofNat 32 w.corrected }, usable := c.usable && w.st != CoreSt.retired } }
  let s := if drained.isEmpty then s else s.writeLife x.minimum
  drained.foldl (fun s k => s.stateEvent k .retired) s

/-- What power-off leaves (R344): the lifetime record and the firmware store, and what lies outside the device. -/
def State.unpowered (s : State) : State :=
  { State.reset with
    now := s.now, free := s.free, host := s.host, sentFab := s.sentFab, life := s.life, powered := false, agenda := []
    mgmt := { Mgmt.reset with store := s.mgmt.store, newest := s.mgmt.newest } }

/-- A step of bring-up has been passed: the next follows after a time that is not fixed. -/
def State.passed (s : State) (n : Nat) : State := ({ s with brought := n } : State).bringNext (n + 1)
/-- BRING_UP (R349): step 0 is the return of power, with which step 1 comes, before any input; each later step follows the one before it,
once that has passed. -/
def execBringUp (s : State) : Out :=
  match s.arg with
  | .bring 0 => .next (if s.powered then s else ({ s with powered := true } : State).first [.dev .bringUp (.bring 1)])
  | .bring n =>
    if n != s.brought + 1 || !s.powered then .next s
    else
      match n with
      | 1 =>
        match s.authenticate with
        | some i => .next ((s.onMgmt fun g => { g with running := some i }).passed 1)
        | none => .next s
      | 2 => .next (if Config.freeNat s.free 0 % 2 = 1 then (s.draw).bringFail 2 (Config.freeNat s.free 1) else (s.draw).passed 2)
      | 3 =>
        let r := (s.draw).calibrate s.free
        .next (if r.2 then r.1.passed 3 else r.1)
      | 4 =>
        let t := ((s.draw).checkCopy 0 (Config.freeNat s.free 0 % 2 == 1)).checkCopy 1 (Config.freeNat s.free 1 % 2 == 1)
        match t.lifeCopy with
        | some x => .next ((t.readLife x).passed 4)
        | none => .next t
      | 5 => .next ((s.train 0).passed 5)
      | 6 => .next { (List.range 18).foldl (fun s p => s.train (Fin.ofNat 20 (p + 1))) s with brought := 6 }
      | 7 => .next { s.openWindow with brought := 7 }
      | 8 =>
        let v : Word := (((s.mgmt.running.map fun i => i.version).getD 0 : BitVec 32)).setWidth 64
        .next (({ s.event 0x5F 0 0 v 0 with ready := true, brought := 8 } : State).rereadHeads)
      | _ => .next s
  | _ => .next s

/-- POWER_OFF (R344, R349): everything but the non-volatile cells and the firmware store is lost. -/
def execPowerOff (s : State) : Out := .next s.unpowered

end Sys2Proof.Machine
end

