-- ==== Sys2Proof/Machine/Scalar.lean ====
section
/-! DEFINITION. The S slot: integer and address arithmetic, compares, predicates, scratchpad loads and stores (R106 to R115). -/

namespace Sys2Proof.Machine

/-- Signed minimum test. -/
def slt (a b : Word) : Bool := a.toInt < b.toInt
/-- The quotient of DIV (R108). -/
def divS (a b : Word) : Word := if b = 0 then BitVec.allOnes 64 else BitVec.ofInt 64 (a.toInt.tdiv b.toInt)
/-- The quotient of DIVU (R108). -/
def divU (a b : Word) : Word := if b = 0 then BitVec.allOnes 64 else BitVec.ofNat 64 (a.toNat / b.toNat)
/-- The remainder of REM (R108). -/
def remS (a b : Word) : Word := if b = 0 then a else BitVec.ofInt 64 (a.toInt.tmod b.toInt)
/-- The remainder of REMU (R108). -/
def remU (a b : Word) : Word := if b = 0 then a else BitVec.ofNat 64 (a.toNat % b.toNat)
/-- The high half of the signed product (R107). -/
def mulHi (a b : Word) : Word := BitVec.ofInt 64 (a.toInt * b.toInt / 2 ^ 64)
/-- The high half of the unsigned product (R107). -/
def mulHiU (a b : Word) : Word := BitVec.ofNat 64 (a.toNat * b.toNat / 2 ^ 64)
/-- Leading zeros, 64 for zero (R107). -/
def clz64 (a : Word) : Word := if a = 0 then 64 else BitVec.ofNat 64 (63 - Nat.log2 a.toNat)
/-- The shift of LEA (R107). -/
def leaShift : Fin 4 → Nat
  | 0 => 0
  | 1 => 2
  | 2 => 3
  | 3 => 4

/-- An RRR form of the S slot: both sources read at issue, the result landing after lat cycles (R106, R107). -/
def Core.aluRR (c : Core) (lat : Nat) (d a b : SReg) (f : Word → Word → Word) : Core := c.flyS lat 0 d (f (c.s a) (c.s b))
/-- A form with one source and an immediate (R109). -/
def Core.aluRI (c : Core) (d a : SReg) (i : Word) (f : Word → Word → Word) : Core := c.flyS 1 0 d (f (c.s a) i)
/-- A compare: a whole predicate of ones or zeros (R28, R111). -/
def Core.cmpRR (c : Core) (d : PReg) (a b : SReg) (f : Word → Word → Bool) : Core := c.flyP d (Word.ofBool (f (c.s a) (c.s b)))
/-- A predicate form (R112). -/
def Core.predRR (c : Core) (d a b : PReg) (f : Word → Word → Word) : Core := c.flyP d (f (c.pr a) (c.pr b))

/-- A scratchpad load of n bytes, checked in the order of R114, sampled at issue and landing after 4 cycles (R113). -/
def Core.loadS (c : Core) (d a : SReg) (i : Imm8) (n : Nat) (ext : Nat → Word) : Core :=
  let e := c.ea a i
  c.checked 0 [(!c.inBounds e n, .bounds), (e % n != 0, .align), (c.poisonAt e, .poisonUse)]
    fun c => c.flyS 4 0 d (ext (c.load e n))
/-- A scratchpad store of n bytes, landing at the end of its issue cycle (R113, R114). -/
def Core.storeS (c : Core) (d a : SReg) (i : Imm8) (n : Nat) : Core :=
  let e := c.ea a i
  c.checked 0 [(!c.inBounds e n, .bounds), (e % n != 0, .align)]
    fun c => c.fly 1 0 (.store (c.ctx.phys e) (BitVec.ofNat 256 (2 ^ n - 1)) ((c.s d).setWidth 2048) .dirty)

/-- ADD (R107). -/
def execAdd (g : PReg) (d a b : SReg) (s : State) : Out := s.syl g (·.aluRR 1 d a b (· + ·))
/-- SUB (R107). -/
def execSub (g : PReg) (d a b : SReg) (s : State) : Out := s.syl g (·.aluRR 1 d a b (· - ·))
/-- MUL (R107). -/
def execMul (g : PReg) (d a b : SReg) (s : State) : Out := s.syl g (·.aluRR 3 d a b (· * ·))
/-- MULH (R107). -/
def execMulh (g : PReg) (d a b : SReg) (s : State) : Out := s.syl g (·.aluRR 3 d a b mulHi)
/-- MULHU (R107). -/
def execMulhu (g : PReg) (d a b : SReg) (s : State) : Out := s.syl g (·.aluRR 3 d a b mulHiU)
/-- DIV (R108). -/
def execDiv (g : PReg) (d a b : SReg) (s : State) : Out := s.syl g (·.aluRR 20 d a b divS)
/-- DIVU (R108). -/
def execDivu (g : PReg) (d a b : SReg) (s : State) : Out := s.syl g (·.aluRR 20 d a b divU)
/-- REM (R108). -/
def execRem (g : PReg) (d a b : SReg) (s : State) : Out := s.syl g (·.aluRR 20 d a b remS)
/-- REMU (R108). -/
def execRemu (g : PReg) (d a b : SReg) (s : State) : Out := s.syl g (·.aluRR 20 d a b remU)
/-- AND (R107). -/
def execAnd (g : PReg) (d a b : SReg) (s : State) : Out := s.syl g (·.aluRR 1 d a b (· &&& ·))
/-- OR (R107). -/
def execOr (g : PReg) (d a b : SReg) (s : State) : Out := s.syl g (·.aluRR 1 d a b (· ||| ·))
/-- XOR (R107). -/
def execXor (g : PReg) (d a b : SReg) (s : State) : Out := s.syl g (·.aluRR 1 d a b (· ^^^ ·))
/-- ANDN (R107). -/
def execAndn (g : PReg) (d a b : SReg) (s : State) : Out := s.syl g (·.aluRR 1 d a b fun x y => x &&& ~~~y)
/-- SHL: b[5:0] (R107). -/
def execShl (g : PReg) (d a b : SReg) (s : State) : Out := s.syl g (·.aluRR 1 d a b fun x y => x <<< (y.toNat % 64))
/-- SHR (R107). -/
def execShr (g : PReg) (d a b : SReg) (s : State) : Out := s.syl g (·.aluRR 1 d a b fun x y => x >>> (y.toNat % 64))
/-- SRA (R107). -/
def execSra (g : PReg) (d a b : SReg) (s : State) : Out := s.syl g (·.aluRR 1 d a b fun x y => x.sshiftRight (y.toNat % 64))
/-- MIN, signed (R107). -/
def execMin (g : PReg) (d a b : SReg) (s : State) : Out := s.syl g (·.aluRR 1 d a b fun x y => if slt y x then y else x)
/-- MAX, signed (R107). -/
def execMax (g : PReg) (d a b : SReg) (s : State) : Out := s.syl g (·.aluRR 1 d a b fun x y => if slt x y then y else x)
/-- MINU (R107). -/
def execMinu (g : PReg) (d a b : SReg) (s : State) : Out := s.syl g (·.aluRR 1 d a b fun x y => if y < x then y else x)
/-- MAXU (R107). -/
def execMaxu (g : PReg) (d a b : SReg) (s : State) : Out := s.syl g (·.aluRR 1 d a b fun x y => if x < y then y else x)
/-- SEL: the old s_d, read at issue, decides (R107). -/
def execSel (g : PReg) (d a b : SReg) (s : State) : Out :=
  s.syl g fun c => c.aluRR 1 d a b fun x y => if c.s d != 0 then x else y
/-- CLZ (R107). -/
def execClz (g : PReg) (d a : SReg) (s : State) : Out := s.syl g (·.aluRR 1 d a 0 fun x _ => clz64 x)
/-- POPC (R107). -/
def execPopc (g : PReg) (d a : SReg) (s : State) : Out := s.syl g (·.aluRR 1 d a 0 fun x _ => BitVec.ofNat 64 (popcount x))
/-- LEA (R107). -/
def execLea (g : PReg) (d a b : SReg) (x : Fin 4) (s : State) : Out :=
  s.syl g (·.aluRR 1 d a b fun p q => p + (q <<< leaShift x))

/-- ADDI (R109). -/
def execAddi (g : PReg) (d a : SReg) (imm : Imm8) (s : State) : Out := s.syl g (·.aluRI d a (imm8Sext imm) (· + ·))
/-- ANDI (R109). -/
def execAndi (g : PReg) (d a : SReg) (imm : Imm8) (s : State) : Out := s.syl g (·.aluRI d a (imm8Sext imm) (· &&& ·))
/-- ORI (R109). -/
def execOri (g : PReg) (d a : SReg) (imm : Imm8) (s : State) : Out := s.syl g (·.aluRI d a (imm8Sext imm) (· ||| ·))
/-- XORI (R109). -/
def execXori (g : PReg) (d a : SReg) (imm : Imm8) (s : State) : Out := s.syl g (·.aluRI d a (imm8Sext imm) (· ^^^ ·))
/-- SHLI (R109). -/
def execShli (g : PReg) (d a : SReg) (imm : Fin 64) (s : State) : Out := s.syl g (·.aluRI d a 0 fun x _ => x <<< imm.val)
/-- SHRI (R109). -/
def execShri (g : PReg) (d a : SReg) (imm : Fin 64) (s : State) : Out := s.syl g (·.aluRI d a 0 fun x _ => x >>> imm.val)
/-- SRAI (R109). -/
def execSrai (g : PReg) (d a : SReg) (imm : Fin 64) (s : State) : Out := s.syl g (·.aluRI d a 0 fun x _ => x.sshiftRight imm.val)
/-- LI (R110). -/
def execLi (g : PReg) (d : SReg) (imm : Imm14) (s : State) : Out := s.syl g (·.aluRI d 0 (imm14Sext imm) fun _ i => i)
/-- LIH reads s_d at issue (R110). -/
def execLih (g : PReg) (d : SReg) (imm : Imm14) (s : State) : Out :=
  s.syl g (·.aluRI d d (imm14Zext imm) fun x i => (i <<< 32) ||| (x &&& 0xFFFFFFFF))

/-- CMPEQ (R111). -/
def execCmpeq (g d : PReg) (a b : SReg) (s : State) : Out := s.syl g (·.cmpRR d a b (· == ·))
/-- CMPNE (R111). -/
def execCmpne (g d : PReg) (a b : SReg) (s : State) : Out := s.syl g (·.cmpRR d a b (· != ·))
/-- CMPLT, signed (R111). -/
def execCmplt (g d : PReg) (a b : SReg) (s : State) : Out := s.syl g (·.cmpRR d a b slt)
/-- CMPLTU (R111). -/
def execCmpltu (g d : PReg) (a b : SReg) (s : State) : Out := s.syl g (·.cmpRR d a b fun x y => x < y)
/-- CMPLE, signed (R111). -/
def execCmple (g d : PReg) (a b : SReg) (s : State) : Out := s.syl g (·.cmpRR d a b fun x y => !slt y x)
/-- CMPLEU (R111). -/
def execCmpleu (g d : PReg) (a b : SReg) (s : State) : Out := s.syl g (·.cmpRR d a b fun x y => x ≤ y)
/-- CMPEQI (R111). -/
def execCmpeqi (g d : PReg) (a : SReg) (imm : Imm8) (s : State) : Out :=
  s.syl g (·.cmpRR d a 0 fun x _ => x == imm8Sext imm)
/-- CMPLTI, signed (R111). -/
def execCmplti (g d : PReg) (a : SReg) (imm : Imm8) (s : State) : Out :=
  s.syl g (·.cmpRR d a 0 fun x _ => slt x (imm8Sext imm))
/-- PBIT (R111). -/
def execPbit (g d : PReg) (a : SReg) (n : Fin 64) (s : State) : Out :=
  s.syl g (·.cmpRR d a 0 fun x _ => x.getLsbD n.val)
/-- PAND (R112). -/
def execPand (g d a b : PReg) (s : State) : Out := s.syl g (·.predRR d a b (· &&& ·))
/-- POR (R112). -/
def execPor (g d a b : PReg) (s : State) : Out := s.syl g (·.predRR d a b (· ||| ·))
/-- PXOR (R112). -/
def execPxor (g d a b : PReg) (s : State) : Out := s.syl g (·.predRR d a b (· ^^^ ·))
/-- PANDN (R112). -/
def execPandn (g d a b : PReg) (s : State) : Out := s.syl g (·.predRR d a b fun x y => x &&& ~~~y)
/-- PNOT (R112). -/
def execPnot (g d a : PReg) (s : State) : Out := s.syl g (·.predRR d a 0 fun x _ => ~~~x)

/-- LDB (R113). -/
def execLdb (g : PReg) (d a : SReg) (imm : Imm8) (s : State) : Out :=
  s.syl g (·.loadS d a imm 1 fun n => (BitVec.ofNat 8 n).signExtend 64)
/-- LDBZ (R113). -/
def execLdbz (g : PReg) (d a : SReg) (imm : Imm8) (s : State) : Out := s.syl g (·.loadS d a imm 1 (BitVec.ofNat 64))
/-- LDW (R113). -/
def execLdw (g : PReg) (d a : SReg) (imm : Imm8) (s : State) : Out :=
  s.syl g (·.loadS d a imm 4 fun n => (BitVec.ofNat 32 n).signExtend 64)
/-- LDWZ (R113). -/
def execLdwz (g : PReg) (d a : SReg) (imm : Imm8) (s : State) : Out := s.syl g (·.loadS d a imm 4 (BitVec.ofNat 64))
/-- LDD (R113). -/
def execLdd (g : PReg) (d a : SReg) (imm : Imm8) (s : State) : Out := s.syl g (·.loadS d a imm 8 (BitVec.ofNat 64))
/-- STB (R113). -/
def execStb (g : PReg) (d a : SReg) (imm : Imm8) (s : State) : Out := s.syl g (·.storeS d a imm 1)
/-- STW (R113). -/
def execStw (g : PReg) (d a : SReg) (imm : Imm8) (s : State) : Out := s.syl g (·.storeS d a imm 4)
/-- STD (R113). -/
def execStd (g : PReg) (d a : SReg) (imm : Imm8) (s : State) : Out := s.syl g (·.storeS d a imm 8)

/-- NOP: the all-zero syllable has no effect (R16). -/
def execNop (s : State) : Out := .next s

end Sys2Proof.Machine
end

