-- ==== Sys2Proof/Machine/SyncIssue.lean ====
section
/-! DEFINITION. Releases, acquires, Weir commands and publication at issue (R243 to R248). -/

namespace Sys2Proof.Machine

/-- An effect command that claims a tag: the tag check joins the other checks (R222, R223). -/
def State.tagEffect (s : State) (g : PReg) (t : TagId) (k : EffKind) (a : SReg) (b : SPair)
    (faults : Core → List (Bool × Cause)) (acq : Bool) (image : Core → Line) : Out :=
  s.act fun c =>
    c.effect g (faults c) fun c =>
      let e : EffCmd := ⟨k.syll t a b g, k, some t, c.s a, c.pairLo b, c.pairHi b, image c⟩
      let c1 := (c.claim t).command e
      if acq then c1.onRun fun r => { r with acqs := r.acqs ++ [t.val] } else c1

/-- The checks of a command with a result word (R243, R244): ill is its own ILLEGAL condition. -/
def Core.resultChecks (c : Core) (t : TagId) (b : SPair) (ill : Bool) : List (Bool × Cause) :=
  [(ill, .illegal), (c.resultBounds (c.pairLo b) || c.tagBusy t, .bounds), (resultAlign (c.pairLo b), .align)]

/-- REL (R243). -/
def execRel (g : PReg) (t : TagId) (b : SPair) (s : State) : Out :=
  s.tagEffect g t .rel 0 b (fun c => c.resultChecks t b false) false fun _ => 0
/-- ACQ (R243). -/
def execAcq (g : PReg) (t : TagId) (a : SReg) (b : SPair) (s : State) : Out :=
  s.tagEffect g t .acq a b (fun c => c.resultChecks t b false) true fun _ => 0
/-- An ACQS operand outside its field (R243). -/
def acqsBad (a : Word) : Bool := a.extractLsb' 0 3 != 0 || a.extractLsb' 9 55 != 0 || (a.extractLsb' 3 4).toNat > 11
/-- ACQS (R243). -/
def execAcqs (g : PReg) (t : TagId) (a : SReg) (b : SPair) (s : State) : Out :=
  s.tagEffect g t .acqs a b (fun c => c.resultChecks t b (acqsBad (c.s a))) true fun _ => 0
/-- PHASE (R243). -/
def execPhase (g : PReg) (t : TagId) (b : SPair) (s : State) : Out :=
  s.tagEffect g t .phase 0 b (fun c => c.resultChecks t b false) true fun _ => 0

/-- A SYN form: bad is the operand's own ILLEGAL condition (R244, R246, R247). -/
def State.syn (s : State) (g : PReg) (t : TagId) (a : SReg) (b : SPair) (k : EffKind) (bad : Word → Bool) : Out :=
  s.tagEffect g t k a b
    (fun c => c.resultChecks t b ((c.s a).extractLsb' 32 32 != 0 || bad (c.pairHi b))) false
    fun c => if k = .synCas then BitVec.ofNat 2048 (c.load (c.pairLo b).toNat 8) else 0
/-- An operand that must run from 1 to 2^32 - 1 (R246, R247). -/
def countBad (k : Word) : Bool := k == 0 || k.extractLsb' 32 32 != 0

/-- SYN.ADD (R245). -/
def execSynAdd (g : PReg) (t : TagId) (a : SReg) (b : SPair) (s : State) : Out := s.syn g t a b .synAdd fun _ => false
/-- SYN.CAS: the expected value is sampled from the result word at issue (R245). -/
def execSynCas (g : PReg) (t : TagId) (a : SReg) (b : SPair) (s : State) : Out := s.syn g t a b .synCas fun _ => false
/-- SYN.MIN (R245). -/
def execSynMin (g : PReg) (t : TagId) (a : SReg) (b : SPair) (s : State) : Out := s.syn g t a b .synMin fun _ => false
/-- SYN.MAX (R245). -/
def execSynMax (g : PReg) (t : TagId) (a : SReg) (b : SPair) (s : State) : Out := s.syn g t a b .synMax fun _ => false
/-- SYN.XCH (R245). -/
def execSynXch (g : PReg) (t : TagId) (a : SReg) (b : SPair) (s : State) : Out := s.syn g t a b .synXch fun _ => false
/-- SYN.LD (R245). -/
def execSynLd (g : PReg) (t : TagId) (a : SReg) (b : SPair) (s : State) : Out := s.syn g t a b .synLd fun _ => false
/-- SYN.POST (R246). -/
def execSynPost (g : PReg) (t : TagId) (a : SReg) (b : SPair) (s : State) : Out := s.syn g t a b .synPost countBad
/-- SYN.WAIT (R246). -/
def execSynWait (g : PReg) (t : TagId) (a : SReg) (b : SPair) (s : State) : Out := s.syn g t a b .synWait countBad
/-- SYN.BAR (R247). -/
def execSynBar (g : PReg) (t : TagId) (a : SReg) (b : SPair) (s : State) : Out := s.syn g t a b .synBar countBad

/-- PUBLISH: its failures are statuses (R248). -/
def execPublish (g : PReg) (t : TagId) (b : SPair) (s : State) : Out :=
  s.tagEffect g t .publish 0 b (fun c => [(c.tagBusy t, .bounds)]) false fun _ => 0

end Sys2Proof.Machine
end

