-- ==== Sys2Proof/Machine/Tags.lean ====
section
/-! DEFINITION. Waits on tags, TCLR, TSTAT and QFENCE (R234 to R236). -/

namespace Sys2Proof.Machine

/-- A mask that names an idle tag (R234). -/
def Core.namesIdle (c : Core) (m : Word) : Bool := (List.finRange 64).any fun t => m.getLsbD t.val && c.ctx.tags[t].st == .idle
/-- A mask that names a pending tag (R235). -/
def Core.namesPending (c : Core) (m : Word) : Bool :=
  (List.finRange 64).any fun t => m.getLsbD t.val && c.ctx.tags[t].st == .pending

/-- A wait on tags: BOUNDS for a mask no completion can satisfy, else a freeze under cause 2 until the condition holds. -/
def Core.tagWait (c : Core) (bad ok : Bool) (f : Core → Core) : Core :=
  c.checked 3 [(bad, .bounds)] fun c => if ok then f c else c.freeze 2

/-- The index of the lowest set bit. -/
def lowestBit (m : Word) : Nat := ((List.range 64).find? fun i => m.getLsbD i).getD 0

/-- TWANY (R234). -/
def execTwany (g : PReg) (d a : SReg) (s : State) : Out :=
  s.syl g fun c =>
    let m := c.ctx.ctb &&& c.s a
    c.tagWait (c.s a == 0 || c.namesIdle (c.s a)) (m != 0) (·.flyC d m)
/-- TWALL (R234). -/
def execTwall (g : PReg) (a : SReg) (s : State) : Out :=
  s.syl g fun c => c.tagWait (c.namesIdle (c.s a)) (c.ctx.ctb &&& c.s a == c.s a) id
/-- TFIRST (R234). -/
def execTfirst (g : PReg) (d a : SReg) (s : State) : Out :=
  s.syl g fun c =>
    let m := c.ctx.ctb &&& c.s a
    c.tagWait (c.s a == 0 || c.namesIdle (c.s a)) (m != 0) (·.flyC d (BitVec.ofNat 64 (lowestBit m)))

/-- One tag made idle by a TCLR; its region remembers it unless a command of the region had claimed it (R235, R321). -/
def Core.clearTag (c : Core) (t : TagId) : Core :=
  let old := c.ctx.tags[t]
  (c.onRegion fun r =>
    if r.claims.any (·.1 == t) || r.tclrs.any (·.1 == t) then r else { r with tclrs := (t, old) :: r.tclrs }).onCtx
    (·.setTag t ⟨.idle, 0⟩)
/-- TCLR (R235). -/
def execTclr (g : PReg) (a : SReg) (s : State) : Out :=
  s.csyl g (fun c => [(c.namesPending (c.s a), .bounds)]) fun c =>
    let m := c.s a
    (List.finRange 64).foldl (fun c t => if m.getLsbD t.val && c.ctx.tags[t].st == .complete then c.clearTag t else c) c
/-- TSTAT never waits (R235). -/
def execTstat (g : PReg) (d a : SReg) (n : Fin 64) (s : State) : Out :=
  s.syl g fun c => c.flyC d c.ctx.tags[(Fin.ofNat 64 ((c.s a).toNat + n.val) : Fin 64)].status
/-- QFENCE: copies issued later in a named queue wait for those issued before in the named queues (R214, R236). -/
def execQfence (g : PReg) (m : BitVec 4) (s : State) : Out :=
  s.syl g fun c =>
    let ids := (c.run.copies.filter fun k => (k.queue.map fun q => m.getLsbD q.val).getD false).map (·.id)
    if m = 0 || ids.isEmpty then c else c.onRun fun r => { r with fences := r.fences ++ [(m, ids)] }

end Sys2Proof.Machine
end

