-- ==== Sys2Proof/Machine/VectorRev.lean ====
section
/-! DEFINITION. The reversible V forms (R135 to R139). -/

namespace Sys2Proof.Machine

/-- Executed lanes of two RNS operands hold canonical containers; POISON data is not tested (R32, R74). -/
def rnsLanesOk (gm : Word) (x : VecR) : Bool :=
  x.tag == .poison || (execLanes gm).all fun i => rnsCanon (lane x.bits i)

/-- VXOR (R136). -/
def execVxor (g : PReg) (d a : VReg) (r : Ramp) (s : State) : Out :=
  s.act fun c =>
    let x := c.vr d
    let y := c.vr a
    c.inPlace r g d (if x.tag == .clean then y.tag else x.tag) (x.tag == .poison || y.tag == .poison)
      [(!tagsEqual x.tag y.tag, .format)] (x.bits ^^^ y.bits)

/-- The I32 in-place forms of two registers (R136). -/
def Core.revI32 (c : Core) (r : Ramp) (g : PReg) (d a : VReg) (f : Half → Half → Half) : Core :=
  let x := c.vr d
  let y := c.vr a
  c.inPlace r g d .i32 (x.tag == .poison || y.tag == .poison) [(!tagOk x.tag .i32 || !tagOk y.tag .i32, .format)]
    (ofLanes fun i => f (lane x.bits i) (lane y.bits i))

/-- VADDR.I32 (R136). -/
def execVaddrI32 (g : PReg) (d a : VReg) (r : Ramp) (s : State) : Out := s.act (·.revI32 r g d a (· + ·))
/-- VSUBR.I32 (R136). -/
def execVsubrI32 (g : PReg) (d a : VReg) (r : Ramp) (s : State) : Out := s.act (·.revI32 r g d a (· - ·))
/-- VNEGR.I32 (R136). -/
def execVnegrI32 (g : PReg) (d : VReg) (r : Ramp) (s : State) : Out := s.act (·.revI32 r g d d fun x _ => -x)

/-- VROTL (R136). -/
def execVrotl (g : PReg) (d a : VReg) (r : Ramp) (s : State) : Out :=
  s.act fun c =>
    let x := c.vr d
    let y := c.vr a
    c.inPlace r g d x.tag (x.tag == .poison || y.tag == .poison) [(!tagOk y.tag .i32 && y.tag != .raw, .format)]
      (ofLanes fun i => (lane x.bits i).rotateLeft ((lane y.bits i).toNat % 32))

/-- Two registers exchanged in the lanes of ex, of a guard gm: both results with their tags; the energy is carried by the first. Where no
lane is exchanged neither register is changed, but that a POISON operand makes both POISON (R135, R137). -/
def Core.exchange (c : Core) (r : Ramp) (gm ex : Word) (d a : VReg) (td ta : Tag) (pois : Bool) : Core :=
  let m := laneMask ex
  let x := (c.vr d).bits
  let y := (c.vr a).bits
  let x' := (x &&& ~~~m) ||| (y &&& m)
  let y' := (y &&& ~~~m) ||| (x &&& m)
  let tag (t : Tag) : Option Tag := if pois then some .poison else if ex = 0 then none else some t
  let zero := gm == allLanes && ex != 0
  (c.meter (revFj r gm)).fly (2 * rampL r) 1 (.pair (c.revWrite ex d x' (tag td) false (revFj r gm) zero)
    (c.revWrite ex a y' (tag ta) false 0 zero))

/-- VSWAP (R136, R137). -/
def execVswap (g : PReg) (d a : VReg) (r : Ramp) (s : State) : Out :=
  s.act fun c =>
    let gm := c.pr g
    let x := c.vr d
    let y := c.vr a
    let pois := x.tag == .poison || y.tag == .poison
    if gm = 0 then c
    else c.checked 1 [(!pois && x.tag != y.tag && gm != allLanes, .format)] fun c => c.exchange r gm gm d a y.tag x.tag pois

/-- The lanes of a vector that are not zero. -/
def nonZeroLanes (x : Line) : Word :=
  BitVec.ofNat 64 ((List.range 64).foldr (fun i acc => (if lane x i != 0 then 1 else 0) + 2 * acc) 0)

/-- VCSWAP: lanes where vb is not zero (R136, R137). -/
def execVcswap (g : PReg) (d a b : VReg) (r : Ramp) (s : State) : Out :=
  s.act fun c =>
    let gm := c.pr g
    let x := c.vr d
    let y := c.vr a
    let z := c.vr b
    let pois := x.tag == .poison || y.tag == .poison || z.tag == .poison
    let ex := gm &&& nonZeroLanes z.bits
    let bad := !pois && x.tag != y.tag && (gm != allLanes || (x.tag != .clean && y.tag != .clean))
    let td := if x.tag == .clean && ex != 0 then y.tag else x.tag
    let ta := if y.tag == .clean && ex != 0 then x.tag else y.tag
    if gm = 0 then c else c.checked 1 [(bad, .format)] fun c => c.exchange r gm ex d a td ta pois

/-- The values of va name every lane once, with bits [31:6] zero (R138). -/
def isPermutation (x : Line) : Bool :=
  (List.range 64).all fun i => (lane x i).toNat < 64 && (List.range 64).any fun j => (lane x j).toNat == i

/-- VPERMR (R138). -/
def execVpermr (g : PReg) (d a : VReg) (r : Ramp) (s : State) : Out :=
  s.act fun c =>
    let x := c.vr d
    let y := c.vr a
    c.inPlace r g d x.tag (x.tag == .poison || y.tag == .poison)
      [(c.pr g != allLanes || !isPermutation y.bits, .illegal), (!tagOk y.tag .i32 && y.tag != .raw, .format)]
      (ofLanes fun i => lane x.bits ((lane y.bits i).toNat % 64))

/-- The residue-wise in-place forms of two registers (R74, R136). -/
def Core.revRns (c : Core) (r : Ramp) (g : PReg) (d a : VReg) (f : Half → Half → Half) : Core :=
  let x := c.vr d
  let y := c.vr a
  let gm := c.pr g
  c.inPlace r g d .rns (x.tag == .poison || y.tag == .poison)
    [(!tagOk x.tag .rns || !tagOk y.tag .rns || !rnsLanesOk gm x || !rnsLanesOk gm y, .format)]
    (ofLanes fun i => f (lane x.bits i) (lane y.bits i))

/-- VRNS.ADD (R136). -/
def execVrnsAdd (g : PReg) (d a : VReg) (r : Ramp) (s : State) : Out := s.act (·.revRns r g d a rnsAdd)
/-- VRNS.SUB (R136). -/
def execVrnsSub (g : PReg) (d a : VReg) (r : Ramp) (s : State) : Out := s.act (·.revRns r g d a rnsSub)
/-- VRNS.NEG (R136). -/
def execVrnsNeg (g : PReg) (d : VReg) (r : Ramp) (s : State) : Out := s.act (·.revRns r g d d fun x _ => rnsNeg x)

/-- The constant of VRNS.MULC is canonical and invertible (R138). -/
def mulcOk (b : Word) : Bool :=
  let c : Half := b.setWidth 32
  b.extractLsb' 32 32 == 0 && rnsCanon c && rns255 c % 3 != 0 && rns255 c % 5 != 0 && rns255 c % 17 != 0 &&
    rns256 c % 2 == 1 && rns257 c != 0

/-- VRNS.MULC (R138): its constant is checked whatever the guard. -/
def execVrnsMulc (g : PReg) (d : VReg) (b : SReg) (r : Ramp) (s : State) : Out :=
  s.act fun c =>
    let x := c.vr d
    c.checked 1 [(!mulcOk (c.s b), .illegal)] fun c =>
      c.inPlace r g d .rns (x.tag == .poison) [(!tagOk x.tag .rns || !rnsLanesOk (c.pr g) x, .format)]
        (ofLanes fun i => rnsMul (lane x.bits i) ((c.s b).setWidth 32))

/-- A copying form into a CLEAN destination (R35, R139), which is checked whatever the guard; a guard that enables no lane lifts FORMAT
(R33). -/
def Core.copyClean (c : Core) (r : Ramp) (g : PReg) (d : VReg) (t : Tag) (pois bad : Bool) (bits : Line) : Core :=
  let gm := c.pr g
  c.checked 1 [(gm != 0 && bad, .format), ((c.vr d).tag != .clean, .cleanRequired)] fun c =>
    if gm = 0 then c
    else (c.meter (revFj r gm)).flyRev r gm d bits (some (if pois then .poison else t)) true (revFj r gm) false

/-- VCOPY (R139). -/
def execVcopy (g : PReg) (d a : VReg) (r : Ramp) (s : State) : Out :=
  s.act fun c => c.copyClean r g d (passedTag [(c.vr a).tag]) ((c.vr a).tag == .poison) false (c.vr a).bits

/-- VCVT.RNS.I32 (R139). -/
def execVcvtRnsI32 (g : PReg) (d a : VReg) (r : Ramp) (s : State) : Out :=
  s.act fun c => c.copyClean r g d .rns ((c.vr a).tag == .poison) (!tagOk (c.vr a).tag .i32)
    (ofLanes fun i => toRns (lane (c.vr a).bits i).toInt)

end Sys2Proof.Machine
end

