-- ==== Sys2Proof/Machine/Dispatch.lean ====
section
/-! DEFINITION. One arm for each row of the opcode table. -/

namespace Sys2Proof.Machine

/-- The meaning of an instruction or of a step of the device. -/
def exec (i : Instr) (s : State) : Host.Outcome State Fault Refusal :=
  match i with
  | .add g d a b => Sys2Proof.Machine.execAdd g d a b s
  | .sub g d a b => Sys2Proof.Machine.execSub g d a b s
  | .mul g d a b => Sys2Proof.Machine.execMul g d a b s
  | .mulh g d a b => Sys2Proof.Machine.execMulh g d a b s
  | .mulhu g d a b => Sys2Proof.Machine.execMulhu g d a b s
  | .div g d a b => Sys2Proof.Machine.execDiv g d a b s
  | .divu g d a b => Sys2Proof.Machine.execDivu g d a b s
  | .rem g d a b => Sys2Proof.Machine.execRem g d a b s
  | .remu g d a b => Sys2Proof.Machine.execRemu g d a b s
  | .and g d a b => Sys2Proof.Machine.execAnd g d a b s
  | .or g d a b => Sys2Proof.Machine.execOr g d a b s
  | .xor g d a b => Sys2Proof.Machine.execXor g d a b s
  | .andn g d a b => Sys2Proof.Machine.execAndn g d a b s
  | .shl g d a b => Sys2Proof.Machine.execShl g d a b s
  | .shr g d a b => Sys2Proof.Machine.execShr g d a b s
  | .sra g d a b => Sys2Proof.Machine.execSra g d a b s
  | .min g d a b => Sys2Proof.Machine.execMin g d a b s
  | .max g d a b => Sys2Proof.Machine.execMax g d a b s
  | .minu g d a b => Sys2Proof.Machine.execMinu g d a b s
  | .maxu g d a b => Sys2Proof.Machine.execMaxu g d a b s
  | .sel g d a b => Sys2Proof.Machine.execSel g d a b s
  | .clz g d a => Sys2Proof.Machine.execClz g d a s
  | .popc g d a => Sys2Proof.Machine.execPopc g d a s
  | .lea g d a b x => Sys2Proof.Machine.execLea g d a b x s
  | .addi g d a imm => Sys2Proof.Machine.execAddi g d a imm s
  | .andi g d a imm => Sys2Proof.Machine.execAndi g d a imm s
  | .ori g d a imm => Sys2Proof.Machine.execOri g d a imm s
  | .xori g d a imm => Sys2Proof.Machine.execXori g d a imm s
  | .shli g d a imm => Sys2Proof.Machine.execShli g d a imm s
  | .shri g d a imm => Sys2Proof.Machine.execShri g d a imm s
  | .srai g d a imm => Sys2Proof.Machine.execSrai g d a imm s
  | .li g d imm => Sys2Proof.Machine.execLi g d imm s
  | .lih g d imm => Sys2Proof.Machine.execLih g d imm s
  | .cmpeq g d a b => Sys2Proof.Machine.execCmpeq g d a b s
  | .cmpne g d a b => Sys2Proof.Machine.execCmpne g d a b s
  | .cmplt g d a b => Sys2Proof.Machine.execCmplt g d a b s
  | .cmpltu g d a b => Sys2Proof.Machine.execCmpltu g d a b s
  | .cmple g d a b => Sys2Proof.Machine.execCmple g d a b s
  | .cmpleu g d a b => Sys2Proof.Machine.execCmpleu g d a b s
  | .cmpeqi g d a imm => Sys2Proof.Machine.execCmpeqi g d a imm s
  | .cmplti g d a imm => Sys2Proof.Machine.execCmplti g d a imm s
  | .pand g d a b => Sys2Proof.Machine.execPand g d a b s
  | .por g d a b => Sys2Proof.Machine.execPor g d a b s
  | .pxor g d a b => Sys2Proof.Machine.execPxor g d a b s
  | .pandn g d a b => Sys2Proof.Machine.execPandn g d a b s
  | .pnot g d a => Sys2Proof.Machine.execPnot g d a s
  | .pbit g d a n => Sys2Proof.Machine.execPbit g d a n s
  | .ldb g d a imm => Sys2Proof.Machine.execLdb g d a imm s
  | .ldbz g d a imm => Sys2Proof.Machine.execLdbz g d a imm s
  | .ldw g d a imm => Sys2Proof.Machine.execLdw g d a imm s
  | .ldwz g d a imm => Sys2Proof.Machine.execLdwz g d a imm s
  | .ldd g d a imm => Sys2Proof.Machine.execLdd g d a imm s
  | .stb g d a imm => Sys2Proof.Machine.execStb g d a imm s
  | .stw g d a imm => Sys2Proof.Machine.execStw g d a imm s
  | .std g d a imm => Sys2Proof.Machine.execStd g d a imm s
  | .br g disp => Sys2Proof.Machine.execBr g disp s
  | .brl g disp => Sys2Proof.Machine.execBrl g disp s
  | .jmp g a => Sys2Proof.Machine.execJmp g a s
  | .jmpl g a => Sys2Proof.Machine.execJmpl g a s
  | .loop g d a imm => Sys2Proof.Machine.execLoop g d a imm s
  | .cloop g disp => Sys2Proof.Machine.execCloop g disp s
  | .region g => Sys2Proof.Machine.execRegion g s
  | .regionc g imm lit => Sys2Proof.Machine.execRegionc g imm lit s
  | .endTask g imm => Sys2Proof.Machine.execEndTask g imm s
  | .yield g => Sys2Proof.Machine.execYield g s
  | .trap g imm => Sys2Proof.Machine.execTrap g imm s
  | .calsync g => Sys2Proof.Machine.execCalsync g s
  | .rdsr g d imm => Sys2Proof.Machine.execRdsr g d imm s
  | .wrsr g a imm => Sys2Proof.Machine.execWrsr g a imm s
  | .sret g => Sys2Proof.Machine.execSret g s
  | .tlbi g d a b x => Sys2Proof.Machine.execTlbi g d a b x s
  | .vldRaw g d a imm => Sys2Proof.Machine.execVldRaw g d a imm s
  | .vldI32 g d a imm => Sys2Proof.Machine.execVldI32 g d a imm s
  | .vldF32 g d a imm => Sys2Proof.Machine.execVldF32 g d a imm s
  | .vldBf16 g d a imm => Sys2Proof.Machine.execVldBf16 g d a imm s
  | .vldFp8e4 g d a imm => Sys2Proof.Machine.execVldFp8e4 g d a imm s
  | .vldFp8e5 g d a imm => Sys2Proof.Machine.execVldFp8e5 g d a imm s
  | .vldFp4 g d a imm => Sys2Proof.Machine.execVldFp4 g d a imm s
  | .vldInt8 g d a imm => Sys2Proof.Machine.execVldInt8 g d a imm s
  | .vldRns g d a imm => Sys2Proof.Machine.execVldRns g d a imm s
  | .vst g d a imm => Sys2Proof.Machine.execVst g d a imm s
  | .vlds g d a b x => Sys2Proof.Machine.execVlds g d a b x s
  | .vbcst g d a t => Sys2Proof.Machine.execVbcst g d a t s
  | .vspill g d a b => Sys2Proof.Machine.execVspill g d a b s
  | .vfill g d a b => Sys2Proof.Machine.execVfill g d a b s
  | .vmovs g d a t n => Sys2Proof.Machine.execVmovs g d a t n s
  | .vmovv g d a b => Sys2Proof.Machine.execVmovv g d a b s
  | .vxor g d a r => Sys2Proof.Machine.execVxor g d a r s
  | .vcopy g d a r => Sys2Proof.Machine.execVcopy g d a r s
  | .vaddrI32 g d a r => Sys2Proof.Machine.execVaddrI32 g d a r s
  | .vsubrI32 g d a r => Sys2Proof.Machine.execVsubrI32 g d a r s
  | .vnegrI32 g d r => Sys2Proof.Machine.execVnegrI32 g d r s
  | .vrotl g d a r => Sys2Proof.Machine.execVrotl g d a r s
  | .vswap g d a r => Sys2Proof.Machine.execVswap g d a r s
  | .vcswap g d a b r => Sys2Proof.Machine.execVcswap g d a b r s
  | .vpermr g d a r => Sys2Proof.Machine.execVpermr g d a r s
  | .vrnsAdd g d a r => Sys2Proof.Machine.execVrnsAdd g d a r s
  | .vrnsSub g d a r => Sys2Proof.Machine.execVrnsSub g d a r s
  | .vrnsNeg g d r => Sys2Proof.Machine.execVrnsNeg g d r s
  | .vrnsMulc g d b r => Sys2Proof.Machine.execVrnsMulc g d b r s
  | .vaddF32 g d a b => Sys2Proof.Machine.execVaddF32 g d a b s
  | .vsubF32 g d a b => Sys2Proof.Machine.execVsubF32 g d a b s
  | .vmulF32 g d a b => Sys2Proof.Machine.execVmulF32 g d a b s
  | .vfmaF32 g d a b => Sys2Proof.Machine.execVfmaF32 g d a b s
  | .vfmsF32 g d a b => Sys2Proof.Machine.execVfmsF32 g d a b s
  | .vminF32 g d a b => Sys2Proof.Machine.execVminF32 g d a b s
  | .vmaxF32 g d a b => Sys2Proof.Machine.execVmaxF32 g d a b s
  | .vabsF32 g d a => Sys2Proof.Machine.execVabsF32 g d a s
  | .vnegF32 g d a => Sys2Proof.Machine.execVnegF32 g d a s
  | .vaddBf16 g d a b => Sys2Proof.Machine.execVaddBf16 g d a b s
  | .vmulBf16 g d a b => Sys2Proof.Machine.execVmulBf16 g d a b s
  | .vfmaBf16 g d a b => Sys2Proof.Machine.execVfmaBf16 g d a b s
  | .vaddI32 g d a b => Sys2Proof.Machine.execVaddI32 g d a b s
  | .vsubI32 g d a b => Sys2Proof.Machine.execVsubI32 g d a b s
  | .vmulI32 g d a b => Sys2Proof.Machine.execVmulI32 g d a b s
  | .vmulhI32 g d a b => Sys2Proof.Machine.execVmulhI32 g d a b s
  | .vand g d a b => Sys2Proof.Machine.execVand g d a b s
  | .vor g d a b => Sys2Proof.Machine.execVor g d a b s
  | .vandn g d a b => Sys2Proof.Machine.execVandn g d a b s
  | .vshlI32 g d a b => Sys2Proof.Machine.execVshlI32 g d a b s
  | .vshrI32 g d a b => Sys2Proof.Machine.execVshrI32 g d a b s
  | .vsraI32 g d a b => Sys2Proof.Machine.execVsraI32 g d a b s
  | .vminI32 g d a b => Sys2Proof.Machine.execVminI32 g d a b s
  | .vmaxI32 g d a b => Sys2Proof.Machine.execVmaxI32 g d a b s
  | .vsel g d a b => Sys2Proof.Machine.execVsel g d a b s
  | .vmov g d a => Sys2Proof.Machine.execVmov g d a s
  | .vsplat g d a t => Sys2Proof.Machine.execVsplat g d a t s
  | .vcmpeqF32 g d a b => Sys2Proof.Machine.execVcmpeqF32 g d a b s
  | .vcmpltF32 g d a b => Sys2Proof.Machine.execVcmpltF32 g d a b s
  | .vcmpleF32 g d a b => Sys2Proof.Machine.execVcmpleF32 g d a b s
  | .vcmpunF32 g d a b => Sys2Proof.Machine.execVcmpunF32 g d a b s
  | .vcmpeqI32 g d a b => Sys2Proof.Machine.execVcmpeqI32 g d a b s
  | .vcmpltI32 g d a b => Sys2Proof.Machine.execVcmpltI32 g d a b s
  | .vcmpltuI32 g d a b => Sys2Proof.Machine.execVcmpltuI32 g d a b s
  | .vcvtBf16F32Rne g d a b => Sys2Proof.Machine.execVcvtBf16F32Rne g d a b s
  | .vcvtBf16F32Sr g d a b => Sys2Proof.Machine.execVcvtBf16F32Sr g d a b s
  | .vcvtF32Bf16 g d a k => Sys2Proof.Machine.execVcvtF32Bf16 g d a k s
  | .vcvtFp8e4F32Rne g d a b x => Sys2Proof.Machine.execVcvtFp8e4F32Rne g d a b x s
  | .vcvtFp8e4F32Sat g d a b x => Sys2Proof.Machine.execVcvtFp8e4F32Sat g d a b x s
  | .vcvtFp8e4F32Sr g d a b x => Sys2Proof.Machine.execVcvtFp8e4F32Sr g d a b x s
  | .vcvtFp8e4F32Srsat g d a b x => Sys2Proof.Machine.execVcvtFp8e4F32Srsat g d a b x s
  | .vcvtFp8e5F32Rne g d a b x => Sys2Proof.Machine.execVcvtFp8e5F32Rne g d a b x s
  | .vcvtFp8e5F32Sat g d a b x => Sys2Proof.Machine.execVcvtFp8e5F32Sat g d a b x s
  | .vcvtFp8e5F32Sr g d a b x => Sys2Proof.Machine.execVcvtFp8e5F32Sr g d a b x s
  | .vcvtFp8e5F32Srsat g d a b x => Sys2Proof.Machine.execVcvtFp8e5F32Srsat g d a b x s
  | .vcvtF32Fp8e4 g d a k => Sys2Proof.Machine.execVcvtF32Fp8e4 g d a k s
  | .vcvtF32Fp8e5 g d a k => Sys2Proof.Machine.execVcvtF32Fp8e5 g d a k s
  | .vcvtFp4F32Rne g d a b x => Sys2Proof.Machine.execVcvtFp4F32Rne g d a b x s
  | .vcvtFp4F32Sr g d a b x => Sys2Proof.Machine.execVcvtFp4F32Sr g d a b x s
  | .vcvtF32Fp4 g d a k => Sys2Proof.Machine.execVcvtF32Fp4 g d a k s
  | .vcvtI32F32Rne g d a => Sys2Proof.Machine.execVcvtI32F32Rne g d a s
  | .vcvtI32F32Rtz g d a => Sys2Proof.Machine.execVcvtI32F32Rtz g d a s
  | .vcvtF32I32 g d a => Sys2Proof.Machine.execVcvtF32I32 g d a s
  | .vcvtRnsI32 g d a r => Sys2Proof.Machine.execVcvtRnsI32 g d a r s
  | .vcvtI32Rns g d a => Sys2Proof.Machine.execVcvtI32Rns g d a s
  | .vcvtInt8I32Sat g d a b x => Sys2Proof.Machine.execVcvtInt8I32Sat g d a b x s
  | .vqmxFp8e4 g d a b x => Sys2Proof.Machine.execVqmxFp8e4 g d a b x s
  | .vqmxFp4 g d a b x => Sys2Proof.Machine.execVqmxFp4 g d a b x s
  | .vrsqaF32 g d a => Sys2Proof.Machine.execVrsqaF32 g d a s
  | .vrcpaF32 g d a => Sys2Proof.Machine.execVrcpaF32 g d a s
  | .vexp2aF32 g d a => Sys2Proof.Machine.execVexp2aF32 g d a s
  | .vlog2aF32 g d a => Sys2Proof.Machine.execVlog2aF32 g d a s
  | .vsqrtF32 g d a => Sys2Proof.Machine.execVsqrtF32 g d a s
  | .vdivF32 g d a b => Sys2Proof.Machine.execVdivF32 g d a b s
  | .vredaddF32 g d a => Sys2Proof.Machine.execVredaddF32 g d a s
  | .vredmaxF32 g d a => Sys2Proof.Machine.execVredmaxF32 g d a s
  | .vredaddI32 g d a => Sys2Proof.Machine.execVredaddI32 g d a s
  | .vbcastl g d a n => Sys2Proof.Machine.execVbcastl g d a n s
  | .vperm g d a b => Sys2Proof.Machine.execVperm g d a b s
  | .verase g d => Sys2Proof.Machine.execVerase g d s
  | .vretag g d t => Sys2Proof.Machine.execVretag g d t s
  | .vtagq g d a => Sys2Proof.Machine.execVtagq g d a s
  | .wldBf16 g w a b r => Sys2Proof.Machine.execWldBf16 g w a b r s
  | .wldFp8e4 g w a b r => Sys2Proof.Machine.execWldFp8e4 g w a b r s
  | .wldFp8e5 g w a b r => Sys2Proof.Machine.execWldFp8e5 g w a b r s
  | .wldFp4 g w a b r => Sys2Proof.Machine.execWldFp4 g w a b r s
  | .wldInt8 g w a b r => Sys2Proof.Machine.execWldInt8 g w a b r s
  | .wldt g w a b r x => Sys2Proof.Machine.execWldt g w a b r x s
  | .wclr g w => Sys2Proof.Machine.execWclr g w s
  | .mmaBf16 g c w a b r => Sys2Proof.Machine.execMmaBf16 g c w a b r s
  | .mmaFp8e4 g c w a b r => Sys2Proof.Machine.execMmaFp8e4 g c w a b r s
  | .mmaFp8e5 g c w a b r => Sys2Proof.Machine.execMmaFp8e5 g c w a b r s
  | .mmaFp4 g c w a b r => Sys2Proof.Machine.execMmaFp4 g c w a b r s
  | .mmaI8r g c w a b r => Sys2Proof.Machine.execMmaI8r g c w a b r s
  | .mmsI8r g c w a b r => Sys2Proof.Machine.execMmsI8r g c w a b r s
  | .aclr g c => Sys2Proof.Machine.execAclr g c s
  | .afillF32 g c a b => Sys2Proof.Machine.execAfillF32 g c a b s
  | .afillRns g c a b => Sys2Proof.Machine.execAfillRns g c a b s
  | .astat g c a => Sys2Proof.Machine.execAstat g c a s
  | .drainF32 g c a b => Sys2Proof.Machine.execDrainF32 g c a b s
  | .drainBf16 g c a b => Sys2Proof.Machine.execDrainBf16 g c a b s
  | .drainAdd g c w a b x => Sys2Proof.Machine.execDrainAdd g c w a b x s
  | .drainAddc g c w a b x => Sys2Proof.Machine.execDrainAddc g c w a b x s
  | .drainRns g c a b => Sys2Proof.Machine.execDrainRns g c a b s
  | .drainI32 g c a b => Sys2Proof.Machine.execDrainI32 g c a b s
  | .cpyIn g t a b q => Sys2Proof.Machine.execCpyIn g t a b q s
  | .cpyInx g t a b => Sys2Proof.Machine.execCpyInx g t a b s
  | .cpyOut g t a b q => Sys2Proof.Machine.execCpyOut g t a b q s
  | .cpyPeer g t a b q => Sys2Proof.Machine.execCpyPeer g t a b q s
  | .cpyMc g t a b q => Sys2Proof.Machine.execCpyMc g t a b q s
  | .cpyT g t a b q => Sys2Proof.Machine.execCpyT g t a b q s
  | .cpyFab g t a b q => Sys2Proof.Machine.execCpyFab g t a b q s
  | .cpyRin g t a b q => Sys2Proof.Machine.execCpyRin g t a b q s
  | .cpyHost g t a b q => Sys2Proof.Machine.execCpyHost g t a b q s
  | .twany g d a => Sys2Proof.Machine.execTwany g d a s
  | .twall g a => Sys2Proof.Machine.execTwall g a s
  | .tfirst g d a => Sys2Proof.Machine.execTfirst g d a s
  | .tclr g a => Sys2Proof.Machine.execTclr g a s
  | .tstat g d a n => Sys2Proof.Machine.execTstat g d a n s
  | .qfence g m => Sys2Proof.Machine.execQfence g m s
  | .rwait g h c => Sys2Proof.Machine.execRwait g h c s
  | .rfree g h c => Sys2Proof.Machine.execRfree g h c s
  | .radvp g h z c => Sys2Proof.Machine.execRadvp g h z c s
  | .radvc g h c => Sys2Proof.Machine.execRadvc g h c s
  | .rset g h a => Sys2Proof.Machine.execRset g h a s
  | .rsetUnconfigure g h => Sys2Proof.Machine.execRsetUnconfigure g h s
  | .tlook g d a => Sys2Proof.Machine.execTlook g d a s
  | .tins g d a b => Sys2Proof.Machine.execTins g d a b s
  | .tdel g d a => Sys2Proof.Machine.execTdel g d a s
  | .lstW g a b => Sys2Proof.Machine.execLstW g a b s
  | .lstD g a b => Sys2Proof.Machine.execLstD g a b s
  | .lstv g a b => Sys2Proof.Machine.execLstv g a b s
  | .rel g t b => Sys2Proof.Machine.execRel g t b s
  | .acq g t a b => Sys2Proof.Machine.execAcq g t a b s
  | .acqs g t a b => Sys2Proof.Machine.execAcqs g t a b s
  | .phase g t b => Sys2Proof.Machine.execPhase g t b s
  | .synAdd g t a b => Sys2Proof.Machine.execSynAdd g t a b s
  | .synCas g t a b => Sys2Proof.Machine.execSynCas g t a b s
  | .synMin g t a b => Sys2Proof.Machine.execSynMin g t a b s
  | .synMax g t a b => Sys2Proof.Machine.execSynMax g t a b s
  | .synXch g t a b => Sys2Proof.Machine.execSynXch g t a b s
  | .synLd g t a b => Sys2Proof.Machine.execSynLd g t a b s
  | .synPost g t a b => Sys2Proof.Machine.execSynPost g t a b s
  | .synWait g t a b => Sys2Proof.Machine.execSynWait g t a b s
  | .synBar g t a b => Sys2Proof.Machine.execSynBar g t a b s
  | .fork g a b => Sys2Proof.Machine.execFork g a b s
  | .grwd g a => Sys2Proof.Machine.execGrwd g a s
  | .gbar g => Sys2Proof.Machine.execGbar g s
  | .gcancel g a => Sys2Proof.Machine.execGcancel g a s
  | .gquit g => Sys2Proof.Machine.execGquit g s
  | .gstat g b => Sys2Proof.Machine.execGstat g b s
  | .publish g t b => Sys2Proof.Machine.execPublish g t b s
  | .launch g a b => Sys2Proof.Machine.execLaunch g a b s
  | .cancel g a => Sys2Proof.Machine.execCancel g a s
  | .nop => Sys2Proof.Machine.execNop s
  | .resultLanding => Sys2Proof.Machine.execResultLanding s
  | .matrixRowLanding => Sys2Proof.Machine.execMatrixRowLanding s
  | .icacheFill => Sys2Proof.Machine.execIcacheFill s
  | .crossingDelivery => Sys2Proof.Machine.execCrossingDelivery s
  | .regionCommit => Sys2Proof.Machine.execRegionCommit s
  | .effectCommandSend => Sys2Proof.Machine.execEffectCommandSend s
  | .sequencerNumbering => Sys2Proof.Machine.execSequencerNumbering s
  | .weirOperation => Sys2Proof.Machine.execWeirOperation s
  | .logCompaction => Sys2Proof.Machine.execLogCompaction s
  | .logTimeout => Sys2Proof.Machine.execLogTimeout s
  | .publishCounterWrite => Sys2Proof.Machine.execPublishCounterWrite s
  | .copyStart => Sys2Proof.Machine.execCopyStart s
  | .atomService => Sys2Proof.Machine.execAtomService s
  | .readAtomWrite => Sys2Proof.Machine.execReadAtomWrite s
  | .copyCompletion => Sys2Proof.Machine.execCopyCompletion s
  | .cpyInxLanding => Sys2Proof.Machine.execCpyInxLanding s
  | .spillFillCompletion => Sys2Proof.Machine.execSpillFillCompletion s
  | .peerCopyTransfer => Sys2Proof.Machine.execPeerCopyTransfer s
  | .drainAddApply => Sys2Proof.Machine.execDrainAddApply s
  | .eccWriteback => Sys2Proof.Machine.execEccWriteback s
  | .refreshSlot => Sys2Proof.Machine.execRefreshSlot s
  | .selfRefreshEntry => Sys2Proof.Machine.execSelfRefreshEntry s
  | .selfRefreshExit => Sys2Proof.Machine.execSelfRefreshExit s
  | .trapSequence => Sys2Proof.Machine.execTrapSequence s
  | .shootdownComplete => Sys2Proof.Machine.execShootdownComplete s
  | .taskRetirement => Sys2Proof.Machine.execTaskRetirement s
  | .completionFinalWrite => Sys2Proof.Machine.execCompletionFinalWrite s
  | .inletSlotWrite => Sys2Proof.Machine.execInletSlotWrite s
  | .inletTailWrite => Sys2Proof.Machine.execInletTailWrite s
  | .inletCancelWrite => Sys2Proof.Machine.execInletCancelWrite s
  | .fabricLaunchPacket => Sys2Proof.Machine.execFabricLaunchPacket s
  | .fabricCancelPacket => Sys2Proof.Machine.execFabricCancelPacket s
  | .dispatchDecision => Sys2Proof.Machine.execDispatchDecision s
  | .waitWordRead => Sys2Proof.Machine.execWaitWordRead s
  | .levelAgeing => Sys2Proof.Machine.execLevelAgeing s
  | .reservationStart => Sys2Proof.Machine.execReservationStart s
  | .cancelDelivery => Sys2Proof.Machine.execCancelDelivery s
  | .taskStop => Sys2Proof.Machine.execTaskStop s
  | .groupEngineCommand => Sys2Proof.Machine.execGroupEngineCommand s
  | .forkAccept => Sys2Proof.Machine.execForkAccept s
  | .groupDeadline => Sys2Proof.Machine.execGroupDeadline s
  | .groupBarrierComplete => Sys2Proof.Machine.execGroupBarrierComplete s
  | .groupStatusMirror => Sys2Proof.Machine.execGroupStatusMirror s
  | .preemptRequest => Sys2Proof.Machine.execPreemptRequest s
  | .preemptTake => Sys2Proof.Machine.execPreemptTake s
  | .contextSave => Sys2Proof.Machine.execContextSave s
  | .pitchWriteOut => Sys2Proof.Machine.execPitchWriteOut s
  | .resumption => Sys2Proof.Machine.execResumption s
  | .wearInterval => Sys2Proof.Machine.execWearInterval s
  | .coreStateChange => Sys2Proof.Machine.execCoreStateChange s
  | .lifetimeCheckpoint => Sys2Proof.Machine.execLifetimeCheckpoint s
  | .periodStretch => Sys2Proof.Machine.execPeriodStretch s
  | .claim => Sys2Proof.Machine.execClaim s
  | .claimWindowClose => Sys2Proof.Machine.execClaimWindowClose s
  | .handover => Sys2Proof.Machine.execHandover s
  | .thaw => Sys2Proof.Machine.execThaw s
  | .preempt => Sys2Proof.Machine.execPreempt s
  | .fwupd => Sys2Proof.Machine.execFwupd s
  | .fwCheckDone => Sys2Proof.Machine.execFwCheckDone s
  | .fwcommit => Sys2Proof.Machine.execFwcommit s
  | .attest => Sys2Proof.Machine.execAttest s
  | .attestDone => Sys2Proof.Machine.execAttestDone s
  | .mgmtRegisterWrite => Sys2Proof.Machine.execMgmtRegisterWrite s
  | .accessControlWrite => Sys2Proof.Machine.execAccessControlWrite s
  | .linkReset => Sys2Proof.Machine.execLinkReset s
  | .hostMemAccess => Sys2Proof.Machine.execHostMemAccess s
  | .peerFabWrite => Sys2Proof.Machine.execPeerFabWrite s
  | .bringUp => Sys2Proof.Machine.execBringUp s
  | .linkTraining => Sys2Proof.Machine.execLinkTraining s
  | .malformedBundle => Sys2Proof.Machine.execMalformedBundle s
  | .powerOff => Sys2Proof.Machine.execPowerOff s

end Sys2Proof.Machine
end

