-- ==== Sys2Proof/Machine/Issue.lean ====
section
/-! DEFINITION. The clock of a core: its period, freezes, bubbles, the fetch, decode and issue of a bundle, and drain cycles (R16 to R26,
R37, R40, R65, R261, R275 to R277, R299, R326, R333, R345, R346, R351). -/

namespace Sys2Proof.Machine

/-- One outcome after another. -/
def andThen (o : Out) (f : State → Out) : Out :=
  match o with
  | .next s => f s
  | .fault r => .fault r
  | .refused r => .refused r

/-! ### Periods (R345, R346) -/

/-- A period ends the one before: a stretched one lasts two reference periods; the skew follows the stretches of both islands, and a skew
that comes to 2 makes a paired crossing late; a stretch of the island that lags makes up for it. -/
def Clk.turn (x : Clk) : Clk :=
  let p := x.period
  let a := x.ctl.contains p
  let b := x.arr.contains p
  let skew := x.skew + (if a then 1 else 0) - (if b then 1 else 0)
  { x with
    edge := x.edge + if a then 2 else 1, period := p + 1, ctl := setErase x.ctl p, arr := setErase x.arr p, skew := skew
    late := x.late || (skew.natAbs ≥ 2 && x.skew.natAbs < skew.natAbs), paid := if x.skew < 0 then a else b }

/-- Freezes at the start of a cycle: data due to land in it has not arrived (R23). -/
def Core.lateCauses (c : Core) : List Nat :=
  (if c.run.copies.any fun m => m.kind.exact && m.left == 1 && !m.settled then [6] else []) ++ (if c.clk.late then [7] else [])

/-! ### The end of an active cycle or of a drain cycle (R17, R21, R26, R133, R193) -/

/-- The latencies of a core advance: the matrix unit, the results in flight, spills, fills and CPY.INX; then its engines and its regions
look whether they can go on. -/
def State.advance (s : State) (k : CoreId) : State :=
  let r := s.cores[k].run
  let ends (p : CopyKind → Bool) (i : Instr) := (r.copies.filter fun m => p m.kind && m.left == 1).map fun m => Due.dev i (.cmd k m.id)
  (s.onCore k fun c => c.onRun fun r => { r with
    frozen := [], fresh := false, copies := r.copies.map fun m => if m.kind.exact then { m with left := m.left - 1 } else m }).soon
    ([.dev .matrixRowLanding (.matrix k false)] ++ ends (·.moves) .spillFillCompletion ++ [devCore .resultLanding k] ++
      ends (· == .inx) .cpyInxLanding ++ [devCore .copyStart k, devCore .regionCommit k, devCore .effectCommandSend k])

/-- What a core waits for in a drain (R26). -/
def phaseSteps (k : CoreId) : Phase → List Due
  | .idle => []
  | .running => []
  | .trapping => [devCore .trapSequence k]
  | .preempting => [devCore .contextSave k]
  | .stopping => [.dev .taskStop (.take k false), devCore .taskRetirement k]
  | .ended => [.dev .taskStop (.take k false), devCore .taskRetirement k]
/-- What the trapping region and later ones have in flight is discarded before anything lands (R42, R320). -/
def Core.discard (c : Core) : Core :=
  match c.run.phase, c.run.trap with
  | .trapping, some t => c.trapClear (t.region.getD c.run.nextRegion)
  | _, _ => c
/-- A drain cycle (R26). The clock in which a bundle raises a trap before it issues is one. -/
def State.drainCycle (s : State) (k : CoreId) : State :=
  let t := (s.onCore k Core.discard).advance k
  t.soon (phaseSteps k t.cores[k].run.phase)

/-! ### Stopping points (R25, R261, R275, R277, R326) -/

/-- A request or a cancel is pending. -/
def Run.asked (r : Run) : Bool := r.cancel || r.preempt
/-- The step that takes what is pending; the cancel prevails (R275). -/
def Run.takeStep (r : Run) (k : CoreId) (head : Bool) : Due := .dev (if r.cancel then .taskStop else .preemptTake) (.take k head)
/-- At a region head outside a loop what is pending is taken; after a trap at the next head in any case (R261, R275, R326). -/
def Core.stopsAtHead (c : Core) : Bool := c.run.asked && (!c.ctx.x.armed || c.run.atHead)
/-- Causes 1, 2, 3 and 8, under which a frozen task is taken at once (R25). -/
def softCauses (l : List Nat) : Bool := l.all fun n => n == 1 || n == 2 || n == 3 || n == 8

/-- The taking point is reached: the core issues no more, and from here on its clocks are drain cycles. A head that waits under cause 1, 2, 3
or 8 is the waiting bundle of R275 for a request that found the core frozen; one that found it going is taken at the head. -/
def State.takeHead (s : State) (k : CoreId) : State :=
  let r0 := s.cores[k].run
  ((s.soon [r0.takeStep k true]).advance k).onCore k fun c => c.onRun fun r =>
    { r with frozen := if softCauses r0.frozen && (r0.cancel || r0.fresh) then r0.frozen else [] }

/-- Causes 5, 6 and 7, under which a clock ends before the bundle's own waits are judged: a log-full freeze lasts through it (R23, R213). -/
def unjudged (n : Nat) : Bool := n == 5 || n == 6 || n == 7
/-- A freeze clock: nothing advances, but for the matrix unit under cause 4 alone, with what its landings let commit; a cancel is taken at once
under causes 1, 2, 3 and 8, and so is a request that found the core frozen, unless a loop drain has begun (R24, R25, R213, R261, R275). Where
the region that holds the drain-add buffer still has an S or V result in flight, a freeze on that buffer halts it, and does not end: DESIGN
CHOICE between R158's halt and R158's bound (log 113). -/
def State.freezeBy (s : State) (k : CoreId) (l : List Nat) (head : Bool) : State :=
  let s := s.onCore k fun c => c.onRun fun r => { r with
    frozen := l, fullSince := if l.contains 3 then (r.fullSince.or (some s.now)) else if l.all unjudged then r.fullSince else none }
  let r := s.cores[k].run
  let s := if l == [4] then s.soon [.dev .matrixRowLanding (.matrix k true), devCore .regionCommit k] else s
  if softCauses l && (r.cancel || (r.preempt && r.fresh && r.drain.isNone)) then s.soon [r.takeStep k head] else s

/-! ### Fetch and decode (R3, R15, R20, R23, R51, R65, R299) -/

/-- The line of the instruction cache that holds the bundle at pc. -/
def State.fetched (s : State) (k : CoreId) : Option ILine :=
  let c := s.cores[k]
  let sp := s.spaceOn k
  c.icache.find? fun l => l.isOf sp && l.addr == c.ctx.pc.toNat && l.priv == c.ctx.x.priv
/-- A miss: the bundle is fetched, over the crossing from the controllers, which takes a time that is otherwise not fixed (R23, R347). -/
def State.fetchMiss (s : State) (k : CoreId) : State :=
  let d : Due := .dev .icacheFill (.fetch k s.cores[k].ctx.pc.toNat)
  let s := if s.onItsWay d then s else s.cross k 9 d
  s.freezeBy k [5] false
/-- The current region, opened where the next bundle opens one (R37, R319). -/
def Core.current (c : Core) : Core := if c.run.openNext then c.openRegion none else c
/-- A failed fetch is raised where its bundle would issue; it is not kept (R299). -/
def State.fetchTrap (s : State) (k : CoreId) (l : ILine) : State :=
  s.onCore k fun c =>
    let c := c.current.raise 0 l.cause
    { c with icache := c.icache.erase l, run := { c.run with trap := c.run.trap.map fun t => { t with status := l.status } } }

/-- The ramp code of a syllable whose form has a ramp (R51, R56). -/
def rampCode (pos : Nat) (w : Half) : Option Nat :=
  let m := major w
  if pos = 1 && ((0x14 ≤ m && m ≤ 0x20) || m == 0x5B) then some (fX w).val
  else if pos = 2 && ((1 ≤ m && m ≤ 6) || (0x10 ≤ m && m ≤ 0x15)) then some (mR w).val
  else none
/-- A syllable that the running state makes offend: a ramp below the launch's floor, a WRSR of a read-only register (R20, R30, R65). -/
def sylBad (floor : Fin 4) (priv : Bool) (raw : BitVec 128) (j : Fin 4) : Bool :=
  match decodeAt raw j with
  | none => true
  | some i =>
    !isLit raw j.val && ((rampCode j.val (sylAt raw j.val)).any (· < floor.val) ||
      match i with
      | .wrsr _ _ n => srReadOnly priv n
      | _ => false)
/-- The bundle, or the position of its first offending syllable (R65). -/
def decodeIn (floor : Fin 4) (priv : Bool) (raw : BitVec 128) : Except (Fin 4) Bundle :=
  match (List.finRange 4).find? (sylBad floor priv raw) with
  | some j => .error j
  | none => decodeBundle raw

/-! ### Issue (R16, R17, R37, R40, R333) -/

/-- A bundle outside the extent of the region it would belong to (R40). -/
def Core.outOfExtent (c : Core) : Bool :=
  match c.run.regions with
  | [] => false
  | r :: _ => !(r.head.toNat ≤ c.ctx.pc.toNat && c.ctx.pc.toNat < r.head.toNat + 65536)

/-- The syllables act one after another; what each reads is unchanged by the others, since results land at the end of the cycle (R17). -/
def State.runSyls (s : State) : List Instr → Out
  | [] => .next s
  | i :: r => andThen (exec i s) fun t => t.runSyls r
/-- What a syllable of the bundle at issue would do alone. -/
def State.alone (s : State) (i : Instr) : State :=
  match exec i s with
  | .next t => t
  | _ => s
/-- The causes under which a bundle freezes (R23). -/
def State.waits (s : State) (b : Bundle) : List Nat := (b.syls.flatMap fun i => (s.alone i).core.run.frozen).eraseDups
/-- The trap of the first syllable that raises one: the state it leaves (R126, R319). -/
def State.trapped (s : State) (b : Bundle) : Option State :=
  b.syls.findSome? fun i => if (s.alone i).core.run.phase == .trapping then some (s.alone i) else none

/-- A bundle has issued: TICK, its region's counts and signature, and the address of the next bundle (R17, R30, R323, R333). -/
def Core.issued (c : Core) (b : Bundle) (raw : BitVec 128) : Core :=
  let x := if b.s.isChecked then crcBlank raw else raw
  let c := c.onRegion fun r => { r with
    issued := r.issued + 1, lastTick := c.ctx.x.tick, crc := crcBundle r.crc x, csyl := r.csyl + if b.c = .nop then 0 else 1 }
  ((c.onSpr fun y => { y with tick := y.tick + 1 }).onCtx fun y => { y with pc := c.run.target.getD (y.pc + 16) }).onRun fun r =>
    { r with target := none, issues := r.issues + 1, fullSince := none }

/-- The state in which a bundle's syllables are tried: nothing frozen, and its region open (R37). -/
def State.prepared (s : State) : State :=
  s.onCur fun c =>
    let c := c.onRun fun r => { r with frozen := [] }
    if c.run.openNext then c.openRegion none else c

/-- The instruction cache holds the bundle at pc, and it heads a region. -/
def State.peekOpens (s : State) (k : CoreId) : Bool := ((s.fetched k).bind (·.data)).any opensAt
/-- The CLOOP that ends a loop drain has issued: a request is taken at the split commit of its region, which stays open until then (R276,
R277). -/
def Run.splitting (r : Run) : Bool :=
  r.drain.isSome && r.preempt && !r.cancel && r.flights.any fun f => match f.land with
    | .cloop _ _ _ lstg _ _ => !lstg.getLsbD 7
    | _ => false
/-- The region of the bundle that has issued ends with it, where the next bundle is a region head (R37, R39). -/
def State.closeBefore (s : State) (k : CoreId) (head : Bool) : State :=
  let r := s.cores[k].run
  if head && !r.openNext && r.phase == .running && !r.splitting then s.onCore k Core.closeRegion else s

/-- A decoded bundle at issue on the core whose clock it is: its region's extent, its freezes, its traps, then all its syllables. -/
def State.issueBundle (s : State) (b : Bundle) (raw : BitVec 128) : Out :=
  let k := s.cur
  let head := s.core.run.openNext
  if !head && s.core.outOfExtent then .next ((s.onCur fun c => c.raise 0 .segmentCheck).drainCycle k)
  else
    let t := s.prepared
    let w := t.waits b
    if !w.isEmpty then .next (s.freezeBy k w head)
    else match t.trapped b with
      | some u => .next (u.drainCycle k)
      | none => andThen (t.runSyls b.syls) fun u =>
        let u := u.onCur fun c => c.issued b raw
        .next ((u.closeBefore k (u.peekOpens k)).advance k)

/-- A region head that the instruction cache did not hold when the bundle before it issued: the region that bundle ended is closed and may
commit before the head issues, in the last clock of the miss (R23, R24, R39). -/
def State.endBefore (s : State) (k : CoreId) : State := ((s.closeBefore k true).soon [devCore .regionCommit k]).freezeBy k [5] true

/-- A request or a cancel at a region head that last met a cause of 4 to 7: the head's waits are judged again, and it is taken once those
have cleared; a request that found the core going is taken at the head, whatever the head waits for under causes 1, 2, 3 and 8 (R25, R275). -/
def State.headAgain (s : State) (b : Bundle) : State :=
  let w := s.prepared.waits b
  let r := s.core.run
  if w.isEmpty || (softCauses w && !r.cancel && !r.fresh) then s.takeHead s.cur else s.freezeBy s.cur w true
/-- A YIELD's request is delivered at the end of its region (R266). -/
def State.deliverYield (s : State) : State :=
  if s.core.run.openNext && s.core.run.yielded.isSome then
    s.onCur fun c => c.onRun fun r => { r with preempt := r.preempt || !r.cancel, yielded := none }
  else s

/-- A core that may issue, its YIELD's request delivered: the taking point at a region head, the fetch, a head met late, a held fault, decode
and issue (R65, R275, R299, R351). A bundle that does not decode heads a region where its S syllable says so (R37): log 79. -/
def State.issueNext (s : State) : Out :=
  let k := s.cur
  let c := s.core
  if c.run.openNext && c.stopsAtHead && softCauses c.run.frozen then .next (s.takeHead k)
  else match s.fetched k with
    | none => .next (s.fetchMiss k)
    | some l =>
      let stops := c.stopsAtHead && c.run.openNext
      match l.data with
      | none =>
        if stops then .next (s.takeHead k)
        else match c.run.held with
          | h :: rest => .next ((s.onCur fun c => c.takeHeld h rest).drainCycle k)
          | [] => .next ((s.fetchTrap k l).drainCycle k)
      | some raw =>
        if opensAt raw && !c.run.openNext then .next (s.endBefore k)
        else match c.run.held, decodeIn (((s.launchOn k).map (·.lrec.floor)).getD 0) c.ctx.x.priv raw with
          | h :: rest, _ => .next (if stops then s.takeHead k else (s.onCur fun c => c.takeHeld h rest).drainCycle k)
          | [], .error p =>
            if stops then .next (s.takeHead k)
            else andThen (exec .malformedBundle { s.onCur Core.current with arg := .bundle p }) fun t => .next (t.drainCycle k)
          | [], .ok b => if stops then .next (s.headAgain b) else s.issueBundle b raw

/-- A core that may issue. -/
def State.tryIssue (s : State) : Out := s.deliverYield.issueNext

/-- A bubble cycle: active, and nothing issues (R22). -/
def State.bubble (s : State) (k : CoreId) : State :=
  (s.onCore k fun c => (c.onSpr fun x => { x with tick := x.tick + 1 }).onRun fun r => { r with bubbles := r.bubbles - 1 }).advance k

/-- A core's clock that is not idle, at the start of a period: late data holds it; after a loop drain its request is taken; bubbles pass;
otherwise it issues, or drains (R22 to R26, R277). -/
def State.clockOf (s : State) (late : List Nat) : Out :=
  let k := s.cur
  let c := s.core
  match c.run.phase with
  | .idle => .next s
  | .running =>
    if !late.isEmpty then .next (s.freezeBy k late false)
    else if c.run.drain.isSome && !c.ctx.x.armed && c.run.preempt && !c.run.cancel then
      .next ((s.soon [c.run.takeStep k false]).advance k)
    else if c.run.bubbles != 0 then .next (s.bubble k)
    else s.tryIssue
  | _ => .next (if late.isEmpty then s.drainCycle k else s)

/-- A core's clock as a period begins: at the first one of a context its periods have gone on till then (R345, R346). -/
def Clk.awake (x : Clk) (now : Nat) : Clk := if x.start.isNone then x else x.idleTo now
/-- One clock of a core (R345). -/
def State.coreClock (s : State) (k : CoreId) : Out :=
  let late := s.cores[k].lateCauses
  let s := ({ s with cur := k } : State).onCore k fun c => { c with clk := (c.clk.awake s.now).turn }
  let s := if s.cores[k].clk.late then s.soon [devCore .crossingDelivery k] else s
  s.clockOf late

end Sys2Proof.Machine
end

