-- ==== Sys2Proof/Machine/World.lean ====
section
/-! DEFINITION. What the clock brings: the calendar's slots, the distributor's cycles, the Lantern's intervals, what the outside does, and the
cores whose periods begin (R188, R194, R213, R258, R269, R308, R339, R344). -/

namespace Sys2Proof.Config

/-- What the host, the fabric, the board controller, the island monitors and the power supply do at a clock. -/
opaque world : Nat → List Machine.Due

end Sys2Proof.Config

namespace Sys2Proof.Machine

/-! ### Inputs (R308) -/

/-- A step that the outside of the device can bring about. -/
def Instr.isInput : Instr → Bool
  | .inletSlotWrite => true
  | .inletTailWrite => true
  | .inletCancelWrite => true
  | .fabricLaunchPacket => true
  | .fabricCancelPacket => true
  | .claim => true
  | .handover => true
  | .thaw => true
  | .preempt => true
  | .fwupd => true
  | .fwcommit => true
  | .attest => true
  | .mgmtRegisterWrite => true
  | .accessControlWrite => true
  | .linkReset => true
  | .hostMemAccess => true
  | .peerFabWrite => true
  | .periodStretch => true
  | .powerOff => true
  | _ => false

/-- An input; the return of power is one, other steps of bring-up are not. -/
def Due.isInput : Due → Bool
  | .dev .bringUp a => a == .bring 0
  | .dev i _ => Instr.isInput i
  | .item _ _ _ _ _ => false
  | .core _ => false
/-- A request to the base die, or an event of a link (R308). -/
def Due.toBase : Due → Bool
  | .dev .hostMemAccess _ => false
  | .dev .periodStretch _ => false
  | .dev .powerOff _ => false
  | .dev .bringUp _ => false
  | _ => true
/-- The order of the base die's inputs of one of its cycles: requests by ascending port, then link events (R308). -/
def Due.order : Due → Nat
  | .dev .linkReset _ => 100
  | .dev _ (.write m _ _) => m.val
  | .dev _ (.line m _ _ _) => m.val
  | .dev _ (.packet _ p _ _) => 1 + p.val
  | .dev _ (.cancel _ p _) => 1 + p.val
  | .dev _ (.fab _ p _ _ _) => 1 + p.val
  | _ => 0
/-- The inputs of a clock. What has come to the base die in one of its cycles, of 4 clocks, is taken at the end of the cycle. -/
def inputs (t : Nat) : List Due :=
  ((Config.world t).filter fun d => d.isInput && !d.toBase) ++
    if t % 4 != 3 then []
    else sortOn Due.order ((List.range 4).flatMap fun i => (Config.world (t - 3 + i)).filter fun d => d.isInput && d.toBase)

/-! ### The calendar (R188, R194 to R196) -/

/-- Atoms of a core that a slot beginning at a clock could serve. -/
def Core.waitingChans (c : Core) (t : Nat) : List Nat :=
  c.run.copies.flatMap fun m => (m.atoms.filter (·.waits t)).map (·.chan.val)
/-- The controller of a pseudo-channel: 32 of them each (R1). -/
def ctlOf (ch : ChanId) : Fin 256 := Fin.ofNat 256 (48 + ch.val / 32)
/-- The slot that begins at a clock on the pseudo-channels of a controller, by its number from reset: at the calendar's clock unless the
controller's stretches have shifted it (R188, R192). -/
def Isle.begins (x : Isle) (t : Nat) : Option Nat :=
  if x.shift = 0 then (if t % 5 = 0 then some (t / 5) else none)
  else if slotStart x.shift x.next ≤ t then some x.next else none
/-- The slots of a controller after those of a clock: past slot 99 its rotation has absorbed up to 10 clocks (R192). -/
def Isle.tick (x : Isle) (t : Nat) : Isle :=
  if x.shift = 0 || t < slotStart x.shift x.next then x
  else { x with next := x.next + 1, shift := if x.next % 100 = 99 then x.shift - 10 else x.shift }
/-- The slots that begin at a clock: the slot of four cores, on each pseudo-channel one of them waits for, or a peer's atom does, or a reserved slot. -/
def State.slotSteps (s : State) (t : Nat) : List Due :=
  let slot := s.isles.map (·.begins t)
  let at? (ch : ChanId) (reserved : Bool) : Option Nat := (slot[ctlOf ch]).filter fun n => decide (96 ≤ n % 100) == reserved
  if slot.all (·.isNone) then []
  else
    let l := distinct ((s.cores.toList.flatMap fun c => c.waitingChans t) ++ s.inbox.map (·.chan.val))
    (l.filterMap fun n => (at? (Fin.ofNat 3072 n) false).map fun k => Due.dev .atomService (.service (Fin.ofNat 3072 n) k)) ++
      ((s.dram.filterMap fun d => (at? d.chan true).map fun k => Due.dev .refreshSlot (.service d.chan k))) ++
      (distinct (s.writeback.map (·.1.val))).filterMap fun n =>
        (at? (Fin.ofNat 3072 n) true).map fun _ => Due.dev .eccWriteback (.chan (Fin.ofNat 3072 n))
/-- The channels whose idle timers had expired at the start of a rotation, the clock before: decided once that clock's requests have all come
(R194). That the timer is tested at the starts of rotations alone, and that any earlier request not yet served also cancels the entry, are
DESIGN CHOICES (log 102). -/
def State.sleepSteps (s : State) (t : Nat) : List Due :=
  if t % 500 != 1 then []
  else ((List.finRange 768).filter fun f => !s.asleep.contains f.val && (pairGet s.quiet f.val).getD 0 + 32000 < t).map fun f =>
    .dev .selfRefreshEntry (.four f)

/-! ### Distributor, groups, Lantern -/

/-- At the start of a distributor cycle: one decision, ageing and reservation, and Draining cores that have emptied (R258, R342). -/
def State.distSteps (s : State) (t : Nat) : List Due :=
  if t % 4 != 0 then []
  else
    (if s.ready?.isEmpty && s.suspended.isEmpty then []
      else [.dev .dispatchDecision .none, .dev .levelAgeing .none, .dev .reservationStart .none]) ++
    (allCores.filter fun k => s.cores[k].wear.st == .draining && s.emptyCore k).map (devCore .coreStateChange)
/-- At the end of an engine cycle: the deadlines of active groups, after that cycle's arrivals (R269, R270). -/
def State.groupSteps (s : State) (t : Nat) : List Due :=
  if t % 4 != 3 then [] else (s.groups.filter s.groupActive).map fun g => .dev .groupDeadline (.group g.handle)
/-- The Lantern works once its record has been read (R349); its readings are free values (R339). -/
def State.lanternSteps (s : State) (t : Nat) : List Due :=
  let l (i : Nat) := (List.range 384).map fun k => Config.freeNat s.free (3 * k + i)
  if s.brought < 4 then [] else
  (if t % intervalClocks = 0 then [.dev .wearInterval (.sense (l 0) (l 1) (l 2))] else []) ++
    if t % 2 ^ 32 = 0 then [.dev .lifetimeCheckpoint .none] else []
/-- Log timeouts that have run out (R213). -/
def State.timeoutSteps (s : State) (t : Nat) : List Due :=
  (allCores.filter fun k => s.cores[k].run.phase == .running && s.cores[k].run.fullSince.any fun t0 =>
    (s.launchOn k).any fun l => t0 + l.timeoutClocks ≤ t).map (devCore .logTimeout)
/-- A period begins at a clock in which the core runs: one of those that a core goes through while it runs nothing, once a context that has come
to it may issue (R345, R346, R353). -/
def Clk.begins (x : Clk) (t : Nat) : Bool :=
  match x.start with
  | none => x.edge ≤ t
  | some n => n ≤ t && (x.following t).2 ≤ t
/-- The cores whose periods begin. -/
def State.coreSteps (s : State) (t : Nat) : List Due :=
  (allCores.filter fun k => s.cores[k].busy && s.cores[k].clk.begins t).map .core

/-- The steps of a clock: those of the device in their order, then the clocks of the cores. -/
def State.stepsAt (s : State) (t : Nat) : List Due :=
  if s.powered then
    s.slotSteps t ++ s.sleepSteps t ++ s.distSteps t ++ s.lanternSteps t ++ (s.agenda.filter (s.ripe t)).map (·.2.bare) ++ inputs t ++
      s.timeoutSteps t ++ s.coreSteps t ++ s.groupSteps t
  else (inputs t).filter fun d => d == .dev .bringUp (.bring 0)
/-- The next calendar clock begins. -/
def State.nextClock (s : State) : State :=
  let t := s.now + 1
  { s with now := t, todo := s.stepsAt t, isles := s.isles.map (·.tick t), agenda := s.agenda.filter (!s.ripe t ·), free := s.free + 1 }

/-! ### An instruction placed where the next step fetches -/

/-- A core that is about to issue the bundle at its pc, which its instruction cache holds. -/
def Core.placed (c : Core) (sp : Space) (raw : BitVec 128) : Core :=
  { c with
    icache := ⟨sp.tag, sp.root, c.ctx.pc.toNat, c.ctx.x.priv, some raw, .bounds, 0⟩ :: c.icache
    clk := { c.clk with late := false, start := none }
    run := { c.run with
      phase := .running, bubbles := 0, target := none, frozen := [], copies := [], trap := none, held := [], preempt := false
      cancel := false, drain := none, openNext := true, atHead := false } }

end Sys2Proof.Machine
end

