-- ==== Sys2Proof/Machine/Step.lean ====
section
/-! DEFINITION. One step of the machine: the next thing that is due in this clock, or the next clock. -/

namespace Sys2Proof.Machine

/-- One step: the clock of a core, a step of the device, or, with nothing due, the next calendar clock. -/
def step (s : State) : Host.Outcome State Fault Refusal :=
  match s.todo with
  | [] => .next s.nextClock
  | .core k :: r => ({ s with todo := r } : State).coreClock k
  | .dev i a :: r => exec i { s with todo := r, arg := a }
  | .item _ _ _ i a :: r => exec i { s with todo := r, arg := a }

/-- An instruction placed where the next step fetches: in the bundle at the pc of core 0, whose clock is due next. -/
def State.withFetchWord (s : State) (nbits w : Nat) : State :=
  ({ s with todo := [.core 0] } : State).onCore 0 (·.placed (s.spaceOn 0) (tableBundle nbits w))

end Sys2Proof.Machine
end

