-- ==== Sys2Proof/Safety.lean ====
section
/-! DEFINITION. What a safe run is, and the conditions on a state that statements speak of: the canonical form of memory, the patterns
the HPAT registers accept, and a bundle that the next step issues. -/

namespace Sys2Proof.Machine

/-! ### Memory in canonical form -/

/-- Addresses from a bound rise strictly, and no byte equals what an unlisted address reads as. -/
def wfFrom (lo : Nat) : Mem → Bool
  | [] => true
  | c :: r => lo ≤ c.1 && c.2 != 0 && wfFrom (c.1 + 1) r
/-- The canonical form of a memory. -/
def Memory.wf (m : Mem) : Bool := wfFrom 0 m

/-- The memories of the package outside the cores are in canonical form. -/
def State.memOk (s : State) : Bool := Memory.wf s.hbm && Memory.wf s.host
/-- HPAT0 is the identity and every HPAT register holds a pattern that R187 allows. -/
def State.hpatOk (s : State) : Bool := s.hpat[0] == 0 && s.hpat.toList.all fun v => !hpatBad v

/-! ### Safe runs -/

/-- A step goes on: it ends in a next state, neither in a fault nor in a refusal. -/
def goesOn (o : Out) : Prop := ∃ t, o = .next t
/-- A run is safe when no step of it stops. -/
def Safe (s : State) : Prop := ∀ n, goesOn (Host.Core.run Sys2Proof.core n s)

/-! ### A core that issues -/

/-- A core whose clock has just begun, whose bundle at pc is held by its instruction cache and decodes to b, and for which nothing is
pending or held: it runs, no data is late, no bubble is left, and no request, cancel or fault waits (R16, R23, R266, R275, R351). -/
def State.willIssue (s : State) (k : CoreId) (raw : BitVec 128) (b : Bundle) : Prop :=
  let c := s.cores[k]
  c.run.phase = .running ∧ c.lateCauses = [] ∧ c.clk.turn.late = false ∧ c.run.bubbles = 0 ∧ c.run.held = [] ∧
    c.run.preempt = false ∧ c.run.cancel = false ∧ (c.run.openNext = true → c.run.yielded = none) ∧ (s.fetched k).map (·.data) = some (some raw) ∧
    decodeIn (((s.launchOn k).map (·.lrec.floor)).getD 0) c.ctx.x.priv raw = .ok b

/-! ### Checks -/

/-- The checks of a syllable in the order of its slot (R106, R126, R157, R222): the first fault that holds is raised in position pos, and
where none holds the core becomes f of it. -/
def State.checkedBy (s : State) (j : Instr) (pos : Fin 4) (faults : List (Bool × Cause)) (f : Core → Core) : Prop :=
  (∀ (n : Nat) (z : Cause), faults[n]? = some (true, z) → (∀ (m : Nat) y x, m < n → faults[m]? = some (y, x) → y = false) →
    exec j s = .next (s.onCur fun c => c.raise pos z)) ∧
  ((∀ x ∈ faults, x.1 = false) → exec j s = .next (s.onCur f))

/-! ### How a V form ends -/

/-- A dissipative V form under the guard gm, whose ordinary result tag is rt, ends as R32, R33 and R123 say. It does nothing where the
guard enables no lane; it raises FORMAT for a refused source tag (bad) or a destination that R33 refuses, and then the first of its other
faults; otherwise the one change is a result in flight with latency lat, and the energy of R123 and extra. It writes the bits elems of
every executed lane, and over a CLEAN destination the whole of it (R124). -/
def State.vecChecked (s : State) (j : Instr) (lat : Nat) (gm : Word) (elems : Line) (d : VReg) (rt : Tag) (pois bad : Bool)
    (faults : List (Bool × Cause)) (extra : Nat) (bits : Line) : Prop :=
  let old := (s.core.vr d).tag
  let mask := if old = .clean then laneMask gm else laneMask gm &&& elems
  let tag := writeTag old rt (mask == allBits) pois
  (gm = 0 → exec j s = .next s) ∧
  (gm ≠ 0 → s.checkedBy j 1 ((bad || tag.isNone, .format) :: faults) fun c =>
    (c.meter (dissipFj (popcount gm) old + extra)).fly lat 1 (.vec ⟨c.physV d, mask, bits &&& elems, tag, false, none, false, old⟩))

/-- A dissipative V form whose one fault is FORMAT. -/
def State.vecLands (s : State) (j : Instr) (lat : Nat) (gm : Word) (elems : Line) (d : VReg) (rt : Tag) (pois bad : Bool) (extra : Nat)
    (bits : Line) : Prop := s.vecChecked j lat gm elems d rt pois bad [] extra bits

/-- An in-place reversible V form on vd under the guard gm ends as R135 says. It does nothing where the guard enables no lane; it raises the
first of its faults; otherwise the one change is a result in flight with latency 2L, under the zero rule where all 64 lanes execute, and
16/L fJ for each executed lane. -/
def State.revLands (s : State) (j : Instr) (r : Ramp) (gm : Word) (d : VReg) (t : Tag) (pois : Bool) (faults : List (Bool × Cause))
    (bits : Line) : Prop :=
  let fj := 16 / rampL r * popcount gm
  (gm = 0 → exec j s = .next s) ∧
  (gm ≠ 0 → s.checkedBy j 1 faults fun c => (c.meter fj).fly (2 * rampL r) 1
    (.vec ⟨c.physV d, laneMask gm, bits, some (if pois then .poison else t), false, some fj, gm == allLanes, (s.core.vr d).tag⟩))

/-! ### How an M form and a C form begin -/

/-- An M form whose resources are held freezes its bundle under cause 4; otherwise it makes its checks (R158). -/
def State.matrixForm (s : State) (j : Instr) (held : Bool) (faults : List (Bool × Cause)) (f : Core → Core) : Prop :=
  (held = true → exec j s = .next (s.onCur fun c => c.freeze 4)) ∧ (held = false → s.checkedBy j 2 faults f)

/-- An effect instruction closes its region whatever its guard; with its guard true it waits while 32 commands of regions that have committed
are unsent, and then makes its checks in position 3 first (R37, R216, R222, R251). -/
def State.effectForm (s : State) (j : Instr) (g : PReg) (faults : List (Bool × Cause)) (f : Core → Core) : Prop :=
  let unsent := s.core.run.effects.length
  (s.core.g0 g = false → exec j s = .next (s.onCur fun c => c.closeRegion)) ∧
  (s.core.g0 g = true → 32 ≤ unsent → exec j s = .next (s.onCur fun c => c.freeze 2)) ∧
  (s.core.g0 g = true → unsent < 32 → s.checkedBy j 3 faults fun c => (f c).closeRegion)

/-! ### What a master's or a peer's request comes to -/

/-- A management write of a master: nothing where its link is down or the device without power; refused as its port refuses while it is
frozen; refused with event 0x07 while the device has no owner, unless any master may write; a violation, which freezes the master and is
refused, where it is neither the owner nor granted; refused with event 0x07 where the value breaks the field's limits; performed otherwise
(R306, R309, R311). -/
def State.managed (s : State) (j : Instr) (m : PortId) (anyone granted fits : Bool) (f : State → State) : Prop :=
  let may := anyone = true ∨ (s.mgmt.owned = true ∧ (s.mgmt.owner.toNat = m.val ∨ granted = true))
  (s.reaches m = false → exec j s = .next s) ∧
  (s.reaches m = true → s.mgmt.frozen.getLsbD m.val = true → exec j s = .next (s.respond m (refusalOf m))) ∧
  (s.hears m = true → anyone = false → s.mgmt.owned = false → exec j s = .next ((s.portEvent 0x07 m.val).respond m .taken)) ∧
  (s.hears m = true → s.mgmt.owned = true → ¬ may → exec j s = .next ((s.freezePort m).respond m (refusalOf m))) ∧
  (s.hears m = true → may → fits = false → exec j s = .next ((s.portEvent 0x07 m.val).respond m .taken)) ∧
  (s.hears m = true → may → fits = true → exec j s = .next ((f s).respond m .taken))

/-- A packet of a peer by a fabric port: nothing while the device has no power or the link is down; performed where the peer's entry is
valid, not frozen, bound to that port or to any, and permits it; a violation otherwise, which freezes the peer and is refused with a NAK
(R311, R312). -/
def State.fromPeerForm (s : State) (j : Instr) (peer : Fin 4096) (port : Fin 18) (permits : Word → Bool) (f : Word → State) : Prop :=
  let e := wayGet s.mgmt.acl peer.val
  let p := (e.extractLsb' 0 5).toNat
  let up := s.powered = true ∧ s.mgmt.links.getLsbD (1 + port.val) = true
  let may := e.getLsbD 63 = true ∧ e.getLsbD 60 = false ∧ (p = port.val ∨ p = 31) ∧ permits e = true
  (¬ up → exec j s = .next s) ∧ (up → ¬ may → exec j s = .next ((s.freezePeer peer.val port.val).respond (fabPort port) .nak)) ∧ (up → may → exec j s = .next (f e))

end Sys2Proof.Machine
end

