-- ==== Sys2Proof/Certificates/Slice0/Obligations.lean ====
section
/-! DEFINITION. The statements for the provers. Each docstring names the rules of the spec that the statement rests on. -/

open Sys2Proof Sys2Proof.Machine

/-! ### The S slot -/

/-- R107, R109, R110: with its guard true, each integer form of two scalars, and CLZ, POPC and LEA, and each immediate form completes: the
whole next state is the old one with one more result in flight, for s_d, with the latency of the table. Nothing else changes; s_d itself
changes at the landing (`LandedResults`). An imm8 or imm14 is sign-extended, with its literal from 32 bits; LIH takes its immediate
without sign. -/
def Obligations.ScalarIntegerResults : Prop :=
  ∀ (s : State) (g : PReg) (d a b : SReg) (lo : BitVec 8) (lo14 : BitVec 14) (p : BitVec 24) (n : Fin 64), s.core.g0 g = true →
    let x := s.core.s a
    let y := s.core.s b
    let lands (lat : Nat) (v : Word) : Out := .next (s.onCur fun c => c.fly lat 0 (.scalar d v))
    let form (i : Imm8) (v : Word) : Prop :=
      exec (.addi g d a i) s = lands 1 (x + v) ∧ exec (.andi g d a i) s = lands 1 (x &&& v) ∧
      exec (.ori g d a i) s = lands 1 (x ||| v) ∧ exec (.xori g d a i) s = lands 1 (x ^^^ v)
    exec (.add g d a b) s = lands 1 (x + y) ∧
    exec (.sub g d a b) s = lands 1 (x - y) ∧
    exec (.mul g d a b) s = lands 3 (BitVec.ofNat 64 (x.toNat * y.toNat)) ∧
    exec (.mulh g d a b) s = lands 3 (BitVec.ofInt 64 ((x.toInt * y.toInt) / 2 ^ 64)) ∧
    exec (.mulhu g d a b) s = lands 3 (BitVec.ofNat 64 (x.toNat * y.toNat / 2 ^ 64)) ∧
    exec (.and g d a b) s = lands 1 (x &&& y) ∧
    exec (.or g d a b) s = lands 1 (x ||| y) ∧
    exec (.xor g d a b) s = lands 1 (x ^^^ y) ∧
    exec (.andn g d a b) s = lands 1 (x &&& ~~~y) ∧
    exec (.shl g d a b) s = lands 1 (x <<< (y.toNat % 64)) ∧
    exec (.shr g d a b) s = lands 1 (x >>> (y.toNat % 64)) ∧
    exec (.sra g d a b) s = lands 1 (x.sshiftRight (y.toNat % 64)) ∧
    exec (.min g d a b) s = lands 1 (if y.toInt < x.toInt then y else x) ∧
    exec (.max g d a b) s = lands 1 (if x.toInt < y.toInt then y else x) ∧
    exec (.minu g d a b) s = lands 1 (if y < x then y else x) ∧
    exec (.maxu g d a b) s = lands 1 (if x < y then y else x) ∧
    exec (.sel g d a b) s = lands 1 (if s.core.s d = 0 then y else x) ∧
    exec (.clz g d a) s = lands 1 (if x = 0 then 64 else BitVec.ofNat 64 (63 - Nat.log2 x.toNat)) ∧
    exec (.popc g d a) s = lands 1 (BitVec.ofNat 64 (((List.range 64).filter fun i => x.getLsbD i).length)) ∧
    (∀ k : Fin 4, exec (.lea g d a b k) s = lands 1 (x + (y <<< [0, 2, 3, 4].getD k.val 0))) ∧
    form ⟨lo, none⟩ (lo.signExtend 64) ∧ form ⟨lo, some p⟩ ((p ++ lo).signExtend 64) ∧
    exec (.shli g d a n) s = lands 1 (x <<< n.val) ∧ exec (.shri g d a n) s = lands 1 (x >>> n.val) ∧
    exec (.srai g d a n) s = lands 1 (x.sshiftRight n.val) ∧
    exec (.li g d ⟨lo14, none⟩) s = lands 1 (lo14.signExtend 64) ∧
    exec (.li g d ⟨lo.setWidth 14, some p⟩) s = lands 1 ((p ++ lo).signExtend 64) ∧
    exec (.lih g d ⟨lo14, none⟩) s = lands 1 ((lo14.setWidth 64 <<< 32) ||| (s.core.s d &&& 0xFFFFFFFF)) ∧
    exec (.lih g d ⟨lo.setWidth 14, some p⟩) s = lands 1 (((p ++ lo).setWidth 64 <<< 32) ||| (s.core.s d &&& 0xFFFFFFFF))

/-- R108: the division forms, division by zero and the one overflow included; no operand raises a trap. -/
def Obligations.DivisionResults : Prop :=
  ∀ (s : State) (g : PReg) (d a b : SReg), s.core.g0 g = true →
    let x := s.core.s a
    let y := s.core.s b
    let lands (v : Word) : Out := .next (s.onCur fun c => c.fly 20 0 (.scalar d v))
    (y = 0 →
      exec (.div g d a b) s = lands 0xFFFFFFFFFFFFFFFF ∧ exec (.divu g d a b) s = lands 0xFFFFFFFFFFFFFFFF ∧
      exec (.rem g d a b) s = lands x ∧ exec (.remu g d a b) s = lands x) ∧
    (y ≠ 0 → ∃ q r : Int, ∃ p m : Nat,
      q = x.toInt.tdiv y.toInt ∧ x.toInt = q * y.toInt + r ∧ r.natAbs < y.toInt.natAbs ∧ (r = 0 ∨ (r < 0 ↔ x.toInt < 0)) ∧
      x.toNat = p * y.toNat + m ∧ m < y.toNat ∧
      exec (.div g d a b) s = lands (BitVec.ofInt 64 q) ∧ exec (.rem g d a b) s = lands (BitVec.ofInt 64 r) ∧
      exec (.divu g d a b) s = lands (BitVec.ofNat 64 p) ∧ exec (.remu g d a b) s = lands (BitVec.ofNat 64 m)) ∧
    (x = 0x8000000000000000 → y = 0xFFFFFFFFFFFFFFFF →
      exec (.div g d a b) s = lands 0x8000000000000000 ∧ exec (.rem g d a b) s = lands 0)

/-- R28, R111: with its guard true, a scalar compare completes: a true result is on its way to all 64 bits of pd as ones, a false one as
zeros. The predicate is mapped at issue (R17). -/
def Obligations.CompareResults : Prop :=
  ∀ (s : State) (g d : PReg) (a b : SReg) (i : Imm8) (n : Fin 64), s.core.g0 g = true →
    let x := s.core.s a
    let y := s.core.s b
    let lands (v : Prop) [Decidable v] : Out :=
      .next (s.onCur fun c => c.fly 1 0 (.pred (c.physP d) (BitVec.allOnes 64) (if v then BitVec.allOnes 64 else 0)))
    exec (.cmpeq g d a b) s = lands (x = y) ∧ exec (.cmpne g d a b) s = lands (x ≠ y) ∧
    exec (.cmplt g d a b) s = lands (x.toInt < y.toInt) ∧ exec (.cmpltu g d a b) s = lands (x.toNat < y.toNat) ∧
    exec (.cmple g d a b) s = lands (x.toInt ≤ y.toInt) ∧ exec (.cmpleu g d a b) s = lands (x.toNat ≤ y.toNat) ∧
    exec (.cmpeqi g d a i) s = lands (x = imm8Sext i) ∧ exec (.cmplti g d a i) s = lands (x.toInt < (imm8Sext i).toInt) ∧
    exec (.pbit g d a n) s = lands (x.getLsbD n.val = true)

/-- R112: the predicate forms, bit by bit on all 64 bits, with latency 1; p0 reads all ones. -/
def Obligations.PredicateForms : Prop :=
  ∀ (s : State) (g d a b : PReg), s.core.g0 g = true →
    let x := s.core.pr a
    let y := s.core.pr b
    let lands (v : Word) : Out := .next (s.onCur fun c => c.fly 1 0 (.pred (c.physP d) (BitVec.allOnes 64) v))
    exec (.pand g d a b) s = lands (x &&& y) ∧ exec (.por g d a b) s = lands (x ||| y) ∧
    exec (.pxor g d a b) s = lands (x ^^^ y) ∧ exec (.pandn g d a b) s = lands (x &&& ~~~y) ∧
    exec (.pnot g d a) s = lands (~~~x) ∧ s.core.pr 0 = BitVec.allOnes 64

/-- R113, R114, R95: a scalar load whose bytes lie in granted pitches, aligned and on a line without poison, completes with the bytes as they
stand at issue on their way to s_d with latency 4; a scalar store in granted pitches and aligned completes with its bytes, read from s_d
at issue, on their way to the address EA, to land at the end of the issue cycle and to clear the line's clean bit. Otherwise each raises
the first fault of R114's order. What lands where, and that no other byte changes, `LandedResults` says. -/
def Obligations.ScalarMemoryForms : Prop :=
  ∀ (s : State) (g : PReg) (d a : SReg) (i : Imm8), s.core.g0 g = true →
    let e := (s.core.s a + imm8Sext i).toNat
    let inside (n : Nat) : Prop := e < 0x400000 ∧ e + n ≤ s.core.granted
    let lands (v : Word) : Out := .next (s.onCur fun c => c.fly 4 0 (.scalar d v))
    let traps (z : Cause) : Out := .next (s.onCur fun c => c.raise 0 z)
    let load (j : Instr) (n : Nat) (v : Word) : Prop :=
      (inside n → e % n = 0 → s.core.poisonAt e = false → exec j s = lands v) ∧ (¬ inside n → exec j s = traps .bounds) ∧
      (inside n → e % n ≠ 0 → exec j s = traps .align) ∧
      (inside n → e % n = 0 → s.core.poisonAt e = true → exec j s = traps .poisonUse)
    let store (j : Instr) (n : Nat) : Prop :=
      (inside n → e % n = 0 → exec j s = .next (s.onCur fun c =>
        c.fly 1 0 (.store (c.ctx.phys e) (BitVec.ofNat 256 (2 ^ n - 1)) ((c.s d).setWidth 2048) .dirty))) ∧
      (¬ inside n → exec j s = traps .bounds) ∧ (inside n → e % n ≠ 0 → exec j s = traps .align)
    load (.ldb g d a i) 1 ((BitVec.ofNat 8 (s.core.load e 1)).signExtend 64) ∧
    load (.ldbz g d a i) 1 (BitVec.ofNat 64 (s.core.load e 1)) ∧
    load (.ldw g d a i) 4 ((BitVec.ofNat 32 (s.core.load e 4)).signExtend 64) ∧
    load (.ldwz g d a i) 4 (BitVec.ofNat 64 (s.core.load e 4)) ∧
    load (.ldd g d a i) 8 (BitVec.ofNat 64 (s.core.load e 8)) ∧
    store (.stb g d a i) 1 ∧ store (.stw g d a i) 4 ∧ store (.std g d a i) 8

/-- R15, R22, R52, R116: a taken branch sets the address of the bundle that follows two bubbles, and BRL and JMPL have A + 16 on its way
to s63. A jump to an address that is no multiple of 16 raises ALIGN and writes no link. -/
def Obligations.BranchForms : Prop :=
  ∀ (s : State) (g : PReg) (a : SReg) (disp : BitVec 20), s.core.g0 g = true →
    let pc := s.core.ctx.pc
    let x := s.core.s a
    let goes (t : Word) : Out := .next (s.onCur fun c => c.onRun fun r => { r with target := some t, bubbles := 2 })
    let calls (t : Word) : Out :=
      .next (s.onCur fun c => (c.onRun fun r => { r with target := some t, bubbles := 2 }).fly 1 0 (.scalar 63 (pc + 16)))
    exec (.br g disp) s = goes (pc + BitVec.ofInt 64 (16 * disp.toInt)) ∧
    exec (.brl g disp) s = calls (pc + BitVec.ofInt 64 (16 * disp.toInt)) ∧
    (x.toNat % 16 = 0 → exec (.jmp g a) s = goes x ∧ exec (.jmpl g a) s = calls x) ∧
    (x.toNat % 16 ≠ 0 → exec (.jmp g a) s = .next (s.onCur fun c => c.raise 0 .align) ∧
      exec (.jmpl g a) s = .next (s.onCur fun c => c.raise 0 .align))

/-- R29, R118, R119, R277: LOOP with no loop armed and no LOOP before it in its region, not checked where a names a register, and a count of
at most 2^32, arms the loop for the bundles after its own; each fault otherwise, SEGMENT-CHECK before BOUNDS. An executed CLOOP rotates
both files by one and takes the first of its three cases that applies; its changes land at the end of its cycle and it costs no bubble:
the count of bubbles is as before. Where a request or a cancel is pending and no drain has begun, the first CLOOP of an armed loop with
passes left begins the drain: it keeps the passes not started as rem, and goes on as with LCNT 0. With a false guard it does nothing.
That a CLOOP counts where LSTG.act is 0 is the pseudocode's reading (log 80). -/
def Obligations.LoopForms : Prop :=
  ∀ (s : State) (g : PReg) (d : Fin 64) (a : SReg) (i : Imm8) (disp : BitVec 20),
    let c := s.core
    let x := c.ctx.x
    let n := if a = 0 then i.zext.toNat else (c.s a).toNat
    let busy := x.lstg.getLsbD 7 = true ∨ ∃ r l, c.run.regions = r :: l ∧ (r.looped = true ∨ (r.checked ≠ none ∧ a ≠ 0))
    let target := c.ctx.pc + BitVec.ofInt 64 (16 * disp.toInt)
    let vrb := BitVec.ofNat 6 ((x.vrb.toNat + 47) % 48)
    let prb := BitVec.ofNat 5 ((x.prb.toNat + 23) % 24)
    let p8 := physPOf prb 8
    let epi := x.lstg.extractLsb' 0 6
    let drains := (c.run.preempt = true ∨ c.run.cancel = true) ∧ c.run.drain = none ∧ x.lstg.getLsbD 7 = true ∧ x.lcnt ≠ 0
    let lands (lcnt : BitVec 32) (lstg : BitVec 8) (ones : Word) (c : Core) : Core := c.fly 1 0 (.cloop vrb prb lcnt lstg p8 ones)
    let goes (c : Core) : Core := c.onRun fun r => { r with target := some target }
    let begins (c : Core) : Core := c.onRun fun r => { r with drain := some x.lcnt.toNat, stages := epi.toNat, loopTop := target }
    (s.core.g0 g = true →
      (busy → exec (.loop g d a i) s = .next (s.onCur fun c => c.raise 0 .segmentCheck)) ∧
      (¬ busy → n > 2 ^ 32 → exec (.loop g d a i) s = .next (s.onCur fun c => c.raise 0 .bounds)) ∧
      (¬ busy → n ≤ 2 ^ 32 → exec (.loop g d a i) s = .next (s.onCur fun c =>
        (c.onRegion fun r => { r with looped := true }).fly 1 0
          (.loop (BitVec.ofNat 32 (max n 1 - 1)) (0x80#8 ||| BitVec.ofNat 8 d.val) (c.physP 8) (if n = 0 then 0 else BitVec.allOnes 64))))) ∧
    (s.core.g0 g = false → exec (.cloop g disp) s = .next s) ∧
    (s.core.g0 g = true → ¬ drains →
      (x.lcnt ≠ 0 → exec (.cloop g disp) s = .next (s.onCur fun c => goes (lands (x.lcnt - 1) x.lstg (BitVec.allOnes 64) c))) ∧
      (x.lcnt = 0 → epi ≠ 0 → exec (.cloop g disp) s = .next (s.onCur fun c => goes (lands 0 (x.lstg - 1) 0 c))) ∧
      (x.lcnt = 0 → epi = 0 → exec (.cloop g disp) s = .next (s.onCur (lands 0 (x.lstg &&& 0x7F) 0)))) ∧
    (s.core.g0 g = true → drains →
      (epi ≠ 0 → exec (.cloop g disp) s = .next (s.onCur fun c => goes (lands 0 (x.lstg - 1) 0 (begins c)))) ∧
      (epi = 0 → exec (.cloop g disp) s = .next (s.onCur fun c => lands 0 (x.lstg &&& 0x7F) 0 (begins c))))

/-- R30, R122, R187, R329: a read of a special register at a privilege that may read it has the register's value on its way to s_d; a
write with a value the register accepts is on its way to the register, or for HPAT1 to HPAT7 in force for the whole package at once.
TVEC, TREC and HPATn raise PRIV at task privilege; a value that is not accepted raises ILLEGAL: the value of each register, and what each
refuses, is listed. That the refused value comes before the privilege, as in the order of R106, is the model's reading (log 63). -/
def Obligations.SpecialRegisterAccess : Prop :=
  ∀ (s : State) (g : PReg) (d a : SReg) (n : BitVec 8), s.core.g0 g = true →
    let c := s.core
    let v := c.s a
    let priv := c.ctx.x.priv
    let reserved := n = 0x10 ∨ n = 0x11 ∨ (0x18 ≤ n.toNat ∧ n.toNat ≤ 0x1F)
    let writable := n = 0x01 ∨ n = 0x02 ∨ n = 0x06 ∨ reserved ∨ (priv = true ∧ (n = 0x03 ∨ n = 0x04))
    (priv = false → reserved → exec (.rdsr g d n) s = .next (s.onCur fun c => c.raise 0 .priv)) ∧
    (priv = true ∨ ¬ reserved → exec (.rdsr g d n) s = .next (s.onCur fun c => c.fly 1 0 (.scalar d (s.readSpr n)))) ∧
    (¬ writable ∨ srBad n v = true → exec (.wrsr g a n) s = .next (s.onCur fun c => c.raise 0 .illegal)) ∧
    (writable → srBad n v = false → priv = false → reserved → exec (.wrsr g a n) s = .next (s.onCur fun c => c.raise 0 .priv)) ∧
    (writable → srBad n v = false → priv = true ∨ ¬ reserved → n.toNat < 0x18 →
      exec (.wrsr g a n) s = .next (s.onCur fun c => c.fly 1 0 (.spr n v))) ∧
    (priv = true → n = 0x18 → exec (.wrsr g a n) s = .next s) ∧
    (priv = true → 0x18 < n.toNat → n.toNat ≤ 0x1F → srBad n v = false →
      exec (.wrsr g a n) s = .next { s with hpat := s.hpat.setIfInBounds (n.toNat - 0x18) v }) ∧
    (let x := c.ctx.x
     let reads (n : BitVec 8) (w : Word) : Prop := s.readSpr n = w
     reads 0x00 x.tick ∧ reads 0x01 (x.vrb.setWidth 64) ∧ reads 0x02 (x.prb.setWidth 64) ∧ reads 0x03 (x.lcnt.setWidth 64) ∧
      reads 0x04 (x.lstg.setWidth 64) ∧ (∀ t : TagId, (s.readSpr 0x05).getLsbD t.val = decide (c.ctx.tags[t].st = .complete)) ∧
      reads 0x06 x.srs ∧ reads 0x07 x.tid ∧ reads 0x08 (x.sib.setWidth 64) ∧ reads 0x09 (x.grp.setWidth 64) ∧
      reads 0x0A (BitVec.ofNat 64 (s.cur.val / 96 * 128 + s.cur.val % 96)) ∧
      ((s.readSpr 0x0B).toNat < 500 ∧ (s.now + (s.readSpr 0x0B).toNat) % 500 = 5 * (s.cur.val % 96)) ∧
      reads 0x0C x.emet ∧ reads 0x0D x.wuc ∧ reads 0x0E (if priv then 1 else 0) ∧ reads 0x10 x.tvec ∧ reads 0x11 x.trec ∧
      ∀ i : Fin 8, reads (BitVec.ofNat 8 (0x18 + i.val)) s.hpat[i]) ∧
    (srBad n v = true ↔ (n = 0x03 ∧ 2 ^ 32 ≤ v.toNat) ∨ (n = 0x04 ∧ v.getLsbD 6 = true) ∨ (n = 0x10 ∧ (v.toNat % 16 ≠ 0 ∨ 2 ^ 48 ≤ v.toNat)) ∨
      (n = 0x11 ∧ (v.toNat % 64 ≠ 0 ∨ 2 ^ 22 ≤ v.toNat)) ∨ (0x19 ≤ n.toNat ∧ n.toNat ≤ 0x1F ∧ ∃ k, k < 8 ∧
        let y := v.toNat / 2 ^ (8 * k) % 256
        y ≠ 0 ∧ (y < 13 ∨ 35 < y)))

/-- R16, R37, R120, R121, R266, R327, R328, R331, R332: NOP has no effect; REGION and REGIONC open a region whatever their guard, REGIONC's
checked against the count and the CRC bits it holds; END closes its region and issue ends; CALSYNC issues when CALNEXT reads 0 and freezes
its bundle otherwise; YIELD asks for a pre-emption at the end of its region where a ready launch of its level waits for a core, outside a
loop and outside a group, and does nothing otherwise; TRAP raises TRAP-INSTR with its code as the detail; SRET at supervisor privilege, with
a sound target at TREC + 8, ends its region, clears PRIV and goes to the target after two bubbles, and at task privilege raises PRIV. That
SRET raises BOUNDS where the bytes at TREC + 8 lie outside the granted pitches, and nothing for a poisoned line, is the model's reading
(log 52). -/
def Obligations.SystemForms : Prop :=
  ∀ (s : State) (g : PReg) (code imm : BitVec 8) (lit : BitVec 24),
    exec .nop s = .next s ∧
    exec (.region g) s = .next (s.onCur fun c => c.openRegion none) ∧
    exec (.regionc g imm lit) s = .next (s.onCur fun c => c.openRegion (some (lit ++ imm))) ∧
    (s.core.g0 g = true →
    (exec (.endTask g code) s = .next (s.onCur fun c =>
      (c.onRegion fun r => { r with ended := true, closed := true }).onRun fun r =>
        { r with openNext := true, phase := .ended, code := code })) ∧
    let c := s.core
    let e := c.ctx.x.trec.toNat + 8
    let t : Word := BitVec.ofNat 64 (c.load e 8)
    (calNext s.now s.cur = 0 → exec (.calsync g) s = .next s) ∧
    (calNext s.now s.cur ≠ 0 → exec (.calsync g) s = .next (s.onCur fun c => c.freeze 8)) ∧
    let wanted := s.wantsCore (((s.launchOn s.cur).map (·.lrec.prio)).getD 0)
    (c.ctx.x.lstg.getLsbD 7 = false → c.ctx.x.grp = 0 → c.run.cancel = false → wanted = true →
      exec (.yield g) s = .next (s.onCur fun c => c.onRun fun r => { r with yielded := some c.regionId })) ∧
    (c.ctx.x.lstg.getLsbD 7 = true ∨ c.ctx.x.grp ≠ 0 ∨ c.run.cancel = true ∨ wanted = false → exec (.yield g) s = .next s) ∧
    exec (.trap g code) s = .next (s.onCur fun c => c.raise 0 .trapInstr (code.setWidth 32)) ∧
    (c.ctx.x.priv = false → exec (.sret g) s = .next (s.onCur fun c => c.raise 0 .priv)) ∧
    (c.ctx.x.priv = true → c.inBounds e 8 = false → exec (.sret g) s = .next (s.onCur fun c => c.raise 0 .bounds)) ∧
    (c.ctx.x.priv = true → c.inBounds e 8 = true → t.extractLsb' 48 16 ≠ 0 ∨ t.toNat % 16 ≠ 0 →
      exec (.sret g) s = .next (s.onCur fun c => c.raise 0 .align)) ∧
    (c.ctx.x.priv = true → c.inBounds e 8 = true → t.extractLsb' 48 16 = 0 → t.toNat % 16 = 0 →
      exec (.sret g) s = .next (s.onCur fun c => (((c.fly 1 0 (.spr 0x0E 0)).onRegion fun r => { r with closed := true }).onRun
        fun r => { r with openNext := true, target := some t, bubbles := 2 }))))

/-- R302, R330: TLBI at supervisor privilege, with operands its variant accepts, sends the shootdown of its scope at issue: every engine
and core drops what it covers, and what a walk under way has read of it; its region waits for it, and it for the writes of peers that have
been translated in its scope; its completion is due at a time that is not fixed. At task
privilege it raises PRIV, with a refused operand ILLEGAL; that ILLEGAL comes first is the model's reading (log 63), and the completion's time
is log 9. -/
def Obligations.ShootdownSent : Prop :=
  ∀ (s : State) (g : PReg) (d a b : SReg) (v : Fin 4), s.core.g0 g = true →
    let c := s.core
    let k : Shoot :=
      { id := s.orders, core := s.cur, region := c.regionId, space := if v = 2 then none else some ((c.s d).setWidth 16)
        lo := if v = 0 then (c.s a).toNat else 0, hi := if v = 0 then (c.s a).toNat + (c.s b).toNat else 2 ^ 48, waits := [] }
    let k' := { k with waits := s.translated k }
    (tlbiBad v (c.s d) (c.s a) (c.s b) = true → exec (.tlbi g d a b v) s = .next (s.onCur fun c => c.raise 0 .illegal)) ∧
    (tlbiBad v (c.s d) (c.s a) (c.s b) = false → c.ctx.x.priv = false →
      exec (.tlbi g d a b v) s = .next (s.onCur fun c => c.raise 0 .priv)) ∧
    (tlbiBad v (c.s d) (c.s a) (c.s b) = false → c.ctx.x.priv = true → ∃ t : State, exec (.tlbi g d a b v) s = .next t ∧
      t.shoots = s.shoots ++ [k'] ∧ t.orders = s.orders + 1 ∧ t.inbox.length = s.inbox.length ∧
      (∀ (i : Nat) (x y : Inbound), s.inbox[i]? = some x → t.inbox[i]? = some y → y = { x with shoots := y.shoots } ∧
        y.shoots = if k'.covers x.space x.va then s.orders :: x.shoots else x.shoots) ∧
      (∀ i : Fin 48, t.sites[i].tlb = (s.sites[i].tlb.filter fun e => !k'.meets e.tag e.level e.page) ∧ t.sites[i].records = s.sites[i].records) ∧
      (∀ x, t.isDropped x = true ↔ s.isDropped x = true ∨ x ∈ s.walkers k') ∧
      t.agenda = s.agenda ++ [(s.now + 1 + Config.delay s.free, .dev .shootdownComplete (.shoot s.orders))] ∧
      (∀ i : CoreId, t.cores[i].icache = s.cores[i].icache.filter fun l => !k'.covers l.space l.addr) ∧
      (∀ i : CoreId, t.cores[i].ctx = s.cores[i].ctx ∧ t.cores[i].sram = s.cores[i].sram) ∧
      t.core.run.regions = (c.onRegion fun r => { r with tlbis := s.orders :: r.tlbis }).run.regions ∧
      t.hbm = s.hbm ∧ t.host = s.host ∧ t.hpat = s.hpat ∧ t.tasks = s.tasks ∧ t.sync = s.sync)

/-! ### The V slot -/

/-- R33: the tag a vector write lands with, by the destination's tag at issue, and FORMAT as none: rt is the form's ordinary result tag,
whether or not a source is POISON; a write of every bit takes the result tag whatever the destination held. That a POISON destination of a
narrowing form is no FORMAT is the model's reading (log 81). -/
def Obligations.PartialWriteTags : Prop :=
  ∀ (old rt : Tag) (pois : Bool),
    let res : Tag := if pois then .poison else rt
    writeTag .clean rt false pois = some res ∧
    (rt ≠ .poison → writeTag rt rt false pois = some res) ∧
    writeTag .poison rt false pois = some .poison ∧
    (old ≠ .clean → old ≠ rt → old ≠ .poison → writeTag old rt false pois = none) ∧
    writeTag old rt true pois = some res

/-- R140, R147, R148, R149: the F32 and BF16 forms, the approximate functions, square root and division, and the F32 reductions. What an
overflow under rounding toward zero becomes in an approximate function is the model's reading (log 71). -/
def Obligations.VectorFloatResults : Prop :=
  ∀ (s : State) (g : PReg) (d a b : VReg),
    let c := s.core
    let gm := c.pr g
    let x := c.vr a
    let y := c.vr b
    let z := c.vr d
    let p (v : VecR) : Bool := v.tag == .poison
    let no (v : VecR) (t : Tag) : Bool := !(v.tag == t || v.tag == .clean || v.tag == .poison)
    let two (j : Instr) (lat : Nat) (t : Tag) (f : Half → Half → Half) : Prop :=
      s.vecLands j lat gm allBits d t (p x || p y) (no x t || no y t) 0 (ofLanes fun i => f (lane x.bits i) (lane y.bits i))
    let three (j : Instr) (lat : Nat) (t : Tag) (f : Half → Half → Half → Half) : Prop :=
      s.vecLands j lat gm allBits d t (p x || p y || p z) (no x t || no y t || no z t) 0
        (ofLanes fun i => f (lane x.bits i) (lane y.bits i) (lane z.bits i))
    let one (j : Instr) (lat : Nat) (f : Half → Half) : Prop :=
      s.vecLands j lat gm allBits d .f32 (p x) (no x .f32) 0 (ofLanes fun i => f (lane x.bits i))
    let f (u : Half) : Flt := fltOf .f32 u.toNat
    let all (j : Instr) (op : Half → Half → Half) : Prop :=
      s.vecLands j 8 gm allBits d .f32 (p x) (no x .f32) 0 (ofLanes fun _ => treeReduce op x.bits)
    two (.vaddF32 g d a b) 4 .f32 (f32op (addCode .f32)) ∧ two (.vsubF32 g d a b) 4 .f32 (f32op (subCode .f32)) ∧
    two (.vmulF32 g d a b) 4 .f32 (f32op (mulCode .f32)) ∧
    three (.vfmaF32 g d a b) 5 .f32 (fun u v w => BitVec.ofNat 32 (fmaCode .f32 u.toNat v.toNat w.toNat)) ∧
    three (.vfmsF32 g d a b) 5 .f32 (fun u v w => BitVec.ofNat 32 (rneOf .f32 false (fltAdd (f w) (fltNeg (fltMul (f u) (f v)))))) ∧
    two (.vminF32 g d a b) 2 .f32 (f32op (minmax false)) ∧ two (.vmaxF32 g d a b) 2 .f32 (f32op (minmax true)) ∧
    one (.vabsF32 g d a) 2 (· &&& 0x7FFFFFFF) ∧ one (.vnegF32 g d a) 2 (· ^^^ 0x80000000) ∧
    two (.vaddBf16 g d a b) 4 .bf16 (bf16op (addCode .bf16)) ∧ two (.vmulBf16 g d a b) 4 .bf16 (bf16op (mulCode .bf16)) ∧
    three (.vfmaBf16 g d a b) 4 .bf16 (fun u v w => BitVec.ofNat 32
      (fmaCode .bf16 (u.toNat % 65536) (v.toNat % 65536) (w.toNat % 65536) +
        65536 * fmaCode .bf16 (u.toNat / 65536) (v.toNat / 65536) (w.toNat / 65536))) ∧
    one (.vrsqaF32 g d a) 6 (fun u => BitVec.ofNat 32 (rsqa (f u))) ∧ one (.vrcpaF32 g d a) 6 (fun u => BitVec.ofNat 32 (rcpa (f u))) ∧
    one (.vexp2aF32 g d a) 6 (fun u => BitVec.ofNat 32 (exp2a (f u))) ∧
    one (.vlog2aF32 g d a) 6 (fun u => BitVec.ofNat 32 (log2a (f u))) ∧
    one (.vsqrtF32 g d a) 18 (fun u => BitVec.ofNat 32 (sqrtCode (f u))) ∧
    two (.vdivF32 g d a b) 18 .f32 (fun u v => BitVec.ofNat 32 (divCode (f u) (f v))) ∧
    all (.vredaddF32 g d a) (f32op (addCode .f32)) ∧ all (.vredmaxF32 g d a) (f32op (minmax true))

/-- R125, R141, R149: the integer, shift and bitwise forms. The bitwise forms pass their tag and need tags that do not differ. That the
ordinary passed tag is that of the first source neither CLEAN nor POISON is the model's reading (log 43). -/
def Obligations.VectorIntegerResults : Prop :=
  ∀ (s : State) (g : PReg) (d a b : VReg),
    let c := s.core
    let gm := c.pr g
    let x := c.vr a
    let y := c.vr b
    let p (v : VecR) : Bool := v.tag == .poison
    let no (v : VecR) : Bool := !(v.tag == .i32 || v.tag == .clean || v.tag == .poison)
    let two (j : Instr) (f : Half → Half → Half) : Prop :=
      s.vecLands j 2 gm allBits d .i32 (p x || p y) (no x || no y) 0 (ofLanes fun i => f (lane x.bits i) (lane y.bits i))
    let bits (j : Instr) (v : Line) : Prop :=
      s.vecLands j 2 gm allBits d (passedTag [x.tag, y.tag]) (p x || p y)
        (!(x.tag == y.tag || x.tag == .clean || y.tag == .clean || p x || p y)) 0 v
    two (.vaddI32 g d a b) (· + ·) ∧ two (.vsubI32 g d a b) (· - ·) ∧ two (.vmulI32 g d a b) (· * ·) ∧
    two (.vmulhI32 g d a b) (fun u v => BitVec.ofInt 32 (u.toInt * v.toInt / 2 ^ 32)) ∧
    bits (.vand g d a b) (x.bits &&& y.bits) ∧ bits (.vor g d a b) (x.bits ||| y.bits) ∧ bits (.vandn g d a b) (x.bits &&& ~~~y.bits) ∧
    two (.vshlI32 g d a b) (fun u v => u <<< (v.toNat % 32)) ∧ two (.vshrI32 g d a b) (fun u v => u >>> (v.toNat % 32)) ∧
    two (.vsraI32 g d a b) (fun u v => u.sshiftRight (v.toNat % 32)) ∧
    two (.vminI32 g d a b) (fun u v => if v.toInt < u.toInt then v else u) ∧
    two (.vmaxI32 g d a b) (fun u v => if u.toInt < v.toInt then v else u) ∧
    s.vecLands (.vredaddI32 g d a) 8 gm allBits d .i32 (p x) (no x) 0 (ofLanes fun _ => treeReduce (· + ·) x.bits)

/-- R130, R142, R150, R151, R152: selects, moves, splats and permutes; RNS data from a scalar must be a canonical container, else FORMAT. VMOVV has
lane s_b[5:0] of va, zero-extended, on its way to s_d when the guard bit of that lane is 1, and raises POISON-USE for a POISON va. VERASE
zeroes the executed lanes and makes vd CLEAN when all 64 execute, leaving the tag otherwise, at 24 fJ a lane of a register that is not
CLEAN; VRETAG changes the tag alone, and that of no CLEAN or POISON register. That the ordinary passed tag of VSEL, VPERM, VMOV and
VBCASTL is that of the first source neither CLEAN nor POISON is the model's reading (log 43). -/
def Obligations.VectorMoveResults : Prop :=
  ∀ (s : State) (g : PReg) (d a b : VReg) (e f : SReg) (t : Fin 4) (n : Fin 64) (code : Fin 16),
    let c := s.core
    let gm := c.pr g
    let x := c.vr a
    let y := c.vr b
    let z := c.vr d
    let p (v : VecR) : Bool := v.tag == .poison
    let w : Half := (c.s e).setWidth 32
    let notRns : Bool := t == 3 && !rnsCanon w
    s.vecLands (.vsel g d a b) 2 gm allBits d (passedTag [x.tag, y.tag]) (p x || p y || p z)
      (!(x.tag == y.tag || x.tag == .clean || y.tag == .clean || p x || p y)) 0
      (ofLanes fun i => if lane z.bits i != 0 then lane x.bits i else lane y.bits i) ∧
    s.vecLands (.vmov g d a) 2 gm allBits d (passedTag [x.tag]) (p x) false 0 x.bits ∧
    s.vecLands (.vsplat g d e t) 2 gm allBits d (selTag t) false notRns 0 (ofLanes fun _ => w) ∧
    s.vecLands (.vmovs g d e t n) 2 (gm &&& BitVec.twoPow 64 n.val) allBits d (selTag t) false notRns 0 (ofLanes fun _ => w) ∧
    s.vecLands (.vbcastl g d a n) 3 gm allBits d (passedTag [x.tag]) (p x) false 0 (ofLanes fun _ => lane x.bits n.val) ∧
    s.vecLands (.vperm g d a b) 3 gm allBits d (passedTag [x.tag, y.tag]) (p x || p y)
      (!(y.tag == .i32 || y.tag == .clean || p y) && y.tag != .raw) 0
      (ofLanes fun i => lane x.bits ((lane y.bits i).toNat % 64)) ∧
    (let m := (c.s e).toNat % 64
     (gm.getLsbD m = false → exec (.vmovv g f a e) s = .next s) ∧
     (gm.getLsbD m = true → x.tag = .poison → exec (.vmovv g f a e) s = .next (s.onCur fun c => c.raise 1 .poisonUse)) ∧
     (gm.getLsbD m = true → x.tag ≠ .poison → exec (.vmovv g f a e) s = .next (s.onCur fun c =>
      (c.meter 40).fly 2 1 (.scalar f ((lane x.bits m).setWidth 64))))) ∧
    (gm = 0 → exec (.verase g d) s = .next s ∧ exec (.vretag g d code) s = .next s) ∧
    (gm ≠ 0 → exec (.verase g d) s = .next (s.onCur fun c => (c.meter (if z.tag = .clean then 0 else 24 * popcount gm)).fly 2 1
      (.vec ⟨c.physV d, laneMask gm, 0, if gm = allLanes then some .clean else none, false, none, false, z.tag⟩))) ∧
    (gm ≠ 0 → z.tag = .clean ∨ z.tag = .poison → exec (.vretag g d code) s = .next s) ∧
    (gm ≠ 0 → z.tag ≠ .clean → z.tag ≠ .poison →
      exec (.vretag g d code) s = .next (s.onCur fun c => c.fly 2 1 (.vtag (c.physV d) (tagOfCode code.val))))

/-- R153: VTAGQ has the tag code of va, as it stands at issue, on its way to s_d with latency 2 when its guard enables a lane: it reads
POISON without a fault and is not metered; with no lane enabled it writes nothing. The codes are those of R31. -/
def Obligations.TagQuery : Prop :=
  ∀ (s : State) (g : PReg) (d : SReg) (a : VReg),
    let gm := s.core.pr g
    (gm = 0 → exec (.vtagq g d a) s = .next s) ∧
    ∀ p ∈ ([(.clean, 0), (.raw, 1), (.i32, 2), (.f32, 3), (.bf16, 4), (.fp8e4, 5), (.fp8e5, 6), (.fp4, 7), (.int8, 8), (.rns, 9),
      (.poison, 15)] : List (Tag × Word)), gm ≠ 0 → (s.core.vr a).tag = p.1 →
      exec (.vtagq g d a) s = .next (s.onCur fun c => c.fly 2 1 (.scalar d p.2))

/-- R28, R143: a vector compare whose sources carry its format has bit i from lane i on its way to pd for each executed lane, and leaves
the other bits; a POISON source raises POISON-USE, after FORMAT. That FORMAT is raised also under a guard that enables no lane is the
model's reading (log 44). -/
def Obligations.VectorCompares : Prop :=
  ∀ (s : State) (g d : PReg) (a b : VReg),
    let c := s.core
    let gm := c.pr g
    let x := c.vr a
    let y := c.vr b
    let f (u : Half) : Flt := fltOf .f32 u.toNat
    let form (j : Instr) (src : Tag) (op : Half → Half → Bool) : Prop :=
      let ok (v : VecR) : Prop := v.tag = src ∨ v.tag = .clean ∨ v.tag = .poison
      (¬ (ok x ∧ ok y) → exec j s = .next (s.onCur fun c => c.raise 1 .format)) ∧
      (gm = 0 → ok x → ok y → exec j s = .next s) ∧
      (gm ≠ 0 → ok x → ok y → x.tag = .poison ∨ y.tag = .poison → exec j s = .next (s.onCur fun c => c.raise 1 .poisonUse)) ∧
      (gm ≠ 0 → ok x → ok y → x.tag ≠ .poison → y.tag ≠ .poison → ∃ v : Word,
        (∀ i, i < 64 → v.getLsbD i = op (lane x.bits i) (lane y.bits i)) ∧
        exec j s = .next (s.onCur fun c => (c.meter (40 * popcount gm)).fly 2 1 (.pred (c.physP d) gm v)))
    form (.vcmpeqF32 g d a b) .f32 (fun u v => fltEq (f u) (f v)) ∧ form (.vcmpltF32 g d a b) .f32 (fun u v => fltLt (f u) (f v)) ∧
    form (.vcmpleF32 g d a b) .f32 (fun u v => fltLt (f u) (f v) || fltEq (f u) (f v)) ∧
    form (.vcmpunF32 g d a b) .f32 (fun u v => (f u).isNan || (f v).isNan) ∧
    form (.vcmpeqI32 g d a b) .i32 (fun u v => u == v) ∧ form (.vcmpltI32 g d a b) .i32 (fun u v => decide (u.toInt < v.toInt)) ∧
    form (.vcmpltuI32 g d a b) .i32 (fun u v => decide (u.toNat < v.toNat))

/-- R144, R145: the conversions that draw nothing. A narrowing one puts the pair of elements from va and vb in place x of each executed
lane; a widening one takes element k; rounding is to nearest, with saturation where the name says so. That a narrowing one over a CLEAN
register clears the rest of its lanes, and that one over a POISON register leaves it POISON and raises no FORMAT, are the model's readings
(logs 61, 81). -/
def Obligations.ConversionResults : Prop :=
  ∀ (s : State) (g : PReg) (d a b : VReg) (x2 : Fin 2) (x4 : Fin 4) (x8 : Fin 8),
    let c := s.core
    let gm := c.pr g
    let x := c.vr a
    let y := c.vr b
    let p (v : VecR) : Bool := v.tag == .poison
    let no (v : VecR) (t : Tag) : Bool := !(v.tag == t || v.tag == .clean || v.tag == .poison)
    let near (f : FltFmt) (sat : Bool) (u : Half) : Nat := rneOf f sat (fltOf .f32 u.toNat)
    let narrow (j : Instr) (w k : Nat) (src rt : Tag) (f : Half → Nat) : Prop :=
      s.vecLands j 3 gm (elemBits w k) d rt (p x || p y) (no x src || no y src) 0
        (ofLanes fun i => pairLane w k (f (lane x.bits i)) (f (lane y.bits i)))
    let wide (j : Instr) (src rt : Tag) (f : Half → Half) : Prop :=
      s.vecLands j 3 gm allBits d rt (p x) (no x src) 0 (ofLanes fun i => f (lane x.bits i))
    let up (f : FltFmt) (k : Nat) (u : Half) : Half := BitVec.ofNat 32 (rneOf .f32 false (fltOf f (u.toNat / 2 ^ (f.width * k) % 2 ^ f.width)))
    narrow (.vcvtBf16F32Rne g d a b) 16 0 .f32 .bf16 (near .bf16 false) ∧
    narrow (.vcvtFp8e4F32Rne g d a b x2) 8 x2.val .f32 .fp8e4 (near .e4m3 false) ∧
    narrow (.vcvtFp8e4F32Sat g d a b x2) 8 x2.val .f32 .fp8e4 (near .e4m3 true) ∧
    narrow (.vcvtFp8e5F32Rne g d a b x2) 8 x2.val .f32 .fp8e5 (near .e5m2 false) ∧
    narrow (.vcvtFp8e5F32Sat g d a b x2) 8 x2.val .f32 .fp8e5 (near .e5m2 true) ∧
    narrow (.vcvtFp4F32Rne g d a b x4) 4 x4.val .f32 .fp4 (near .fp4 true) ∧
    narrow (.vcvtInt8I32Sat g d a b x2) 8 x2.val .i32 .int8 (fun u => (max (-128) (min 127 u.toInt) % 256).toNat) ∧
    wide (.vcvtF32Bf16 g d a x2) .bf16 .f32 (up .bf16 x2.val) ∧ wide (.vcvtF32Fp8e4 g d a x4) .fp8e4 .f32 (up .e4m3 x4.val) ∧
    wide (.vcvtF32Fp8e5 g d a x4) .fp8e5 .f32 (up .e5m2 x4.val) ∧ wide (.vcvtF32Fp4 g d a x8) .fp4 .f32 (up .fp4 x8.val) ∧
    wide (.vcvtI32F32Rne g d a) .f32 .i32 (i32OfF32 true) ∧ wide (.vcvtI32F32Rtz g d a) .f32 .i32 (i32OfF32 false) ∧
    wide (.vcvtF32I32 g d a) .i32 .f32 (fun u => BitVec.ofNat 32 (roundRne .f32 false (decide (u.toInt < 0)) u.toInt.natAbs 0)) ∧
    wide (.vcvtI32Rns g d a) .rns .i32 (fun u => BitVec.ofInt 32 (crt u))

/-- R81, R83, R144, R145: a stochastic conversion on a core without a trap under way rounds each element with its own draw, two for each
executed lane in ascending order, and leaves SRS after its last draw; with a refused source, or a destination R33 refuses, it raises
FORMAT and draws nothing; a guard that enables no lane makes it do nothing. That SRS advances at issue, that a CLEAN register is written in
whole lanes, and that a POISON one stays so without a FORMAT, are the model's readings (logs 78, 61, 81). -/
def Obligations.StochasticConversions : Prop :=
  ∀ (s : State) (g : PReg) (d a b : VReg) (x2 : Fin 2) (x4 : Fin 4), s.core.run.trap = none →
    let c := s.core
    let gm := c.pr g
    let x := c.vr a
    let y := c.vr b
    let old := (c.vr d).tag
    let pois : Bool := x.tag == .poison || y.tag == .poison
    let no (v : VecR) : Bool := !(v.tag == .f32 || v.tag == .clean || v.tag == .poison)
    let ds := drawsFor c.ctx.x.srs (execLanes gm)
    let form (j : Instr) (w k : Nat) (rt : Tag) (f : FltFmt) (sat : Bool) : Prop :=
      let mask := if old = .clean then laneMask gm else laneMask gm &&& elemBits w k
      let tag := writeTag old rt (mask == allBits) pois
      let r (e v : Half) : Nat := srOf .f32 f sat e (fltOf .f32 v.toNat)
      let bits := ofLanes fun i => pairLane w k (r (drawOf i ds.2).1 (lane x.bits i)) (r (drawOf i ds.2).2 (lane y.bits i))
      (gm = 0 → exec j s = .next s) ∧
      (gm ≠ 0 → (no x || no y) = true ∨ tag = none → exec j s = .next (s.onCur fun c => c.raise 1 .format)) ∧
      (gm ≠ 0 → (no x || no y) = false → tag ≠ none → exec j s = .next (s.onCur fun c =>
        ((c.meter (dissipFj (popcount gm) old)).fly 3 1 (.vec ⟨c.physV d, mask, bits &&& elemBits w k, tag, false, none, false, old⟩)).onSpr
          fun v => { v with srs := ds.1 }))
    form (.vcvtBf16F32Sr g d a b) 16 0 .bf16 .bf16 false ∧
    form (.vcvtFp8e4F32Sr g d a b x2) 8 x2.val .fp8e4 .e4m3 false ∧ form (.vcvtFp8e4F32Srsat g d a b x2) 8 x2.val .fp8e4 .e4m3 true ∧
    form (.vcvtFp8e5F32Sr g d a b x2) 8 x2.val .fp8e5 .e5m2 false ∧ form (.vcvtFp8e5F32Srsat g d a b x2) 8 x2.val .fp8e5 .e5m2 true ∧
    form (.vcvtFp4F32Sr g d a b x4) 4 x4.val .fp4 .fp4 true

/-- R77, R146: VQMX, no trap under way: 128 values, four blocks of 32, each block's scale from its largest finite value, every value
quantised with saturation into the lanes of place x, and the four scale bytes to s_b. A source that is neither F32 nor CLEAN nor POISON, or
a destination R33 refuses, raises FORMAT, and then a POISON source POISON-USE. A guard that enables none of those lanes makes it do
nothing. What it writes over a CLEAN register and over a POISON one is the model's reading (logs 61, 81). -/
def Obligations.BlockQuantisation : Prop :=
  ∀ (s : State) (g : PReg) (d : VReg) (a : VPair) (b : SReg) (x2 : Fin 2) (x4 : Fin 4), s.core.run.trap = none →
    let c := s.core
    let p := c.vr (Fin.ofNat 64 (2 * a.val))
    let q := c.vr (Fin.ofNat 64 (2 * a.val + 1))
    let old := (c.vr d).tag
    let no (v : VecR) : Bool := !(v.tag == .f32 || v.tag == .clean || v.tag == .poison)
    let vals := (List.range 128).map fun j => fltOf .f32 (if j < 64 then lane p.bits j else lane q.bits (j - 64)).toNat
    let form (j : Instr) (x : Nat) (f : FltFmt) (emax : Int) (rt : Tag) : Prop :=
      let per := 4 * f.width
      let gm := c.pr g &&& BitVec.ofNat 64 ((2 ^ per - 1) * 2 ^ (per * x))
      let mask := if old = .clean then laneMask gm else laneMask gm &&& allBits
      let tag := writeTag old rt (mask == allBits) false
      let scales := (List.range 4).map fun k => vqmxScale emax ((vals.drop (32 * k)).take 32)
      let codes := (List.range 128).map fun i => vqmxElem f (scales.getD (i / 32) 0) (vals.getD i .nan)
      let flat := codes.foldr (fun e acc => e % 2 ^ f.width + 2 ^ f.width * acc) 0
      let word := scales.foldr (fun k acc => (k % 256).toNat + 256 * acc) 0
      (gm = 0 → exec j s = .next s) ∧
      (gm ≠ 0 → s.checkedBy j 1 [(no p || no q || tag.isNone, .format), (p.tag == .poison || q.tag == .poison, .poisonUse)] fun c =>
        ((c.meter (dissipFj (popcount gm) old)).fly 3 1
          (.vec ⟨c.physV d, mask, BitVec.ofNat 2048 (flat * 2 ^ (128 * f.width * x)) &&& allBits, tag, false, none, false, old⟩)).fly 3 1
          (.scalar b (BitVec.ofNat 64 word)))
    form (.vqmxFp8e4 g d a b x2) x2.val .e4m3 8 .fp8e4 ∧ form (.vqmxFp4 g d a b x4) x4.val .fp4 2 .fp4

/-- R74, R135, R136, R138: the in-place reversible forms, carried out lane by lane, each at its ramp, without an erase metered; a register
that a full guard leaves zero lands CLEAN, and a POISON operand makes it POISON. A refused tag, and an RNS lane that is no canonical
container, raises FORMAT; VPERMR raises ILLEGAL before it where its guard or its indices are not those of a permutation of all lanes, and
VRNS.MULC for a constant it refuses, whatever its guard. That the lanes of a POISON operand are not tested is the model's reading
(log 45), and so is the MULC test under an empty guard (log 44). -/
def Obligations.ReversibleForms : Prop :=
  ∀ (s : State) (g : PReg) (d a : VReg) (b : SReg) (r : Ramp),
    let c := s.core
    let gm := c.pr g
    let x := c.vr d
    let y := c.vr a
    let p2 : Bool := x.tag == .poison || y.tag == .poison
    let no (v : VecR) (t : Tag) : Bool := !(v.tag == t || v.tag == .clean || v.tag == .poison)
    let lanes (f : Half → Half → Half) : Line := ofLanes fun i => f (lane x.bits i) (lane y.bits i)
    let stray (v : VecR) : Bool := v.tag != .poison && (execLanes gm).any fun i => !rnsCanon (lane v.bits i)
    let index : Bool := no y .i32 && y.tag != .raw
    let k : Half := (c.s b).setWidth 32
    let i32 (j : Instr) (f : Half → Half → Half) : Prop := s.revLands j r gm d .i32 p2 [(no x .i32 || no y .i32, .format)] (lanes f)
    let rns (j : Instr) (f : Half → Half → Half) : Prop :=
      s.revLands j r gm d .rns p2 [(no x .rns || no y .rns || stray x || stray y, .format)] (lanes f)
    s.revLands (.vxor g d a r) r gm d (if x.tag = .clean then y.tag else x.tag) p2
      [(!(x.tag == y.tag || x.tag == .clean || y.tag == .clean || p2), .format)] (x.bits ^^^ y.bits) ∧
    i32 (.vaddrI32 g d a r) (· + ·) ∧ i32 (.vsubrI32 g d a r) (· - ·) ∧
    s.revLands (.vnegrI32 g d r) r gm d .i32 (x.tag == .poison) [(no x .i32, .format)] (ofLanes fun i => -lane x.bits i) ∧
    s.revLands (.vrotl g d a r) r gm d x.tag p2 [(index, .format)] (lanes fun u v => u.rotateLeft (v.toNat % 32)) ∧
    s.revLands (.vpermr g d a r) r gm d x.tag p2 [(gm != allLanes || !isPermutation y.bits, .illegal), (index, .format)]
      (ofLanes fun i => lane x.bits ((lane y.bits i).toNat % 64)) ∧
    rns (.vrnsAdd g d a r) rnsAdd ∧ rns (.vrnsSub g d a r) rnsSub ∧
    s.revLands (.vrnsNeg g d r) r gm d .rns (x.tag == .poison) [(no x .rns || stray x, .format)] (ofLanes fun i => rnsNeg (lane x.bits i)) ∧
    (mulcOk (c.s b) = false → exec (.vrnsMulc g d b r) s = .next (s.onCur fun c => c.raise 1 .illegal)) ∧
    (mulcOk (c.s b) = true → s.revLands (.vrnsMulc g d b r) r gm d .rns (x.tag == .poison) [(no x .rns || stray x, .format)]
      (ofLanes fun i => rnsMul (lane x.bits i) k))

/-- R137, R139: exchanges and copying forms. VSWAP exchanges the lanes of its guard and, with a full guard, the tags; VCSWAP those lanes
where vb is not zero, between registers of one tag or with a CLEAN one, which takes the other's tag where a lane reaches it; both results
are one landing. VCOPY and VCVT.RNS.I32 write a CLEAN destination, which is checked at issue, whatever the guard (the model's reading,
log 44), and again at the landing. How the tags of a partial exchange land is the model's reading (log 45). -/
def Obligations.ExchangeAndCopyForms : Prop :=
  ∀ (s : State) (g : PReg) (d a b : VReg) (r : Ramp),
    let c := s.core
    let gm := c.pr g
    let x := c.vr d
    let y := c.vr a
    let z := c.vr b
    let ex := gm &&& nonZeroLanes z.bits
    let fj := 16 / rampL r * popcount gm
    let swap (j : Instr) (ex : Word) (td ta : Option Tag) : Prop :=
      let m := laneMask ex
      let x' := (x.bits &&& ~~~m) ||| (y.bits &&& m)
      let y' := (y.bits &&& ~~~m) ||| (x.bits &&& m)
      exec j s = .next (s.onCur fun c => (c.meter fj).fly (2 * rampL r) 1
        (.pair ⟨c.physV d, m, x', td, false, some fj, gm == allLanes && ex != 0, x.tag⟩
          ⟨c.physV a, m, y', ta, false, some 0, gm == allLanes && ex != 0, y.tag⟩))
    let copy (j : Instr) (t : Tag) (v : Line) : Prop :=
      exec j s = .next (s.onCur fun c => (c.meter fj).fly (2 * rampL r) 1
        (.vec ⟨c.physV d, laneMask gm, v, some (if y.tag = .poison then .poison else t), true, some fj, false, x.tag⟩))
    let i32 := y.tag = .i32 ∨ y.tag = .clean ∨ y.tag = .poison
    let needs (j : Instr) : Prop := exec j s = .next (s.onCur fun c => c.raise 1 .cleanRequired)
    (gm = 0 → exec (.vswap g d a r) s = .next s ∧ exec (.vcswap g d a b r) s = .next s) ∧
    (gm ≠ 0 → x.tag = .poison ∨ y.tag = .poison → swap (.vswap g d a r) gm (some .poison) (some .poison)) ∧
    (gm ≠ 0 → x.tag ≠ .poison → y.tag ≠ .poison →
      (x.tag = y.tag ∨ gm = allLanes → swap (.vswap g d a r) gm (some y.tag) (some x.tag)) ∧
      (x.tag ≠ y.tag → gm ≠ allLanes → exec (.vswap g d a r) s = .next (s.onCur fun c => c.raise 1 .format))) ∧
    (gm ≠ 0 → x.tag = .poison ∨ y.tag = .poison ∨ z.tag = .poison → swap (.vcswap g d a b r) ex (some .poison) (some .poison)) ∧
    (gm ≠ 0 → x.tag ≠ .poison → y.tag ≠ .poison → z.tag ≠ .poison →
      (ex = 0 → x.tag = y.tag ∨ gm = allLanes ∧ (x.tag = .clean ∨ y.tag = .clean) → swap (.vcswap g d a b r) ex none none) ∧
      (ex ≠ 0 → x.tag = y.tag → swap (.vcswap g d a b r) ex (some x.tag) (some x.tag)) ∧
      (ex ≠ 0 → gm = allLanes → x.tag = .clean → swap (.vcswap g d a b r) ex (some y.tag) (some y.tag)) ∧
      (ex ≠ 0 → gm = allLanes → y.tag = .clean → swap (.vcswap g d a b r) ex (some x.tag) (some x.tag)) ∧
      (x.tag ≠ y.tag → gm ≠ allLanes ∨ x.tag ≠ .clean ∧ y.tag ≠ .clean →
        exec (.vcswap g d a b r) s = .next (s.onCur fun c => c.raise 1 .format))) ∧
    (x.tag ≠ .clean → needs (.vcopy g d a r)) ∧ (x.tag ≠ .clean → gm = 0 ∨ i32 → needs (.vcvtRnsI32 g d a r)) ∧
    (gm ≠ 0 → ¬ i32 → exec (.vcvtRnsI32 g d a r) s = .next (s.onCur fun c => c.raise 1 .format)) ∧
    (gm = 0 → x.tag = .clean → exec (.vcopy g d a r) s = .next s ∧ exec (.vcvtRnsI32 g d a r) s = .next s) ∧
    (gm ≠ 0 → x.tag = .clean → copy (.vcopy g d a r) (passedTag [y.tag]) y.bits) ∧
    (gm ≠ 0 → x.tag = .clean → i32 → copy (.vcvtRnsI32 g d a r) .rns (ofLanes fun i => toRns (lane y.bits i).toInt))

/-- R74, R127, R129, R130: a vector load samples at issue the words of its executed lanes: they are on their way to vd with latency 6, POISON
from any poisoned line, at 320 fJ for each distinct line beside R123's energy; VBCST takes one word for every lane. A destination that R33
refuses, and for VBCST an RNS word that is no canonical container, raises FORMAT; then a word outside the granted pitches raises BOUNDS and
one that is misaligned ALIGN. -/
def Obligations.VectorLoads : Prop :=
  ∀ (s : State) (g : PReg) (d : VReg) (a b : SReg) (i : Imm8) (t : Fin 4),
    let c := s.core
    let gm := c.pr g
    let at_ (f : Nat → Nat) : List Nat := (execLanes gm).map f
    let outside (l : List Nat) : Bool := l.any fun e => decide (0x400000 ≤ e) || decide (c.granted < e + 4)
    let odd (l : List Nat) : Bool := l.any fun e => e % 4 != 0
    let lines (l : List Nat) : Nat := (distinct (l.map (· / 256))).length
    let reads (j : Instr) (tag : Tag) (l : List Nat) (bad : Bool) (v : Line) : Prop :=
      s.vecChecked j 6 gm allBits d tag (l.any c.poisonAt) bad [(outside l, .bounds), (odd l, .align)] (320 * lines l) v
    let e := (c.s a + imm8Sext i).toNat
    let unit (j : Instr) (tag : Tag) : Prop := reads j tag (at_ fun k => e + 4 * k) false (c.window e)
    let strided (k : Nat) : Nat := (c.s a + BitVec.ofNat 64 k * c.s b).toNat
    let e0 := (c.s a).toNat
    let w := c.word e0
    unit (.vldRaw g d a i) .raw ∧ unit (.vldI32 g d a i) .i32 ∧ unit (.vldF32 g d a i) .f32 ∧ unit (.vldBf16 g d a i) .bf16 ∧
    unit (.vldFp8e4 g d a i) .fp8e4 ∧ unit (.vldFp8e5 g d a i) .fp8e5 ∧ unit (.vldFp4 g d a i) .fp4 ∧ unit (.vldInt8 g d a i) .int8 ∧
    unit (.vldRns g d a i) .rns ∧
    reads (.vlds g d a b t) (selTag t) (at_ strided) false (ofLanes fun k => c.word (strided k)) ∧
    reads (.vbcst g d a t) (selTag t) [e0] (t == 3 && !outside [e0] && !odd [e0] && !rnsCanon w) (ofLanes fun _ => w)

/-- R114, R127, R128, R132, R133: a vector store with its executed lanes in granted pitches and an aligned address has those lanes' bytes on
their way to the one or two lines it touches, to land at the end of the issue cycle: a line written whole loses its poison, a POISON
source poisons the line; otherwise it raises BOUNDS, or else ALIGN. With no lane enabled it does nothing. A spill or a fill of n registers
tests its global address, BOUNDS before ALIGN, whatever its guard (the model's reading, log 44), and takes its place among the commands of
the engines, with the registers and their tags of this cycle, to complete 1,024 cycles on; with no lane enabled it moves nothing. -/
def Obligations.VectorStoresAndSpills : Prop :=
  ∀ (s : State) (g : PReg) (d : VReg) (a : SReg) (i : Imm8) (n : Fin 64),
    let c := s.core
    let gm := c.pr g
    let x := c.vr d
    let e := (c.s a + imm8Sext i).toNat
    let as := (execLanes gm).map fun k => e + 4 * k
    let outside : Bool := as.any fun e => decide (0x400000 ≤ e) || decide (c.granted < e + 4)
    let whole := gm = allLanes ∧ e % 256 = 0
    let eff : LineEff := if x.tag = .poison then .poisoned else if ¬ whole then .dirty else if x.tag = .clean then .cleaned else .full
    let fj := if eff = .cleaned then (if c.cleanAt e then 0 else 24 * 64)
      else 40 * popcount gm + 480 * (distinct (as.map (· / 256))).length
    let k := 256 - e % 256
    let m := byteMask gm
    let ga := c.s a
    let regs := (c.run16 d (n.val + 1)).map fun r => (r, c.ctx.v[r])
    let moved := 40 * (n.val + 1) * popcount gm
    let erase := (regs.filter fun r => r.2.tag != .clean).length * 24 * popcount gm
    let moves (j : Instr) (k : CopyKind) (fj : Nat) : Prop :=
      s.checkedBy j 1 [(ga.extractLsb' 48 16 != 0, .bounds), (ga.toNat % 256 != 0, .align)] fun c =>
        if gm = 0 then c else (c.meter fj).enqueue { c.newCmd k none none ga 0 0 with regs := regs, guard := gm }
    (gm = 0 → exec (.vst g d a i) s = .next s) ∧
    (gm ≠ 0 → s.checkedBy (.vst g d a i) 1 [(outside, .bounds), (e % 4 != 0, .align)] fun c =>
      ((c.meter fj).vstPart e (BitVec.ofNat 256 (m.toNat % 2 ^ k)) x.bits eff).vstPart (e + k) (BitVec.ofNat 256 (m.toNat / 2 ^ k))
        (x.bits >>> (8 * k)) eff) ∧
    moves (.vspill g d a n) .spill moved ∧ moves (.vfill g d a n) .fill (moved + erase)

/-! ### The M slot -/

/-- R155 to R160: a weight load whose buffer and port are free and whose operand passes the checks, in the order of R157, enters the
matrix unit in this matrix cycle with its energy metered; its scales are those of the issue cycle. Lines beyond the operand's n, and
blocks of a transposed load wholly beyond n, carry the scale -128, and so do the blocks a line of the format does not have: the model's
reading of R94, R159 and R161 (log 46). -/
def Obligations.WeightLoadForms : Prop :=
  ∀ (s : State) (g : PReg) (w : BufId) (a b : SReg) (r : Ramp) (v : Fin 4), s.core.g0 g = true →
    let c := s.core
    let d := descOf (c.s b)
    let n := d.rows
    let src := c.msrc (c.s a)
    let clean := c.ctx.w[w].clean
    let held := c.mheld fun o t => o.holdsLoad t || o.clears t w || o.reads t w
    let byte (k : Nat) : Nat := if d.off = 0 then 0 else c.load (src.addr + 256 * d.off + k) 1
    let enters (j : Instr) (k : MKind) (maxRows lines bytes : Nat) (scales : List (BitVec 128)) : Prop :=
      let x : MArg := ⟨src, d, lines, if d.off = 0 then 0 else bytes⟩
      let fj := 8192 * (8 / rampL r) + 320 * lines + (if clean then 0 else 24 * 8192)
      s.matrixForm j held
        [(d.high || decide (3 < d.swz) || src.illegal || !(decide (1 ≤ n) && decide (n ≤ maxRows)) || !(d.off == 0 || decide (lines ≤ d.off)),
            .illegal),
          (src.ringConfig, .ringConfig), (!c.argBounds x, .bounds), (!src.ring && src.addr % 256 != 0, .align),
          (src.ring && src.stamp != d.swz, .swizzle)]
        fun c => (c.meter fj).mstart { c.mop k (rampL r) n with
          dlines := lines, addr := src.addr, swz := Fin.ofNat 4 d.swz, scales := scales, rev := clean
          rowFj := (List.range 128).map fun j => 64 * (8 / rampL r) + (if j < lines then 320 else 0)
          poison := x.sbytes != 0 && c.poisonIn (src.addr + 256 * d.off) x.sbytes }
    let word (nb : Nat) (f : Nat → Nat) : BitVec 128 := BitVec.ofNat 128 ((List.range nb).foldr (fun i acc => f i + 256 * acc) (absentFrom nb))
    let plain (nb : Nat) : List (BitVec 128) :=
      (List.range n).map (fun i => word nb fun k => byte (nb * i + k)) ++ List.replicate (128 - n) scalesAbsent
    let across (nb : Nat) : List (BitVec 128) :=
      (List.range 128).map fun i => word nb fun k => if n ≤ 32 * k then 0x80 else byte (128 * k + i)
    enters (.wldBf16 g w a b r) (.wld w .bf16) 128 n (4 * n) (plain 4) ∧
    enters (.wldFp8e4 g w a b r) (.wld w .fp8e4) 128 n (8 * n) (plain 8) ∧
    enters (.wldFp8e5 g w a b r) (.wld w .fp8e5) 128 n (8 * n) (plain 8) ∧
    enters (.wldFp4 g w a b r) (.wld w .fp4) 128 n (16 * n) (plain 16) ∧
    enters (.wldInt8 g w a b r) (.wld w .int8) 128 n (8 * n) (plain 8) ∧
    enters (.wldt g w a b r v) (.wldt w ([.bf16, .fp8e4, .fp8e5, .int8].getD v.val .raw)) (if v = 0 then 128 else 256)
      (if v = 0 then n else (n + 1) / 2) (128 * ((n + 31) / 32)) (across (if v = 0 then 4 else 8))

/-- R155 to R158, R162, R164: an MMA form whose array and buffer are free and whose operands pass the checks enters the matrix unit,
with the energy of its active triples metered: 320 fJ and 32 MAC-steps a triple for each row that has one. The rows of a residue form must
be canonical, a test that waits for the checks of its scale bytes where it has any; that rows of a POISON tile are not tested, and scale
bytes of a poisoned line are, is the model's reading (log 45). -/
def Obligations.MatrixMultiplyForms : Prop :=
  ∀ (s : State) (g : PReg) (t : TileId) (w : BufId) (a b : SReg) (r : Ramp), s.core.g0 g = true →
    let c := s.core
    let d := descOf (c.s b)
    let m := d.rows
    let src := c.msrc (c.s a)
    let buf := c.ctx.w[w]
    let held := c.mheld fun o n => o.holdsArray n (rampL r) || o.loads n w || o.clears n w
    let accepts (x t : Tag) : Bool := x == t || x == .clean || x == .poison
    let enters (j : Instr) (f : MmaFmt) (nb : Nat) (bufTag tileTag : Tag) (res : Bool) : Prop :=
      let x : MArg := ⟨src, d, m, if d.off = 0 then 0 else nb * m⟩
      let scales := c.scaleRows x nb m
      let live (i : Nat) (b : Nat) : Nat := if scaleAt (scales.getD i 0) b = -128 then 0
        else (buf.scales.toList.filter fun y => scaleAt y b != -128).length
      let triples := (List.range m).map fun i => ((List.range nb).map (live i)).sum
      let fjs := triples.map fun k => if k = 0 then 0 else 320 + k * (32 * f.fj.1 / rampL r + f.fj.2)
      let fixed (y : BitVec 128) : Bool := (List.range nb).any fun b => scaleAt y b != 0 && scaleAt y b != -128
      let refusedRow := (List.range m).any fun i =>
        triples.getD i 0 != 0 && c.ctx.a[(tileRow t i).1].tag != .poison && !rowCanon (c.ctx.a[(tileRow t i).1].rowVal (tileRow t i).2)
      s.matrixForm j held
        [(d.high || decide (3 < d.swz) || src.illegal ||
              !(m % 8 == 0 && decide (8 ≤ m) && decide (m ≤ 256) && (decide (m ≤ 128) || t.val % 2 == 0)) ||
              !(d.off == 0 || decide (m ≤ d.off)), .illegal),
          (src.ringConfig, .ringConfig),
          (!accepts buf.tag bufTag || (tilesOf t m).any (fun k => !accepts c.ctx.a[k].tag tileTag) ||
              (res && (x.sbytes == 0 || (c.areaBounds x && !x.misaligned)) && refusedRow), .format),
          (!c.argBounds x, .bounds), (!src.ring && src.addr % 256 != 0, .align), (src.ring && src.stamp != d.swz, .swizzle),
          (res && (scales.any fixed || buf.scales.toList.any fixed), .scaleNotPermitted)]
        fun c => (c.meter fjs.sum).mstart { c.mop (.mma f w t) (rampL r) m with
          dlines := m, addr := src.addr, swz := Fin.ofNat 4 d.swz, scales := scales, live := triples.map (· != 0), rowFj := fjs
          rev := res, poison := buf.tag == .poison || (x.sbytes != 0 && c.poisonIn (src.addr + 256 * d.off) x.sbytes) }
    enters (.mmaBf16 g t w a b r) .bf16 4 .bf16 .f32 false ∧ enters (.mmaFp8e4 g t w a b r) .e4 8 .fp8e4 .f32 false ∧
    enters (.mmaFp8e5 g t w a b r) .e5 8 .fp8e5 .f32 false ∧ enters (.mmaFp4 g t w a b r) .fp4 16 .fp4 .f32 false ∧
    enters (.mmaI8r g t w a b r) .i8add 8 .int8 .rns true ∧ enters (.mmsI8r g t w a b r) .i8sub 8 .int8 .rns true

/-- R155, R156, R161, R166, R167, R168: WCLR and ACLR accept every tag and enter when their buffer or tile is free; AFILL makes its
checks; ASTAT never waits, is not metered and holds the word of the tile as its issue cycle finds it: how many rows are clean, the code of
the tag, and the events with the pending bits and clears of the regions, the newest last. -/
def Obligations.TileAndClearForms : Prop :=
  ∀ (s : State) (g : PReg) (t : TileId) (w : BufId) (a b : SReg), s.core.g0 g = true →
    let c := s.core
    let d := descOf (c.s b)
    let m := d.rows
    let src := c.msrc (c.s a)
    let ts := tilesOf t m
    let parts := List.zip ts (rowsIn m)
    let dirty (x : Tile) (n : Nat) : Nat := ((List.range n).filter fun i => !x.clean.getLsbD i).length
    let fill (j : Instr) (rns : Bool) (rt : Tag) : Prop :=
      let fj := 40 * 128 * m + 24 * 128 * ((parts.map fun p => dirty c.ctx.a[p.1] p.2).sum) + 320 * 2 * m
      s.matrixForm j (c.mheld fun o n => o.transfers n || ts.any (o.pendsTile n))
        [(d.high || decide (3 < d.swz) || src.illegal ||
              !(decide (1 ≤ m) && decide (m ≤ 256) && d.off == 0 && d.swz == 0 && !src.ring && (decide (m ≤ 128) || t.val % 2 == 0)), .illegal),
          (parts.any fun p => !(c.ctx.a[p.1].tag == rt || c.ctx.a[p.1].tag == .clean || c.ctx.a[p.1].tag == .poison) && p.2 != 128, .format),
          (!c.argBounds ⟨src, d, 2 * m, 0⟩, .bounds), (!src.ring && src.addr % 256 != 0, .align)]
        fun c => (c.meter fj).mstart { c.mop (.afill rns t) 1 m with
          dlines := 2 * m, addr := src.addr, live := [false, false], wasTag := ts.map fun k => c.ctx.a[k].tag }
    s.matrixForm (.wclr g w) (c.mheld fun o n => o.loads n w || o.reads n w) []
      (fun c => (c.meter (if c.ctx.w[w].clean then 0 else 196608)).mstart (c.mop (.wclr w) 1 0)) ∧
    s.matrixForm (.aclr g t) (c.mheld fun o n => o.pendsTile n t) []
      (fun c => (c.meter (3072 * dirty c.ctx.a[t] 128)).mstart (c.mop (.aclr t) 1 0)) ∧
    fill (.afillF32 g t a b) false .f32 ∧ fill (.afillRns g t a b) true .rns ∧
    exec (.astat g t a) s = .next (s.onCur fun c => c.mstart (c.mop (.astat a (c.astatWord t)) 1 0)) ∧
    (let y := c.ctx.a[t]
     let v := c.astatWord t
     (v.extractLsb' 44 20).toNat = 0 ∧
      (v.extractLsb' 36 8).toNat = ((List.range 128).filter fun i => y.clean.getLsbD i).length ∧
      (v.extractLsb' 32 4).toNat = (match y.tag with
        | .clean => 0 | .raw => 1 | .i32 => 2 | .f32 => 3 | .bf16 => 4 | .fp8e4 => 5 | .fp8e5 => 6 | .fp4 => 7 | .int8 => 8 | .rns => 9
        | .poison => 15) ∧
      v.extractLsb' 0 32 = c.run.regions.foldr (fun r e => (if r.cleared.getLsbD t.val then 0 else e) ||| r.raised[t]) y.events)

/-- R155, R156, R158, R169, R170: the drains into the core's own scratchpad. DRAIN.RNS is reversible exactly when every destination line
is clean at issue. -/
def Obligations.DrainForms : Prop :=
  ∀ (s : State) (g : PReg) (t : TileId) (a b : SReg), s.core.g0 g = true →
    let c := s.core
    let d := descOf (c.s b)
    let m := d.rows
    let src := c.msrc (c.s a)
    let ts := tilesOf t m
    let enters (j : Instr) (k : DrainKind) (bytes : Nat) (tag : Tag) (rev : Bool) : Prop :=
      s.matrixForm j (c.mheld fun o n => o.transfers n || ts.any (o.pendsTile n))
        [(!(decide (1 ≤ m) && decide (m ≤ 256) && d.off == 0 && d.swz == 0 && !d.high && !src.ring && !src.illegal &&
              (decide (m ≤ 128) || t.val % 2 == 0)), .illegal),
          (ts.any fun i => !(c.ctx.a[i].tag == tag || c.ctx.a[i].tag == .clean || c.ctx.a[i].tag == .poison), .format),
          (src.outside || !c.inBounds src.addr (bytes * m), .bounds), (src.addr % 256 != 0, .align)]
        fun c => (c.meter ((if rev then 8 else 40) * 128 * m)).mstart { c.mop (.drain k t 0) 1 m with
          addr := src.addr, rev := rev, rowFj := [(if rev then 8 else 40) * 128], wasTag := ts.map fun i => c.ctx.a[i].tag }
    enters (.drainF32 g t a b) .f32 512 .f32 false ∧ enters (.drainBf16 g t a b) .bf16 256 .f32 false ∧
    enters (.drainRns g t a b) .rns 512 .rns ((List.range (2 * m)).all fun i => c.cleanAt (src.addr + 256 * i)) ∧
    enters (.drainI32 g t a b) .i32 512 .rns false

/-- R158, R171: with no trap under way and nothing frozen, a drain-add whose port and tile are free, and its buffer unless its own region
holds it, is tested in this order: a second one in the region raises SEGMENT-CHECK, a target that does not hold a task of the same launch
granted every destination byte BOUNDS. Otherwise it enters the matrix unit, marks its region and holds the drain-add buffer for the
target's task. That a second one is tested and not held is the model's reading (log 46). -/
def Obligations.DrainAddForms : Prop :=
  ∀ (s : State) (g : PReg) (t : TileId) (w : BufId) (a b : SReg) (x : Fin 4), s.core.g0 g = true →
    s.core.run.trap = none → s.core.run.frozen = [] →
    let c := s.core
    let d := descOf (c.s b)
    let m := d.rows
    let src := c.msrc (c.s a)
    let ts := tilesOf t m
    let n : Fin 8 := Fin.ofNat 8 (4 * w.val + x.val)
    let k : CoreId := Fin.ofNat 384 (s.cur.val / 8 * 8 + n.val)
    let second := ∃ r l, c.run.regions = r :: l ∧ r.drainAdd = true
    let free := c.mheld (fun o n => o.transfers n || ts.any (o.pendsTile n)) = false ∧ (c.run.drainBuf = none ∨ second)
    let shape := 1 ≤ m ∧ m ≤ 256 ∧ d.off = 0 ∧ d.swz = 0 ∧ d.high = false ∧ src.ring = false ∧ src.illegal = false ∧ (m ≤ 128 ∨ t.val % 2 = 0)
    let tags := ∀ i ∈ ts, c.ctx.a[i].tag = .f32 ∨ c.ctx.a[i].tag = .clean ∨ c.ctx.a[i].tag = .poison
    let there := src.outside = false ∧ s.cores[k].run.phase ≠ .idle ∧ s.cores[k].ctx.x.tid.toNat / 65536 = c.ctx.x.tid.toNat / 65536 ∧
      s.cores[k].inBounds src.addr (512 * m) = true
    let raises (j : Instr) (z : Cause) : Prop := exec j s = .next (s.onCur fun c => c.raise 2 z)
    let form (j : Instr) (kind : DrainKind) (clamp : Bool) : Prop :=
      (¬ free → exec j s = .next (s.onCur fun c => c.freeze 4)) ∧
      (free → ¬ shape → raises j .illegal) ∧
      (free → shape → second → raises j .segmentCheck) ∧
      (free → shape → ¬ second → ¬ tags → raises j .format) ∧
      (free → shape → ¬ second → tags → ¬ there → raises j .bounds) ∧
      (free → shape → ¬ second → tags → there → src.addr % 256 ≠ 0 → raises j .align) ∧
      (free → shape → ¬ second → tags → there → src.addr % 256 = 0 → exec j s = .next (s.onCur fun c =>
        (((c.meter (40 * 128 * m)).mstart { c.mop (.drain kind t n) 1 m with
          addr := src.addr, rowFj := [40 * 128], wasTag := ts.map fun i => c.ctx.a[i].tag }).onRegion fun r => { r with drainAdd := true }).onRun fun r => { r with
            drainBuf := some ⟨c.regionId, clamp, t, k, s.cores[k].ctx.x.tid, src.addr, m, [], 0⟩ }))
    form (.drainAdd g t w a b x) .add false ∧ form (.drainAddc g t w a b x) .addc true

/-- R90, R91, R95, R158 to R161, R163 to R169: one matrix cycle. An operation samples the line or the row whose turn it is; then
what is due of it lands: row i of an MMA in cycle t + L * (i + 130), if it is live; row j of an AFILL or of a drain in t + j + 5; line j of
a weight load, with its scales, in t + L * (j + 1) - 1, and its tag with the last; a transposed load, ACLR, WCLR and ASTAT in their last
cycle. Any number of operations are in the unit: all sample what stood before the cycle, then each lands on what the one issued before it
left. A float MMA's row and a drain's row raise their event bits on the tile, with the region that issued them, ACLR clears them there. A
drain-add's rows go to its buffer. No other row, line, tile or buffer changes. That each row of a residue
form is a step of its own to an unwind, that poison met late marks the tiles already written, and that ASTAT's scalar lands in a cause-4 freeze
too, are the model's readings (logs 76, 46, 75). -/
def Obligations.MatrixLandings : Prop :=
  (∀ (c : Core) (fresh : Nat) (hold : Bool),
    let t := c.run.mcycle
    let n := c.run.mops.length
    ∃ (pre post : Nat → Core) (op : Nat → MOp), pre 0 = c ∧ post 0 = pre n ∧
      (∀ k o, c.run.mops[k]? = some o →
        pre (k + 1) = (pre k).latePoison t o (c.msample t fresh o) ∧ (post (k + 1), op k) = (post k).mland t fresh hold (c.msample t fresh o)) ∧
      c.matrixCycle fresh hold = (post n).onRun fun x => { x with
        mops := ((List.range n).map op).filter fun o => t < o.last, mcycle := t + 1 }) ∧
  (∀ (c : Core) (t : Nat) (was o : MOp), let n := c.latePoison t was o
    ((was.poison = true ∨ o.poison = false ∨ ∀ f w acc, o.kind ≠ .mma f w acc) → n = c) ∧
    ∀ f w acc, o.kind = .mma f w acc → 0 < o.ramp → was.poison = false → o.poison = true →
      n.run = c.run ∧ n.sram = c.sram ∧ n.ctx.w = c.ctx.w ∧ ∀ b : TileId,
        ((∃ i, i < o.rows ∧ o.start + o.ramp * (i + 130) < t ∧ o.live.getD i false = true ∧ (tileRow acc i).1 = b) →
          n.ctx.a[b] = { c.ctx.a[b] with tag := .poison }) ∧
        ((∀ i, i < o.rows → o.start + o.ramp * (i + 130) < t → o.live.getD i false = true → (tileRow acc i).1 ≠ b) →
          n.ctx.a[b] = c.ctx.a[b])) ∧
  (∀ (c : Core) (o : MOp) (t fresh k : Nat),
    let line (k : Nat) : Line × Bool := (unswizzle o.swz.val k (c.line (o.addr + 256 * k)), c.poisonAt (o.addr + 256 * k))
    (t = o.start + o.ramp * k → 0 < o.ramp → k < o.dlines →
      (∀ w g, o.kind = .wld w g ∨ o.kind = .wldt w g →
        c.msample t fresh o = { o with lines := o.lines ++ [line k], poison := o.poison || (line k).2 }) ∧
      (∀ f w acc, o.kind = .mma f w acc →
        c.msample t fresh o = { o with lines := o.lines ++ [line k], poison := o.poison || ((line k).2 && o.live.getD k false) })) ∧
    (t = o.start + k → k < o.rows →
      (∀ rns acc, o.kind = .afill rns acc → c.msample t fresh o = { o with lines := o.lines ++ [line (2 * k), line (2 * k + 1)] }) ∧
      (∀ d acc g, o.kind = .drain d acc g →
        let tr := tileRow acc k
        let was := o.wasTag.getD (if k < 128 then 0 else 1) .clean
        (was ≠ .poison → c.msample t fresh o = { o with out := o.out ++ [drainRow d (c.ctx.a[tr.1].rowVal tr.2)] }) ∧
        (was = .poison → ∃ x : Row × BitVec 32, x.2.getLsbD 31 = true ∧ c.msample t fresh o = { o with out := o.out ++ [x] }))) ∧
    (t < o.start → c.msample t fresh o = o)) ∧
  (∀ (c : Core) (o : MOp) (t fresh : Nat) (hold : Bool),
    let n := (c.mland t fresh hold o).1
    let old := c.ctx
    let rest : Prop := n.ctx.s = old.s ∧ n.ctx.p = old.p ∧ n.ctx.v = old.v ∧ n.ctx.x = old.x ∧ n.ctx.tags = old.tags
    let tileOnly (a : TileId) (x : Tile) : Prop := n.ctx.a[a] = x ∧ (∀ b : TileId, b ≠ a → n.ctx.a[b] = old.a[b]) ∧ n.ctx.w = old.w ∧
      n.sram = c.sram ∧ rest
    let bufOnly (w : BufId) (x : WBuf) : Prop := n.ctx.w[w] = x ∧ (∀ b : BufId, b ≠ w → n.ctx.w[b] = old.w[b]) ∧ n.ctx.a = old.a ∧
      n.sram = c.sram ∧ rest
    let still : Prop := n.ctx = old ∧ n.sram = c.sram ∧ n.run = c.run
    let raises (a : TileId) (ev : BitVec 32) : Prop := n.run.regions.map (·.raised) =
      c.run.regions.map fun r => if r.id = o.region then r.raised.set a (r.raised[a] ||| ev) else r.raised
    (∀ f w acc i, o.kind = .mma f w acc → 0 < o.ramp → i < o.rows → t = o.start + o.ramp * (i + 130) →
      (o.live.getD i false = false → still) ∧
      (o.live.getD i false = true →
        let tr := tileRow acc i
        let a := old.a[tr.1]
        let up (b : Bool) : BitVec 128 := if b then a.clean ||| BitVec.twoPow 128 tr.2.val else a.clean &&& ~~~BitVec.twoPow 128 tr.2.val
        let line := (o.lines.headD (0, false)).1
        let sc := o.scales.getD i 0
        let y := if f.isI8 then int8Row (f == .i8sub) line sc old.w[w] (a.rowVal tr.2) else (floatRow f line sc old.w[w] (a.rowVal tr.2)).1
        let clean := up (f == .i8sub && y == 0)
        (o.poison = false → tileOnly tr.1 { a with
          rows := a.rows.set tr.2 y, clean := clean
          tag := if a.tag = .poison then .poison else if f.isI8 = true ∧ clean = BitVec.allOnes 128 then .clean
            else if f.isI8 then .rns else .f32 } ∧
          raises tr.1 (if f.isI8 then 0 else (floatRow f line sc old.w[w] (a.rowVal tr.2)).2)) ∧
        (o.poison = true → n.ctx.a[tr.1].tag = .poison ∧ (∀ r : Fin 128, r ≠ tr.2 → n.ctx.a[tr.1].rows[r] = a.rows[r]) ∧
          ∀ b : TileId, b ≠ tr.1 → n.ctx.a[b] = old.a[b]))) ∧
    (∀ rns acc j, o.kind = .afill rns acc → j < o.rows → t = o.start + j + 5 →
      let tr := tileRow acc j
      let a := old.a[tr.1]
      let l0 := o.lines.headD (0, false)
      let l1 := (o.lines.drop 1).headD (0, false)
      let raw : Row := l1.1 ++ l0.1
      let side := if j < 128 then 0 else 1
      let was := o.wasTag.getD side .clean
      let rt : Tag := if rns then .rns else .f32
      let taint := o.live.getD side false || l0.2 || l1.2
      ∃ g : Row × Tag, tileOnly tr.1 { a with rows := a.rows.set tr.2 g.1, clean := a.clean &&& ~~~BitVec.twoPow 128 tr.2.val, tag := g.2 } ∧
        (rns = false → g.1 = raw) ∧
        (rns = true → ∀ k, k < 128 → elem g.1 k = (rnsAdd 0 (BitVec.ofNat 32 (elem raw k))).toNat) ∧
        (taint = true → g.2 = .poison) ∧
        (taint = false → was = .clean ∨ was = rt → g.2 = if a.tag = .poison then .poison else rt) ∧
        (taint = false → was ≠ .clean → was ≠ rt → g.2 = if tr.2.val = 127 then rt else a.tag)) ∧
    (∀ acc, o.kind = .aclr acc → (t = o.last → tileOnly acc ⟨Vector.replicate 128 0, BitVec.allOnes 128, old.a[acc].events, .clean⟩ ∧
        ∀ r ∈ n.run.regions, r.id = o.region → r.raised[acc] = 0 ∧ r.cleared.getLsbD acc.val = true) ∧
      (t ≠ o.last → still)) ∧
    (∀ w tag j, o.kind = .wld w tag → 0 < o.ramp → t = o.start + o.ramp * (j.val + 1) - 1 →
      let b := old.w[w]
      bufOnly w
        { lines := b.lines.set (j : Fin 128) (if j.val < o.rows then (o.lines.getD j.val (0, false)).1 else 0)
          scales := b.scales.set j (o.scales.getD j.val 0)
          tag := if j.val = 127 then (if o.poison then .poison else tag) else b.tag
          clean := if j.val = 127 then false else b.clean }) ∧
    (∀ w tag, o.kind = .wldt w tag → (t ≠ o.last → still) ∧
      (t = o.last → bufOnly w ⟨Vector.ofFn fun j => transposedLine tag o.rows o.lines j.val, Vector.ofFn fun j => o.scales.getD j.val 0,
        if o.poison then .poison else tag, false⟩)) ∧
    (∀ w, o.kind = .wclr w → (t ≠ o.last → still) ∧
      (t = o.last → bufOnly w ⟨Vector.replicate 128 0, Vector.replicate 128 scalesAbsent, .clean, true⟩)) ∧
    (∀ d v, o.kind = .astat d v → (t ≠ o.last → still) ∧
      (t = o.last → hold = true → n.s d = (if d = 0 then 0 else v) ∧ (∀ r, r ≠ d → n.s r = c.s r) ∧ n.ctx.a = old.a ∧ n.ctx.v = old.v) ∧
      (t = o.last → hold = false → n.ctx = old ∧
        n.run.flights = insertFlight ⟨1, o.ord, o.region, 2, o.bundle, .scalar d v⟩ c.run.flights)) ∧
    (∀ d acc g j, o.kind = .drain d acc g → j < o.rows → t = o.start + j + 5 →
      let x := (o.out.headD (0, 0)).1
      let eff : LineEff := if (o.out.headD (0, 0)).2.getLsbD 31 then .poisoned else .full
      let all := BitVec.allOnes 256
      n.ctx = old ∧
      (d = .add ∨ d = .addc → n.sram = c.sram ∧ n.run.drainBuf = c.run.drainBuf.map fun b =>
        { b with rows := b.rows ++ [(j, x, (o.out.headD (0, 0)).2.getLsbD 31)] }) ∧
      (d = .bf16 → n.sram = c.sram.store (old.phys (o.addr + 256 * j)) all (x.extractLsb' 0 2048) eff) ∧
      (d = .f32 ∨ d = .rns ∨ d = .i32 → n.sram = (c.sram.store (old.phys (o.addr + 512 * j)) all (x.extractLsb' 0 2048) eff).store
        (old.phys (o.addr + 512 * j + 256)) all (x.extractLsb' 2048 2048) eff) ∧
      (d ≠ .add → d ≠ .addc → raises (tileRow acc j).1 ((o.out.headD (0, 0)).2 &&& 0xF)))) ∧
  ∀ (m : Nat) (ls : List (Line × Bool)) (j k : Nat), j < 128 →
    (∀ g : Tag, g ≠ .bf16 → k < 256 → (transposedLine g m ls j).extractLsb' (8 * k) 8 =
      if k < m then ((ls.getD ((128 * k + j) / 256) (0, false)).1).extractLsb' (8 * ((128 * k + j) % 256)) 8 else (0 : BitVec 8)) ∧
    (k < 128 → (transposedLine .bf16 m ls j).extractLsb' (16 * k) 16 =
      if k < m then ((ls.getD k (0, false)).1).extractLsb' (16 * j) 16 else (0 : BitVec 16))

/-! ### The C slot -/

/-- R57, R222, R223, R225: a copy whose operands pass the checks claims its tag and joins the commands of the core, its operands, its
queue, and the acquires and fences before it noted; CPY.RIN also reserves the next slot of its ring. Each fault otherwise. -/
def Obligations.CopyForms : Prop :=
  ∀ (s : State) (g : PReg) (t : TagId) (a : SReg) (b : SPair) (q : Fin 4), s.core.g0 g = true →
    let c := s.core
    let x := c.s a
    let y := c.s (Fin.ofNat 64 (2 * b.val))
    let z := c.s (Fin.ofNat 64 (2 * b.val + 1))
    let pending := c.ctx.tags[t].st == .pending
    let out (v : Word) : Bool := decide (0x400000 ≤ v.toNat)
    let mis (v : Word) : Bool := v.toNat % 256 != 0
    let none' (v : Word) (lo n : Nat) : Bool := v.extractLsb' lo n != 0
    let cmd (k : CopyKind) (queue : Option (Fin 4)) (c : Core) : Cmd := c.newCmd k (some t) queue x y (z.setWidth 32)
    let joins (m : Cmd) (c : Core) : Core :=
      (c.claim t).onRun fun r => { r with copies := r.copies ++ [m], nextCmd := r.nextCmd + 1 }
    let form (j : Instr) (k : CopyKind) (queue : Option (Fin 4)) (ill bnd aln : Bool) : Prop :=
      s.checkedBy j 3 [(none' z 32 32 || ill, .illegal), (bnd || pending, .bounds), (aln, .align)] fun c => joins (cmd k queue c) c
    let peer := none' x 27 37 || none' x 22 2
    let h : RingId := Fin.ofNat 16 y.toNat
    form (.cpyIn g t a b q) .cin (some q) false (out y) (mis y) ∧ form (.cpyInx g t a b) .inx none false (out y) (mis y) ∧
    form (.cpyOut g t a b q) .out (some q) false (out x) (mis x) ∧
    form (.cpyPeer g t a b q) .peer (some q) peer (out y) (mis x || mis y) ∧
    form (.cpyMc g t a b q) .mc (some q) (peer || none' y 32 32 || none' y 22 2) false (mis x || mis y) ∧
    form (.cpyT g t a b q) .tr (some q) false (none' y 48 16) false ∧
    form (.cpyFab g t a b q) .fab (some q) (none' y 60 4) (out x) (mis x) ∧
    form (.cpyHost g t a b q) .host (some q) false (out x) (mis x) ∧
    (none' z 32 32 = true ∨ y.getLsbD 63 = false ∨ none' y 4 59 = true →
      exec (.cpyRin g t a b q) s = .next (s.onCur fun c => c.raise 3 .illegal)) ∧
    (none' z 32 32 = false → y.getLsbD 63 = true → none' y 4 59 = false →
      (c.ctx.h[h] = none → exec (.cpyRin g t a b q) s = .next (s.onCur fun c => c.raise 3 .ringConfig)) ∧
      ∀ r, c.ctx.h[h] = some r →
        (r.free = 0 ∨ pending = true → exec (.cpyRin g t a b q) s = .next (s.onCur fun c => c.raise 3 .bounds)) ∧
        (r.free ≠ 0 → pending = false →
          let slot := (r.prod + r.reserved) % r.count
          exec (.cpyRin g t a b q) s = .next (s.onCur fun c =>
            let c1 := (c.onRegion fun g => { g with rings := .rin h slot :: g.rings }).onCtx fun x =>
              { x with h := x.h.set h (some { r with free := r.free - 1, reserved := r.reserved + 1 }) }
            joins { cmd .rin (some q) c with ring := some (h, slot) } c1)))

/-- R223, R234, R235, R236: the tags, waits on them, TCLR, TSTAT and QFENCE. Bit n of CTB is 1 exactly when tag n is complete. A claim makes
its tag pending with the status word 0x8000, a completion makes it complete with its status, and each leaves every other tag. A wait whose
mask names no idle tag issues in the cycle its condition holds and freezes its bundle under cause 2 until then. TCLR makes the complete tags
of its mask idle, and its region keeps what each held where no command of the region had claimed the tag and no TCLR of it cleared it
before. -/
def Obligations.TagForms : Prop :=
  (∀ (c : Core) (t n : TagId) (status : Word),
    (c.ctx.ctb.getLsbD n.val = decide (c.ctx.tags[n].st = .complete)) ∧
    ((c.claim t).ctx.tags[t] = ⟨.pending, 0x8000⟩ ∧ (c.claim t).ctx.ctb.getLsbD t.val = false) ∧
    ((c.completeTag t status).ctx.tags[t] = ⟨.complete, status⟩ ∧ (c.completeTag t status).ctx.ctb.getLsbD t.val = true) ∧
    (n ≠ t → (c.claim t).ctx.tags[n] = c.ctx.tags[n] ∧ (c.completeTag t status).ctx.tags[n] = c.ctx.tags[n])) ∧
  ∀ (s : State) (g : PReg) (d a : SReg) (n : Fin 64) (m : BitVec 4), s.core.g0 g = true →
    let c := s.core
    let x := c.s a
    let v := c.ctx.ctb &&& x
    let cleared := (List.finRange 64).filter fun t => x.getLsbD t.val && c.ctx.tags[t].st == .complete
    let idle := ∃ t : TagId, x.getLsbD t.val = true ∧ c.ctx.tags[t].st = .idle
    let pending := ∃ t : TagId, x.getLsbD t.val = true ∧ c.ctx.tags[t].st = .pending
    let bounds (j : Instr) : Prop := exec j s = .next (s.onCur fun c => c.raise 3 .bounds)
    let waits (j : Instr) : Prop := exec j s = .next (s.onCur fun c => c.freeze 2)
    let lands (w : Word) : Out := .next (s.onCur fun c => c.fly 1 3 (.scalar d w))
    let fenced := (c.run.copies.filter fun k => (k.queue.map fun q => m.getLsbD q.val).getD false).map (·.id)
    (x = 0 ∨ idle → bounds (.twany g d a) ∧ bounds (.tfirst g d a)) ∧ (idle → bounds (.twall g a)) ∧
    (x ≠ 0 → ¬ idle → v = 0 → waits (.twany g d a) ∧ waits (.tfirst g d a)) ∧ (¬ idle → v ≠ x → waits (.twall g a)) ∧
    (x ≠ 0 → ¬ idle → v ≠ 0 → exec (.twany g d a) s = lands v ∧ ∃ k, k < 64 ∧ v.getLsbD k = true ∧ (∀ i, i < k → v.getLsbD i = false) ∧
      exec (.tfirst g d a) s = lands (BitVec.ofNat 64 k)) ∧
    (¬ idle → v = x → exec (.twall g a) s = .next s) ∧
    (pending → bounds (.tclr g a)) ∧
    (¬ pending → ∃ tags : Vector CTag 64,
      exec (.tclr g a) s = .next (s.onCur fun c =>
        (c.onRegion fun r => { r with tclrs := (((cleared.filter fun t => !r.claims.any (·.1 == t) && !r.tclrs.any (·.1 == t)).map
          fun t => (t, c.ctx.tags[t])).reverse) ++ r.tclrs }).onCtx fun y => { y with tags := tags }) ∧
      ∀ t : TagId, tags[t] = if t ∈ cleared then ⟨.idle, 0⟩ else c.ctx.tags[t]) ∧
    exec (.tstat g d a n) s = lands c.ctx.tags[(Fin.ofNat 64 (x.toNat + n.val) : Fin 64)].status ∧
    (m = 0 ∨ fenced = [] → exec (.qfence g m) s = .next s) ∧
    (m ≠ 0 → fenced ≠ [] → exec (.qfence g m) s = .next (s.onCur fun c => c.onRun fun r => { r with fences := r.fences ++ [(m, fenced)] }))

/-- R178, R179, R180, R237, R238: the ring commands on a ring that is configured and on one that is not. Pointers wrap at the slot count;
RADVP stamps the slots it passes, and no other. -/
def Obligations.RingForms : Prop :=
  ∀ (s : State) (g : PReg) (h : RingId) (z : Fin 4) (n : Fin 64) (a : SReg), s.core.g0 g = true →
    let c := s.core
    let raises (j : Instr) (x : Cause) : Prop := exec j s = .next (s.onCur fun c => c.raise 3 x)
    let becomes (j : Instr) (u : RingUndo) (r : Option Ring) : Prop := exec j s = .next (s.onCur fun c =>
      (c.onRegion fun g => { g with rings := u :: g.rings }).onCtx fun x => { x with h := x.h.set h r })
    let k := n.val + 1
    (c.ctx.h[h] = none → raises (.rwait g h n) .ringConfig ∧ raises (.rfree g h n) .ringConfig ∧ raises (.radvp g h z n) .ringConfig ∧
      raises (.radvc g h n) .ringConfig ∧ becomes (.rsetUnconfigure g h) (.set h none) none) ∧
    (∀ r, c.ctx.h[h] = some r →
      (r.count < k → raises (.rwait g h n) .bounds ∧ raises (.rfree g h n) .bounds) ∧
      (k ≤ r.count → k ≤ r.fill → exec (.rwait g h n) s = .next s) ∧
      (k ≤ r.count → r.fill < k → exec (.rwait g h n) s = .next (s.onCur fun c => c.freeze 1)) ∧
      (k ≤ r.count → k ≤ r.free → exec (.rfree g h n) s = .next s) ∧
      (k ≤ r.count → r.free < k → exec (.rfree g h n) s = .next (s.onCur fun c => c.freeze 1)) ∧
      (r.reserved ≠ 0 → raises (.radvp g h z n) .ringConfig ∧ raises (.rsetUnconfigure g h) .ringConfig ∧ raises (.rset g h a) .ringConfig) ∧
      (r.reserved = 0 → becomes (.rsetUnconfigure g h) (.set h (some r)) none) ∧
      (r.reserved = 0 → r.count < k ∨ r.free < k → raises (.radvp g h z n) .bounds) ∧
      (r.count < k ∨ r.fill < k → raises (.radvc g h n) .bounds) ∧
      (r.reserved = 0 → k ≤ r.count → k ≤ r.free → ∃ stamps : List (Fin 4), stamps.length = r.stamps.length ∧
        (∀ i, i < r.stamps.length → stamps[i]? =
          if (List.range k).any (fun n => (r.prod + n) % r.count == i) then some z else r.stamps[i]?) ∧
        becomes (.radvp g h z n) (.advp h k r.stamps)
          (some { r with prod := (r.prod + k) % r.count, free := r.free - k, fill := r.fill + k, stamps := stamps })) ∧
      (k ≤ r.count → k ≤ r.fill → becomes (.radvc g h n) (.advc h k)
        (some { r with cons := (r.cons + k) % r.count, fill := r.fill - k, free := r.free + k }))) ∧
    (let x := c.s a
     let base := (x.extractLsb' 0 22).toNat
     let size := (x.extractLsb' 22 8).toNat + 1
     let count := (x.extractLsb' 32 6).toNat + 1
     let meets := ∃ i : RingId, i ≠ h ∧ ∃ q, c.ctx.h[i] = some q ∧ base < q.base + 256 * q.size * q.count ∧
       q.base < base + 256 * size * count
     let refused := x.extractLsb' 38 26 ≠ 0 ∨ x.extractLsb' 30 2 ≠ 0 ∨ base % 256 ≠ 0 ∨ c.granted < base + 256 * size * count ∨ meets ∨
       (∃ q, c.ctx.h[h] = some q ∧ q.reserved ≠ 0)
     (refused → raises (.rset g h a) .ringConfig) ∧
     (¬ refused → becomes (.rset g h a) (.set h c.ctx.h[h])
       (some ⟨base, size, count, count, 0, 0, 0, 0, List.replicate count 0, List.replicate count false⟩)))

/-- R176, R177, R239: the tag-table forms look in the committed table as the pending changes leave it; what TINS and TDEL write stays with
the region. -/
def Obligations.TagTableForms : Prop :=
  ∀ (s : State) (g : PReg) (d a b : SReg), s.core.g0 g = true →
    let c := s.core
    let key : BitVec 36 := (c.s a).extractLsb' 12 36
    let y := c.s b
    let at_ (w : Nat) : Nat := 4 * (key.toNat % 1024) + w
    let e (w : Nat) : Word := wayGet c.tagView (at_ w)
    let holds (w : Nat) : Prop := (e w).getLsbD 63 = true ∧ (e w).extractLsb' 0 36 = key
    let new : Word := BitVec.twoPow 64 63 ||| ((y.extractLsb' 0 10).setWidth 64 <<< 42) ||| key.setWidth 64
    let changes (v : Word) (w : Nat) (n : Word) : Out := .next (s.onCur fun c =>
      (c.fly 1 3 (.scalar d v)).onRegion fun r => { r with tagOps := ⟨at_ w, n⟩ :: r.tagOps })
    (y.extractLsb' 12 52 ≠ 0 → exec (.tins g d a b) s = .next (s.onCur fun c => c.raise 3 .illegal)) ∧
    (∀ w, w < 4 → holds w → (∀ i, i < w → ¬ holds i) →
      exec (.tlook g d a) s = .next (s.onCur fun c => c.fly 1 3 (.scalar d (((e w).extractLsb' 42 10).setWidth 64 <<< 12))) ∧
      exec (.tdel g d a) s = changes (e w) w 0 ∧
      (y.extractLsb' 12 52 = 0 → exec (.tins g d a b) s = changes (e w) w new)) ∧
    ((∀ w, w < 4 → ¬ holds w) →
      exec (.tlook g d a) s = .next (s.onCur fun c => c.fly 1 3 (.scalar d 0xFFFFFFFFFFFFFFFF)) ∧
      exec (.tdel g d a) s = .next (s.onCur fun c => c.fly 1 3 (.scalar d 0)) ∧
      (y.extractLsb' 12 52 = 0 →
        exec (.tins g d a b) s = changes (e (y.extractLsb' 10 2).toNat) (y.extractLsb' 10 2).toNat new))

/-- R240, R241: a logged store with an address it accepts appends its record to the pending segment of its region, and freezes its bundle
under cause 3 where its log is full; memory is as before. A task without a log area is never frozen (the model's reading, log 31). -/
def Obligations.LoggedStoreForms : Prop :=
  ∀ (s : State) (g : PReg) (a b : SReg) (v : VReg), s.core.g0 g = true →
    let c := s.core
    let x := c.s a
    let form (j : Instr) (n : Nat) (kind : Fin 4) (pois : Bool) (data : Line) : Prop :=
      let rec_ : LogRec := ⟨kind, x.setWidth 48, data⟩
      let room := ∀ l, s.logOf c.ctx.x.tid = some l → l.base ≠ none → l.fits c.pendingRecs rec_ = true
      let ok := x.extractLsb' 48 16 = 0 ∧ x.toNat % n = 0 ∧ pois = false
      (x.extractLsb' 48 16 ≠ 0 → exec j s = .next (s.onCur fun c => c.raise 3 .bounds)) ∧
      (x.extractLsb' 48 16 = 0 → x.toNat % n ≠ 0 → exec j s = .next (s.onCur fun c => c.raise 3 .align)) ∧
      (x.extractLsb' 48 16 = 0 → x.toNat % n = 0 → pois = true → exec j s = .next (s.onCur fun c => c.raise 3 .poisonUse)) ∧
      (ok → ¬ room → exec j s = .next (s.onCur fun c => c.freeze 3)) ∧
      (ok → room → exec j s = .next (s.onCur fun c => c.onRegion fun r => { r with segment := r.segment ++ [rec_] }))
    form (.lstW g a b) 4 1 false (((c.s b).setWidth 32).setWidth 2048) ∧ form (.lstD g a b) 8 2 false ((c.s b).setWidth 2048) ∧
    form (.lstv g a v) 256 3 ((c.vr v).tag == .poison) (c.vr v).bits

/-- R49, R57, R222, R223, R243 to R248: releases, acquires, Weir commands and PUBLISH. With its operands accepted the command is claimed
and kept with its region, which it closes; it holds the syllable's word and its operands of this cycle. The address of a result word must lie
in a granted pitch and be a multiple of 8. That a commit into a full queue leaves its command waiting behind the 32, so that they may be
more, is the model's choice (log 83). -/
def Obligations.SyncForms : Prop :=
  ∀ (s : State) (g : PReg) (t : TagId) (a : SReg) (b : SPair),
    let c := s.core
    let x := c.s a
    let y := c.s (Fin.ofNat 64 (2 * b.val))
    let z := c.s (Fin.ofNat 64 (2 * b.val + 1))
    let pending := c.ctx.tags[t].st == .pending
    let high (v : Word) : Bool := v.extractLsb' 32 32 != 0
    let kept (k : EffKind) (major : Nat) (r : SReg) (acq : Bool) (image : Line) (c : Core) : Core :=
      let e : EffCmd := ⟨BitVec.ofNat 32 (major * 2 ^ 25 + t.val * 2 ^ 19 + r.val * 2 ^ 13 + 2 * b.val * 2 ^ 7 + g.val),
        k, some t, c.s r, y, z, image⟩
      let c1 := (c.claim t).onRegion fun r => { r with effect := some e }
      if acq then c1.onRun fun r => { r with acqs := r.acqs ++ [t.val] } else c1
    let form (j : Instr) (k : EffKind) (major : Nat) (r : SReg) (ill acq : Bool) : Prop :=
      s.effectForm j g [(ill, .illegal), (!c.inBounds y.toNat 1 || pending, .bounds), (y.toNat % 8 != 0, .align)]
        (kept k major r acq (if k = .synCas then BitVec.ofNat 2048 (c.load y.toNat 8) else 0))
    form (.rel g t b) .rel 0x2B 0 false false ∧ form (.acq g t a b) .acq 0x2C a false true ∧
    form (.acqs g t a b) .acqs 0x2D a (x.extractLsb' 0 3 != 0 || x.extractLsb' 9 55 != 0 || decide (11 < (x.extractLsb' 3 4).toNat)) true ∧
    form (.phase g t b) .phase 0x2E 0 false true ∧
    form (.synAdd g t a b) .synAdd 0x30 a (high x) false ∧ form (.synCas g t a b) .synCas 0x31 a (high x) false ∧
    form (.synMin g t a b) .synMin 0x32 a (high x) false ∧ form (.synMax g t a b) .synMax 0x33 a (high x) false ∧
    form (.synXch g t a b) .synXch 0x34 a (high x) false ∧ form (.synLd g t a b) .synLd 0x35 a (high x) false ∧
    form (.synPost g t a b) .synPost 0x36 a (high x || (z == 0 || high z)) false ∧
    form (.synWait g t a b) .synWait 0x37 a (high x || (z == 0 || high z)) false ∧
    form (.synBar g t a b) .synBar 0x38 a (high x || (z == 0 || high z)) false ∧
    s.effectForm (.publish g t b) g [(pending, .bounds)] (kept .publish 0x48 0 false 0)

/-- R264, R265, R267 to R273: the sample-group commands, LAUNCH and CANCEL. FORK opens the group, GBAR sends its barrier; both images are
those of this cycle. GSTAT is no effect instruction. That a commit into a full queue leaves its command waiting behind the 32, so that they
may be more, is the model's choice (log 83). -/
def Obligations.GroupForms : Prop :=
  ∀ (s : State) (g : PReg) (a : SReg) (b : SPair),
    let c := s.core
    let x := c.s a
    let y := c.s (Fin.ofNat 64 (2 * b.val))
    let img := c.forkImage x
    let w (i : Nat) : Word := img.extractLsb' (64 * i) 64
    let refused := (w 0).extractLsb' 48 16 != 0 || (w 0).toNat % 16 != 0 || (w 1).toNat == 0 || decide (64 < (w 1).toNat) ||
      (w 3).extractLsb' 48 16 != 0 || (w 4).toNat % 65536 != 0 || (w 5).extractLsb' 48 16 != 0 || (w 5).toNat % 65536 != 0 ||
      (w 6).toNat % 65536 != 0 || w 7 != 0
    let kept (k : EffKind) (major : Nat) (r : SReg) (p : SPair) (image : Line) (c : Core) : Core :=
      c.onRegion fun q => { q with effect := some ⟨BitVec.ofNat 32 (major * 2 ^ 25 + r.val * 2 ^ 13 + 2 * p.val * 2 ^ 7 + g.val),
        k, none, c.s r, c.s (Fin.ofNat 64 (2 * p.val)), 0, image⟩ }
    let inGroup := c.ctx.x.grp != 0
    s.effectForm (.fork g a b) g
      [(inGroup || c.ctx.groupFlag == .opened, .illegal), (!c.inBounds x.toNat 64 || !c.inBounds y.toNat 520, .bounds),
        (x.toNat % 64 != 0 || y.toNat % 256 != 0, .align), (refused, .illegal)]
      (fun c => (kept .fork 0x40 a b img c).onCtx fun q => { q with groupFlag := .opened, forks := q.forks + 1 }) ∧
    s.effectForm (.grwd g a) g [(!inGroup || x.extractLsb' 32 32 != 0, .illegal)] (kept .grwd 0x41 a 0 0) ∧
    s.effectForm (.gbar g) g [(c.ctx.groupFlag != .opened, .illegal)]
      (fun c => (kept .gbar 0x42 0 0 0 c).onCtx fun q => { q with groupFlag := .barrierSent }) ∧
    s.effectForm (.gcancel g a) g [(c.ctx.groupFlag != .opened || x.extractLsb' 6 58 != 0, .illegal)] (kept .gcancel 0x43 a 0 0) ∧
    s.effectForm (.gquit g) g [(!inGroup, .illegal)] (kept .gquit 0x44 0 0 0) ∧
    s.effectForm (.launch g a b) g [(y.extractLsb' 4 60 != 0, .illegal), (!c.inBounds x.toNat 1, .bounds), (x.toNat % 256 != 0, .align)]
      (kept .launch 0x49 a b (BitVec.ofNat 2048 (c.load x.toNat 256))) ∧
    s.effectForm (.cancel g a) g [(x.extractLsb' 48 16 != 0, .illegal)] (kept .cancel 0x4A a 0 0) ∧
    (c.g0 g = true → exec (.gstat g b) s = .next (s.onCur fun c => c.fly 1 3 (.scalar (Fin.ofNat 64 (2 * b.val)) c.ctx.groupStatus)))

/-- R28, R106, R222: an S, M or C syllable whose guard's bit 0 is false does nothing, whatever its form, but for an effect instruction, which
closes its region (R37). REGION and REGIONC have no guard; a V syllable's guard acts per lane. -/
def Obligations.FalseGuards : Prop :=
  ∀ (i : Instr) (w : Words) (s : State), i.wf = true → encode i = some w →
    let g : PReg := Fin.ofNat 32 w.syl.toNat
    let major := (w.syl.extractLsb' 25 7).toNat
    let effect := w.pos = 3 ∧ major ∈ [0x2B, 0x2C, 0x2D, 0x2E, 0x30, 0x31, 0x32, 0x33, 0x34, 0x35, 0x36, 0x37, 0x38, 0x40, 0x41, 0x42, 0x43,
      0x44, 0x48, 0x49, 0x4A]
    let head := w.pos = 0 ∧ (major = 0x56 ∨ major = 0x57)
    w.pos ≠ 1 → ¬ head → s.core.g0 g = false →
      (¬ effect → exec i s = .next s) ∧ (effect → exec i s = .next (s.onCur (·.closeRegion)))

/-! ### The steps of a core's clock -/

/-- R17, R19, R21, R23, R65, R158, R192, R299, R302, R345, R346: the steps that end a core's cycle and those that keep it supplied. Every other
core, the memories and the management space are as before. RESULT_LANDING counts every result in flight down by one and lands those that are
due one after another, in issue order (`LandedResults` says what each does); a soft error may have shown itself before (log 38).
MATRIX_ROW_LANDING takes the matrix unit through one cycle (`MatrixLandings`); in a cause-4 freeze (hold) it alone advances: TICK and every
latency stand still. A bundle fetched is held as its page then has it, or with the failure that its issue will raise. A late crossing is
delivered once the skew is within the margin, or its stretch has been applied. A stretch of a core's island, unless one has been imposed on
that period, is imposed on its partner two periods later; that of a memory controller moves its slots by one clock (log 88). A shootdown is
complete once every command that translated an address in its scope has completed, and every write of a peer that did. A controller's request
in the period that its last one has stretched stretches nothing more. -/
def Obligations.CoreClockSteps : Prop :=
  ∀ (s : State) (k : CoreId),
    let c := s.cores[k]
    let only (t : State) : Prop := (∀ i : CoreId, i ≠ k → t.cores[i] = s.cores[i]) ∧ t.cores[k].clk = c.clk ∧ t.hbm = s.hbm ∧
      t.host = s.host ∧ t.hpat = s.hpat ∧ t.sync = s.sync ∧ t.tasks = s.tasks ∧ t.mgmt = s.mgmt
    (s.arg = .core k → ∃ (t : State) (x : Core), exec .resultLanding s = .next t ∧ only t ∧
      (x = c ∨ ∃ line double, x = c.softError line double) ∧
      (let fs := x.run.flights.map fun f => { f with left := f.left - 1 }
       t.cores[k] = (x.onRun fun r => { r with flights := fs.filter (·.left != 0) }).landAll (fs.filter (·.left == 0))) ∧
      t.cores[k].run.mops = c.run.mops) ∧
    (∀ hold, s.arg = .matrix k hold → ∃ t, exec .matrixRowLanding s = .next t ∧ only t ∧ t.cores[k] = c.matrixCycle s.free hold ∧
      t.cores[k].run.mcycle = c.run.mcycle + 1 ∧ (∀ o ∈ t.cores[k].run.mops, c.run.mcycle < o.last) ∧ t.cores[k].ctx.x = c.ctx.x ∧
      t.cores[k].ctx.v = c.ctx.v ∧ t.cores[k].ctx.p = c.ctx.p ∧ (hold = true → t.cores[k].run.flights = c.run.flights)) ∧
    (∀ a, s.arg = .fetch k a → c.run.phase ≠ .idle → ∃ (t : State) (l : ILine), exec .icacheFill s = .next t ∧ only t ∧
      t.cores[k].icache = (l :: c.icache).take 8192 ∧ t.cores[k].ctx = c.ctx ∧ t.cores[k].run = c.run ∧ t.cores[k].sram = c.sram ∧
      l.addr = a ∧ l.space = (s.spaceOn k).tag ∧ l.root = (s.spaceOn k).root ∧ l.priv = c.ctx.x.priv ∧
      (2 ^ 48 ≤ a → l.data = none ∧ l.cause = .bounds) ∧
      (a < 2 ^ 48 → ∀ z, t.fetchFault (s.spaceOn k) c.ctx.x.priv a = some z → l.data = none ∧ l.cause = z.1 ∧ l.status = z.2) ∧
      (a < 2 ^ 48 → ∀ p, t.fetchFault (s.spaceOn k) c.ctx.x.priv a = none →
        t.resolve (s.spaceOn k) c.ctx.x.priv .fetch a = .ok p → t.poisoned p.dpa = false →
        l.data = some (BitVec.ofNat 128 (hbmLe s.hbm p.pat p.dpa 16)))) ∧
    (s.arg = .core k → exec .crossingDelivery s = .next (s.onCore k fun c =>
      if c.clk.skew.natAbs < 2 ∨ c.clk.paid = true then { c with clk := { c.clk with late := false } } else c)) ∧
    (∀ array, s.arg = .island k array → ∃ t, exec .periodStretch s = .next t ∧ (∀ i : CoreId, i ≠ k → t.cores[i] = s.cores[i]) ∧
      let own (x : Clk) : List Nat := if array then x.arr else x.ctl
      let partner (x : Clk) : List Nat := if array then x.ctl else x.arr
      let p := (c.clk.following s.now).1
      ((∀ n ∈ c.clk.ctl, n < c.clk.period) → p = c.clk.period + (s.now - c.clk.edge)) ∧
      t.cores[k].clk.asked = c.clk.asked ++ [(array, p)] ∧
      (p ∈ own c.clk → own t.cores[k].clk = own c.clk ∧ partner t.cores[k].clk = partner c.clk) ∧
      (p ∉ own c.clk → p ∈ own t.cores[k].clk ∧ p + 2 ∈ partner t.cores[k].clk)) ∧
    (∀ n : Fin 256, s.arg = .isle n → ∃ t, exec .periodStretch s = .next t ∧ t.cores = s.cores ∧
      (∀ i : Fin 256, i ≠ n → t.isles[i] = s.isles[i]) ∧
      let x := s.isles[n]
      (x.asked.getLast?.or x.old.getLast? = some (s.now - x.taken) → t.isles[n] = x) ∧
      (x.asked.getLast?.or x.old.getLast? ≠ some (s.now - x.taken) → t.isles[n].taken = x.taken + 1 ∧ t.isles[n].asked = x.asked ++ [s.now - x.taken] ∧
        t.isles[n].shift = x.shift + if 48 ≤ n.val ∧ n.val < 144 then 1 else 0)) ∧
    (∀ pos, s.arg = .bundle pos → exec .malformedBundle s = .next (s.onCur fun c => c.raise pos .illegal)) ∧
    ∀ id, s.arg = .shoot id → (s.shoots.find? (·.id == id) = none → exec .shootdownComplete s = .next s) ∧
      ∀ x, s.shoots.find? (·.id == id) = some x →
        let peers := ∃ y ∈ s.inbox, id ∈ y.shoots
        (x.waits ≠ [] ∨ peers → exec .shootdownComplete s = .next (s.later (.dev .shootdownComplete (.shoot id)))) ∧
        (x.waits = [] → ¬ peers → ∃ t, exec .shootdownComplete s = .next t ∧ t.shoots = s.shoots.filter (·.id != id) ∧
          (∀ i : CoreId, t.cores[i].icache = s.cores[i].icache.filter fun l => !x.covers l.space l.addr) ∧
          (∀ i : CoreId, i ≠ x.core → t.cores[i].run = s.cores[i].run) ∧
          t.cores[x.core].run.regions = s.cores[x.core].run.regions.map fun g => { g with tlbis := g.tlbis.filter (· != id) })

/-- R38, R39, R91, R171, R208, R215, R216, R242, R264, R302, R332, R347: commits and what follows them. The oldest region waits until its last
bundle has issued and nothing of it is outstanding; a checked region whose signature differs restarts the first time and is MACHINE-CHECK the
second. At a commit the pending segment joins the log, each tile's event word takes the region's pending bits, over zero where the region has
cleared it, and the region's effect command goes behind the unsent ones. The oldest unsent command
is sent once the one before it is accepted; it reaches its engine no earlier than D periods of the engine's island on. A LAUNCH or a CANCEL that has
reached the distributor is accepted there, but for a LAUNCH whose queue is full, which waits. Of the model's readings,
regions commit in order (log 30), rows of a drain-add whose target has retired are dropped and effect commands wait behind a committed
drain-add (log 37), the times not fixed are free (log 9), a mismatch leaves event 0x42 and the second one 0x41 (log 67), and a command of
a region that commits while the queue holds 32 waits behind them (log 83). -/
def Obligations.CommitSteps : Prop :=
  (∀ (s : State) (k : CoreId), s.arg = .core k →
    let c := s.cores[k]
    let tid := c.ctx.x.tid
    let joined := ((s.logOf tid).map (·.count)).getD 0
    (c.run.regions = [] → exec .regionCommit s = .next (s.wake k)) ∧
    (∀ r, c.run.regions.getLast? = some r → r.closed = false ∨ c.pendingOf r = true → exec .regionCommit s = .next (s.wake k)) ∧
    (∀ r, c.run.regions = [r] → r.closed = true → c.pendingOf r = false → c.run.phase = .running → c.run.trap = none →
      (∀ x, r.checked = some x → x ≠ r.observed → ∃ t, exec .regionCommit s = .next t ∧ t.cores[k].run.phase = .trapping ∧
        (t.cores[k].run.trap.map fun u => (u.cause, u.region, u.kind)) =
          some (.machineCheck, some r.id, if c.ctx.retry then .normal else .retry) ∧
        t.events.head?.map (·.code) = some (if c.ctx.retry then 0x41 else 0x42)) ∧
      (r.checked = none ∨ r.checked = some r.observed → r.ended = false → ∃ t, exec .regionCommit s = .next t ∧
        t.cores[k].run.regions = [] ∧ t.cores[k].run.effects = c.run.effects ++ r.effect.toList ∧
        t.cores[k].run.tagTable = r.tagOps.foldr (fun o l => waySet l o.way o.entry) c.run.tagTable ∧
        t.cores[k].ctx.retry = false ∧
        t.cores[k].ctx.resumed = (if r.resumed then none else c.ctx.resumed) ∧ t.cores[k].ctx.s = c.ctx.s ∧ t.cores[k].ctx.p = c.ctx.p ∧
        t.cores[k].ctx.v = c.ctx.v ∧ t.cores[k].ctx.x = c.ctx.x ∧ t.cores[k].ctx.pc = c.ctx.pc ∧
        (∀ i : TileId, t.cores[k].ctx.a[i] =
          { c.ctx.a[i] with events := (if r.cleared.getLsbD i.val then 0 else c.ctx.a[i].events) ||| r.raised[i] }) ∧
        (r.segment = [] → t.hbm = s.hbm ∧ t.logs = s.logs) ∧
        (∀ g, r.segment ≠ [] → s.logOf tid = some g → g.base = none → t.hbm = s.hbm ∧ t.logs = s.logs.map fun l =>
          if l.tid == tid then { l with sticky := if l.sticky = 0 then 4 else l.sticky, dropped := l.dropped + 1 } else l) ∧
        (let u := s.joinSegment (s.spaceOn k) tid r.priv r.segment
         t.hbm = u.hbm ∧ t.logs = u.logs ∧ t.cores[k].run.copies = c.run.copies.map fun m =>
          if m.region = r.id ∧ m.phase = .waiting then { m with hole := (joined, ((u.logOf tid).map (·.count)).getD 0) } else m))) ∧
    (c.run.effects = [] ∨ c.run.sent ≠ none ∨ c.addsDue = true → exec .effectCommandSend s = .next s) ∧
    (∀ e rest, c.run.effects = e :: rest → c.run.sent = none → c.addsDue = false →
      let born := ((s.taskOf tid).map (·.born)).getD 0
      let way : Fin 10 × Instr × StepArg :=
        if e.kind = .rel ∨ e.kind = .acq ∨ e.kind = .acqs ∨ e.kind = .phase then (4, .sequencerNumbering, .core k)
        else if e.kind = .publish then (4, .publishCounterWrite, .core k)
        else if e.kind = .launch ∨ e.kind = .cancel then (4, .effectCommandSend, .arrive tid born)
        else if e.kind = .fork then (3, .forkAccept, .core k)
        else if e.kind = .grwd ∨ e.kind = .gbar ∨ e.kind = .gcancel ∨ e.kind = .gquit then (3, .groupEngineCommand, .core k)
        else (3, .weirOperation, .core k)
      let x := c.clk.cross[way.1]
      let far := if way.1 = 3 then s.now + 1 - s.isles[(Fin.ofNat 256 (240 + k.val / 96 * 4) : Fin 256)].taken else s.now + 1
      ∃ t : State, exec .effectCommandSend s = .next t ∧
        t.cores[k].run.sent = some e ∧ t.cores[k].run.effects = rest ∧
        t.agenda = s.agenda ++ [(max (s.now + max 1 x.d + Config.delay s.free) x.last,
          .item k way.1 (far + max 1 x.d - 1) way.2.1 way.2.2)] ∧
        ∀ i : CoreId, i ≠ k → t.cores[i] = s.cores[i]) ∧
    (c.run.drainBuf = none ∨ c.addsDue = false → exec .drainAddApply s = .next s) ∧
    (∀ b, c.run.drainBuf = some b → c.addsDue = true →
      (b.rows = [] → exec .drainAddApply s = .next (s.onCore k fun c => c.onRun fun r => { r with drainBuf := none })) ∧
      (∀ j x pois rest, b.rows = (j, x, pois) :: rest → ∃ t, exec .drainAddApply s = .next t ∧
        t.cores[k].run.drainBuf = (if rest = [] then none else some { b with rows := rest, applied := b.applied + 1 }) ∧
        (s.taskOf b.tid = none → t.hbm = s.hbm ∧ ∀ i : CoreId, t.cores[i].sram = s.cores[i].sram) ∧
        ∀ u, s.taskOf b.tid = some u →
          let a := s.addRow u (b.addr + 512 * j) b.clamp x pois
          let ti := (tileRow b.tile j).1
          t.hbm = a.1.hbm ∧ (∀ i : CoreId, t.cores[i].sram = a.1.cores[i].sram) ∧
          t.cores[k].ctx.a[ti].events = c.ctx.a[ti].events ||| a.2))) ∧
  ∀ (s : State) (tid : Word) (u : Task) (e : EffCmd), s.arg = .arrive tid u.born → s.taskOf tid = some u → s.sentOf u = some e →
    (∀ x ∈ s.agenda, x.2.bare ≠ .dev .effectCommandSend s.arg) →
    let q : Fin 16 := Fin.ofNat 16 e.b.toNat
    let taken (t : State) : Prop := (u.stand = .onCore → t.cores[u.core].run.sent = none) ∧
      (u.stand ≠ .onCore → ∀ x ∈ t.tasks, x.tid = tid → x.sent = none)
    (e.kind = .launch → s.queues[q].count = 63 → exec .effectCommandSend s = .next s) ∧
    (e.kind = .launch → s.queues[q].count ≠ 63 → ∃ t, exec .effectCommandSend s = .next t ∧ taken t ∧
      t.queues[q].slots = s.queues[q].slots.set s.queues[q].tail e.image ∧ t.queues[q].tail = s.queues[q].tail + 1 ∧
      t.queues[q].head = s.queues[q].head) ∧
    (e.kind = .cancel → ∃ t, exec .effectCommandSend s = .next t ∧ taken t)

/-- R41, R42, R104, R105, R320 to R326, R332: the trap sequence of a core whose oldest region traps. It waits for commands that have
started; then the region's snapshot is restored, and the handler is entered, with the record of R323 at TREC, PRIV set and the bundle at
TVEC after two bubbles; or the trap escalates; or, for a first mismatch, the region starts again. What the landed steps of the region and of
the later ones changed, where all of them are reversible, is given back latest first: registers; and of one such step alone a row of a tile,
a line or the whole of a weight buffer, bytes of an SRAM line, with their tags and bits, and the energy of the inverses is charged. A copy
into a register erased before it in the region leaves the register CLEAN. A tag claimed or cleared, and a ring set, advanced or reserved,
in the regions is as it was before. Nothing of the regions is in flight any more. How privilege and bubbles stand at the handler's entry is
the model's reading (log 41), and so is what is left of dissipative steps before such a copy (log 114). -/
def Obligations.TrapSteps : Prop :=
  ∀ (s : State) (k : CoreId) (z : Trap) (r : Region) (later : List Region), s.arg = .core k →
    let c := s.cores[k]
    let x := c.ctx.x
    let own := z.cause = .machineCheck ∨ z.cause = .staleView
    let head := r.head.toNat % 2 ^ 48
    let rec_ := c.ctx.phys x.trec.toNat
    let steps := c.run.regions.flatMap (·.landed)
    let untouched := ∀ u ∈ steps, ∀ a m o cl p, u.what = .bytes a m o cl p → a / 256 ≠ rec_ / 256
    let fails := x.priv = true ∨ x.tvec = 0 ∨ c.inBounds x.trec.toNat 64 = false ∨ (untouched ∧ c.poisonAt x.trec.toNat = true) ∨
      z.cause = .contextSaveFault
    let enters := x.priv = false ∧ x.tvec ≠ 0 ∧ c.inBounds x.trec.toNat 64 = true ∧ untouched ∧ c.poisonAt x.trec.toNat = false ∧
      z.cause ≠ .contextSaveFault
    let names := c.run.regions.flatMap fun g => g.tclrs ++ g.claims
    let rings := c.run.regions.flatMap (·.rings)
    c.run.phase = .trapping → c.run.trap = some z → z.region = some r.id → c.run.regions = later ++ [r] → (∀ g ∈ later, r.id < g.id) →
    (c.run.regions.map (·.id)).Nodup →
    (later = [] → (c.run.copies.any fun m => m.phase == .running) = true → ∃ t, exec .trapSequence s = .next t ∧
      t.cores[k].run.phase = .trapping ∧ t.cores[k].run.trap = some z ∧ t.cores[k].ctx = c.ctx ∧ t.cores[k].sram = c.sram) ∧
    (c.run.copies = [] → c.run.sent = none → ∃ t, exec .trapSequence s = .next t ∧
      let d := t.cores[k].ctx
      ((∀ u ∈ steps, u.fj ≠ none) →
        d.v = steps.foldl (fun v u => match u.what with
          | .vreg n mask old tag => v.set n ⟨(v[n].bits &&& ~~~mask) ||| (old &&& mask), tag⟩
          | _ => v) c.ctx.v) ∧
      d.x.emet = x.emet + BitVec.ofNat 64 ((steps.map fun u => u.fj.getD 0).sum) ∧
      (∀ n m old fj m' old' tag', r.landed = [⟨.vreg n m old .clean, some fj⟩, ⟨.vreg n m' old' tag', none⟩] → later = [] →
        d.v[n] = ⟨(c.ctx.v[n].bits &&& ~~~m) ||| (old &&& m), .clean⟩) ∧
      (∀ a i old clean tag fj, steps = [⟨.row a i old clean tag, some fj⟩] → r.resumed = false →
        d.a[a] = { c.ctx.a[a] with
          rows := c.ctx.a[a].rows.set i old, tag := tag
          clean := if clean then c.ctx.a[a].clean ||| BitVec.twoPow 128 i.val else c.ctx.a[a].clean &&& ~~~BitVec.twoPow 128 i.val } ∧
        ∀ b : TileId, b ≠ a → d.a[b] = c.ctx.a[b]) ∧
      (∀ w i old scales fj, steps = [⟨.line w i old scales, some fj⟩] →
        d.w[w] = { c.ctx.w[w] with lines := c.ctx.w[w].lines.set i old, scales := c.ctx.w[w].scales.set i scales } ∧
        ∀ b : BufId, b ≠ w → d.w[b] = c.ctx.w[b]) ∧
      (∀ w tag clean fj, steps = [⟨.ready w tag clean, some fj⟩] → d.w[w] = { c.ctx.w[w] with tag := tag, clean := clean } ∧
        ∀ b : BufId, b ≠ w → d.w[b] = c.ctx.w[b]) ∧
      (∀ w old fj, steps = [⟨.buf w old, some fj⟩] → d.w[w] = old ∧ ∀ b : BufId, b ≠ w → d.w[b] = c.ctx.w[b]) ∧
      (∀ a mask old clean pois fj, steps = [⟨.bytes a mask old clean pois, some fj⟩] → Memory.wf c.sram.bytes = true → c.run.cancel = false →
        z.kind = .retry ∨ (z.kind = .normal ∧ enters) →
        let was (y : Nat) : Byte := if a ≤ y ∧ y < a + 256 ∧ mask.getLsbD (y - a) = true then old.extractLsb' (8 * (y - a)) 8
          else memGet c.sram.bytes y
        (∀ y, y < rec_ ∨ rec_ + 64 ≤ y → memGet t.cores[k].sram.bytes y = was y) ∧
        (a / 256 ≠ rec_ / 256 →
          (clean = false → t.cores[k].sram.clean.contains (a / 256) = false) ∧
          (clean = true → (∀ y, y / 256 = a / 256 → was y = 0) → t.cores[k].sram.clean.contains (a / 256) = true) ∧
          ∀ b, pois = some b → t.cores[k].sram.poison.contains (a / 256) = b)) ∧
      (steps = [] → d.v = c.ctx.v ∧ d.w = c.ctx.w ∧ (r.resumed = false → d.a = c.ctx.a)) ∧
      (∀ (l l' : List (TagId × CTag)) (g : TagId) (old : CTag), names = l ++ (g, old) :: l' → (∀ p ∈ l', p.1 ≠ g) → d.tags[g] = old) ∧
      (∀ g : TagId, (∀ p ∈ names, p.1 ≠ g) → d.tags[g] = c.ctx.tags[g]) ∧
      (rings = [] → d.h = c.ctx.h) ∧
      (∀ h u, rings = [u] → (∃ o, u = .set h o) ∨ (∃ n st, u = .advp h n st) ∨ (∃ n, u = .advc h n) ∨ (∃ i, u = .rin h i) →
        ∀ i : RingId, i ≠ h → d.h[i] = c.ctx.h[i]) ∧
      (∀ h old, rings = [.set h old] → d.h[h] = old) ∧
      (∀ h n st q, rings = [.advp h n st] → c.ctx.h[h] = some q →
        let p := (q.prod + q.count - n % q.count) % q.count
        ∃ stamps : List (Fin 4), d.h[h] = some { q with prod := p, free := q.free + n, fill := q.fill - n, stamps := stamps } ∧
          ∀ j, j < q.stamps.length → stamps[j]? = if (List.range n).any (fun i => (p + i) % q.count == j) then some (st.getD j 0) else q.stamps[j]?) ∧
      (∀ h n q, rings = [.advc h n] → c.ctx.h[h] = some q →
        d.h[h] = some { q with cons := (q.cons + q.count - n % q.count) % q.count, fill := q.fill + n, free := q.free - n }) ∧
      (∀ h i q, rings = [.rin h i] → c.ctx.h[h] = some q →
        ((i + q.count - q.prod) % q.count < q.reserved →
          d.h[h] = some { q with reserved := q.reserved - 1, free := q.free + 1, done := q.done.set i false }) ∧
        (q.reserved ≤ (i + q.count - q.prod) % q.count →
          d.h[h] = some { q with fill := q.fill - 1, free := q.free + 1, prod := (q.prod + q.count - 1) % q.count })) ∧
      t.cores[k].run.flights = c.run.flights.filter (·.region < r.id) ∧
      d.s = r.snap.s ∧ d.p = r.snap.p ∧ d.x.srs = r.snap.srs ∧ d.x.vrb = r.snap.vrb ∧
      d.x.prb = r.snap.prb ∧ d.x.lcnt = r.snap.lcnt ∧ d.x.lstg = r.snap.lstg ∧
      d.x.tick = x.tick ∧ t.cores[k].run.regions = [] ∧ t.cores[k].run.trap = none ∧
      (c.run.cancel = true → z.cause ≠ .contextSaveFault → t.cores[k].run.phase = .stopping ∧ t.cores[k].run.escalated = none) ∧
      (c.run.cancel = false → z.kind = .retry → t.cores[k].run.phase = .running ∧ d.pc = r.head ∧ d.retry = true ∧ d.x.priv = x.priv) ∧
      (c.run.cancel = false → z.kind = .normal → fails →
        t.cores[k].run.phase = .stopping ∧ t.cores[k].run.escalated = some z.cause ∧ t.cores[k].run.code = 0 ∧
        t.events.head?.map (·.code) = some 0x40) ∧
      (c.run.cancel = false → z.kind = .normal → enters →
        t.cores[k].run.phase = .running ∧ d.x.priv = true ∧ d.pc = x.tvec ∧ t.cores[k].run.bubbles = 2 ∧
        (Memory.wf c.sram.bytes = true → t.cores[k].load x.trec.toNat 64 =
          (z.cause.code * 2 ^ 56 + (if own then 0 else z.pos.val) * 2 ^ 54 + (if own then head else z.bundle.toNat) + 2 ^ 64 * head +
            2 ^ 128 * (z.head.getD (r.head.setWidth 48)).toNat + 2 ^ 192 * (z.detail.toNat * 2 ^ 32 + z.index % 2 ^ 16) +
            2 ^ 256 * z.status.toNat + 2 ^ 320 * x.tick.toNat + 2 ^ 384 * x.tid.toNat) % 2 ^ 512)))

/-! ### The steps of the engines -/

/-- R197, R245, R246, R247, R347: a Weir command, of a core or of a task cancelled off its core, acts on its variable, here one of the
Weir's own memory: the atomics and SYN.POST leave the new value and answer; SYN.WAIT is granted where the value covers its k and nobody
waits before it, else it joins the queue; those who wait on a variable are granted in their order, each as soon as the value covers the k of
the first, which it then loses, and none before the first; the arrival that fills a barrier empties it under the next generation. A variable that does not
exist answers TRANSLATION, one in a poisoned page POISON, changing nothing. A task cancelled off its core leaves no wait behind (the model's reading, log 87). The answer
crosses to the core, where the result word is written and the tag completes together, and the next command may be sent; that the core waits
so is the model's reading (log 58), and what a poisoned page does here is its choice (log 99). -/
def Obligations.WeirSteps : Prop :=
  ∀ s : State, (s.sender s.arg = none → (∀ a b c d e f g, s.arg ≠ .reply a b c d e f g) → exec .weirOperation s = .next s) ∧
    (∀ tid born tag addr word st up, s.arg = .reply tid born tag addr word st up →
      (∀ u, s.taskOf tid = some u → u.born = born →
        let t := s.complete u tag addr word st up
        exec .weirOperation s = .next t ∧ exec .sequencerNumbering s = .next t ∧ exec .publishCounterWrite s = .next t ∧
        (u.stand = .onCore → t.cores[u.core].ctx.tags[tag] = ⟨.complete, st⟩ ∧ t.cores[u.core].run.sent = none ∧ t.hbm = s.hbm ∧
          ∀ i : CoreId, i ≠ u.core → t.cores[i] = s.cores[i])) ∧
      ((∀ u, s.taskOf tid = some u → u.born ≠ born) → exec .weirOperation s = .next s)) ∧
    (∀ (u : Task) (tag : TagId) (addr : Nat) (w : Option Word) (st : Word), u.stand = .onCore →
      s.answer u tag addr w st = s.cross u.core 6 (.dev .weirOperation (.reply u.tid u.born tag addr w st .none))) ∧
    ∀ (e : EffCmd) (u : Task) (tag : TagId), s.sender s.arg = some (u, e) → s.taskOf u.tid = some u → e.tag = some tag →
      let var := (e.a.extractLsb' 0 32).toNat
      let v := s.syncGet var
      let pos := (v.extractLsb' 0 32).toNat
      let gen := (v.extractLsb' 32 32).toNat
      let n := e.c.toNat
      let sets (w : Word) : State := { s with sync := waySet s.sync var w }
      let answers (t : State) (w : Word) : Out := .next (t.answer u tag e.b.toNat (some w) 0)
      let w : Waiter := ⟨var, u.tid, tag, e.b.toNat, n⟩
      (s.syncAt var = none → exec .weirOperation s = .next (s.answer u tag e.b.toNat none 3)) ∧
      let s1 := s.checkSync var
      (s.syncAt var ≠ none → s1.syncLost var = true →
        exec .weirOperation s = .next ((s1.answer u tag e.b.toNat none 5).grants var)) ∧
      (s.syncAt var ≠ none → s1.syncLost var = false → u.stand ≠ .onCore → e.kind = .synWait ∨ e.kind = .synBar →
        ∃ t, exec .weirOperation s = .next t ∧ ∀ x ∈ t.sems ++ t.bars, x.tid ≠ u.tid) ∧
      (s.syncAt var = some none → (∀ x ∈ s.sems, x.var ≠ var) →
        (e.kind = .synAdd → exec .weirOperation s = answers (sets (v + e.c)) v) ∧
        (e.kind = .synCas → exec .weirOperation s = answers (sets (if v = e.image.extractLsb' 0 64 then e.c else v)) v) ∧
        (e.kind = .synMin → exec .weirOperation s = answers (sets (if e.c.toInt < v.toInt then e.c else v)) v) ∧
        (e.kind = .synMax → exec .weirOperation s = answers (sets (if v.toInt < e.c.toInt then e.c else v)) v) ∧
        (e.kind = .synXch → exec .weirOperation s = answers (sets e.c) v) ∧
        (e.kind = .synLd → exec .weirOperation s = answers (sets v) v) ∧
        (e.kind = .synPost → exec .weirOperation s = answers (sets (v + e.c)) (v + e.c)) ∧
        (u.stand = .onCore →
          (e.kind = .synWait → v.toInt < n → exec .weirOperation s = .next { s with sems := s.sems ++ [w] }) ∧
          (e.kind = .synWait → n ≤ v.toInt → exec .weirOperation s = answers (sets (v - BitVec.ofNat 64 n)) (v - BitVec.ofNat 64 n)) ∧
          (e.kind = .synBar → (pos + 1) % 2 ^ 32 < n → exec .weirOperation s =
            .next { sets (BitVec.ofNat 64 (gen * 2 ^ 32 + (pos + 1) % 2 ^ 32)) with bars := s.bars ++ [{ w with n := pos }] }) ∧
          (e.kind = .synBar → n ≤ (pos + 1) % 2 ^ 32 → ∃ t, exec .weirOperation s = .next t ∧
            t.sync = waySet s.sync var (BitVec.ofNat 64 ((gen + 1) % 2 ^ 32 * 2 ^ 32)) ∧ t.bars = s.bars.filter (·.var != var)))) ∧
      (s.syncAt var = some none → u.stand = .onCore → e.kind.major ∈ [0x30, 0x31, 0x32, 0x33, 0x34, 0x35, 0x36, 0x37] →
        let waits : Bool := e.kind == .synWait
        let left : Word := if e.kind = .synAdd ∨ e.kind = .synPost then v + e.c
          else if e.kind = .synCas then (if v = e.image.extractLsb' 0 64 then e.c else v)
          else if e.kind = .synMin then (if e.c.toInt < v.toInt then e.c else v)
          else if e.kind = .synMax then (if v.toInt < e.c.toInt then e.c else v)
          else if e.kind = .synXch then e.c else v
        let queue := (s.sems ++ if waits then [w] else []).filter (·.var == var)
        let l0 := if waits then s.sync else waySet s.sync var left
        let takes (l : List (Nat × Word)) (x : Waiter) : List (Nat × Word) := waySet l var (wayGet l var - BitVec.ofNat 64 x.n)
        let after (i : Nat) : List (Nat × Word) := (queue.take i).foldl takes l0
        ∃ (n : Nat) (t : State), exec .weirOperation s = .next t ∧ t.sync = after n ∧
          t.sems.filter (·.var == var) = queue.drop n ∧ t.sems.filter (·.var != var) = s.sems.filter (·.var != var) ∧
          (∀ x, (queue.drop n).head? = some x → (wayGet t.sync var).toInt < x.n) ∧
          (∀ i x, i < n → queue[i]? = some x → (x.n : Int) ≤ (wayGet (after i) var).toInt ∧ ∀ q, s.taskOf x.tid = some q → q.stand = .onCore →
            ∃ y ∈ t.agenda, y.2.bare = .dev .weirOperation
              (.reply q.tid q.born x.tag x.addr (some (wayGet (after i) var - BitVec.ofNat 64 x.n)) 0 .none)) ∧
          (waits = false → ∃ y ∈ t.agenda, y.2.bare = .dev .weirOperation
            (.reply u.tid u.born tag e.b.toNat (some (if e.kind = .synPost then left else v)) 0 .none)))

/-- R203, R204, R205, R209, R212, R213, R242, R243, R248: the sequencer numbers a release, of every append joined by then, or an acquire
with the next number and answers it; with the answer an acquire is complete, and from then on its horizons stand at its number, or where
a forced advance has put them since; a PUBLISH whose address lies in a window, aligned, and whose link does not fail writes its counter;
compaction folds the records at the front of a log released at or below the floor into their home copies and leaves none of them; a log
timeout moves every lagging task of the launch to a fresh horizon and gives it STALE-VIEW, on its core, suspended or past its END, and no
other task; where nothing of the log is released the writer alone is treated so. Of the model's readings, a log is of the TID that names it
and window addresses have bits [59:48] zero (log 48), compaction follows after a free time (log 9), a suspended task lags until its
resumption (log 40), records are not read back from the log's area (log 112), and an acquire completes with its answer (log 58). -/
def Obligations.ReleaseSteps : Prop :=
  ∀ (s : State) (u : Task),
    let n := s.seq
    let num : Word := BitVec.ofNat 64 (n % 2 ^ 48)
    let answers (t : State) (tag : TagId) (e : EffCmd) (w : Option Word) (st : Word) (up : Raise) : State :=
      t.answerBy 5 .sequencerNumbering u tag e.b.toNat w st up
    let answered (t : State) (tag : TagId) (st : Word) : Out := .next (t.answerBy 5 .publishCounterWrite u tag 0 none st .none)
    let at_ (x : Task) (w : Nat) : Nat := ((x.horizons.find? (·.1 == w)).map (·.2)).getD x.horizon
    let published : List Log := s.logs.map fun x => if x.tid == u.tid then
      { x with sticky := 0, dropped := 0
               recs := x.recs.map fun r => if r.release = none then { r with release := some n } else r }
      else x
    (∀ e tag l, s.sender s.arg = some (u, e) → e.tag = some tag → s.launchOf u.launch = some l →
      let one := { s with seq := n + 1 }
      (e.kind = .rel ∨ e.kind = .phase →
        let up : Raise := if e.kind = .phase then .all n else .none
        (∀ g, s.logOf u.tid = some g →
          let d := min g.dropped 255
          exec .sequencerNumbering s = .next (answers { one with logs := published } tag e
            (some (BitVec.ofNat 64 (d * 2 ^ 48) ||| num)) (if d = 0 then 0 else g.sticky) up)) ∧
        (s.logOf u.tid = none → exec .sequencerNumbering s = .next (answers one tag e (some num) 0 up))) ∧
      (e.kind = .acq → tidOfLaunch l e.a = true →
        exec .sequencerNumbering s = .next (answers one tag e (some num) 0 (.logs [s.holderOf e.a] n))) ∧
      (e.kind = .acq → tidOfLaunch l e.a = false → exec .sequencerNumbering s = .next (answers one tag e (some num) 4 .none)) ∧
      (e.kind = .acqs → exec .sequencerNumbering s = .next (answers one tag e (some num) 0
        (.logs (((s.tasksOf l.num).filter fun x => (x.core.val / 96 * 128 + x.core.val % 96) / 8 == (e.a.extractLsb' 3 6).toNat).map (·.born))
          n)))) ∧
    (∀ tid born tag addr word st up, s.arg = .reply tid born tag addr word st up → s.taskOf tid = some u → u.born = born → u.stand = .onCore →
      ∃ t y, exec .sequencerNumbering s = .next t ∧ t.taskOf tid = some y ∧ (∀ x ∈ s.tasks, x.tid ≠ tid → x ∈ t.tasks) ∧
        (up = .none → y = u) ∧
        (∀ m, up = .all m → y.horizon = max u.horizon m ∧ ∀ w, m ≤ at_ y w ∧ at_ u w ≤ at_ y w) ∧
        ∀ ws m, up = .logs ws m → y.horizon = u.horizon ∧ ∀ w, at_ y w = if w ∈ ws then max (at_ u w) m else at_ u w) ∧
    (∀ e tag, s.sender s.arg = some (u, e) → e.tag = some tag →
      let t := { s with free := s.free + 1 }
      (∀ x, s.hostAddr e.b 8 = .error x → exec .publishCounterWrite s = answered t tag x) ∧
      (∀ a, s.hostAddr e.b 8 = .ok a →
        (e.b.toNat % 8 ≠ 0 → exec .publishCounterWrite s = answered t tag 4) ∧
        (e.b.toNat % 8 = 0 → Config.freeNat s.free 0 % 2 = 1 → exec .publishCounterWrite s = answered t tag 7) ∧
        (e.b.toNat % 8 = 0 → Config.freeNat s.free 0 % 2 ≠ 1 →
          exec .publishCounterWrite s = answered { t with host := memPut s.host a e.c.toNat 8 } tag 0))) ∧
    (∀ i l, s.arg = .launch i → s.launchOf i = some l → ∃ t, exec .logCompaction s = .next t ∧ t.tasks = s.tasks ∧ t.host = s.host ∧
      (∀ k : CoreId, t.cores[k].ctx = s.cores[k].ctx ∧ t.cores[k].sram = s.cores[k].sram) ∧
      (t.logs = s.logs.map fun g => if g.launch == i then
        { g with recs := g.recs.dropWhile fun r => (r.release.map fun q => decide (q ≤ s.floor i)).getD false } else g) ∧
      ((∀ g ∈ s.logs, g.launch = i → ∀ r ∈ g.recs.head?, ∀ q ∈ r.release, s.floor i < q) → t.hbm = s.hbm) ∧
      (∀ g r e q p, s.logs = [g] → g.launch = i → g.recs = [r] → r.entry = some e → r.release = some q → q ≤ s.floor i →
        (s.checkWalk l.space e.addr.toNat).resolve l.space true .read e.addr.toNat = .ok p →
        t.hbm = hbmPut s.hbm p.pat p.dpa e.data.toNat e.bytes)) ∧
    (∀ k t0 l g, s.arg = .core k → s.cores[k].run.fullSince = some t0 → s.launchOn k = some l →
      s.logOf s.cores[k].ctx.x.tid = some g → s.taskOf s.cores[k].ctx.x.tid = some u → (s.tasks.map (·.tid)).Nodup →
      let due := t0 + 4096 * (if l.lrec.timeout = 0 then 1000 else l.lrec.timeout)
      let isStale (d : BitVec 32) (z : Trap) : Prop := z.cause = .staleView ∧ z.detail = d ∧ z.region = none
      let reached (t : State) (x : Task) (d : BitVec 32) : Prop :=
        (x.stand = .onCore → s.cores[x.core].run.phase ≠ .idle → ∃ z ∈ t.cores[x.core].run.held, isStale d z) ∧
        (∃ y, t.taskOf x.tid = some y ∧ (x.stand ≠ .suspended → n ≤ y.horizon ∧ y.horizons = []) ∧
          (x.stand = .suspended → ∃ z ∈ y.held, z.cause = .staleView) ∧
          (x.stand = .parked → (x.cancel = true → y.held = []) ∧ (x.cancel = false → ∃ z, y.held = [z] ∧ isStale d z)))
      (s.now < due → exec .logTimeout s = .next s) ∧
      (due ≤ s.now → (∀ r ∈ g.recs, r.release = none) → ∃ t, exec .logTimeout s = .next t ∧ reached t u 1 ∧
        ∀ x ∈ s.tasks, x.tid ≠ u.tid → t.taskOf x.tid = some x) ∧
      (∀ q, due ≤ s.now → g.recs.findSome? (·.release) = some q → ∃ t, exec .logTimeout s = .next t ∧
        t.agenda = s.agenda ++ [(s.now + 1 + Config.delay s.free, .dev .logCompaction (.launch l.num))] ∧
        ∀ x ∈ s.tasks, (x.launch = l.num → s.leastOf x < q → reached t x 0) ∧
          (x.launch ≠ l.num ∨ q ≤ s.leastOf x → t.taskOf x.tid = some x)))

/-- R186, R187, R197, R296 to R301: an address is translated from the root of its space. Each level reads the entry that the address's bits
of that level name, stops at the first leaf, goes on in a table or fails with TRANSLATION; an entry in a poisoned page fails a copy with
POISON. A leaf then lets the access pass or not, and its frame followed by the address's low bits is the place. For a command's engines
every entry is an atom of the command (R297): its data, once there, is held by the site, and the walk goes on from it; a site that holds
entries begins below the deepest; a walk of which a shootdown has dropped an entry begins again. A fetch fails with BOUNDS or PRIV where its
translation fails, and while some site still holds the leaf of a page that was not executable (R300). That entries are atoms under the plain
address pattern, and one in a poisoned page fails with POISON, are the model's readings (logs 85, 54); that a spill, a fill or a fetch goes
on with unspecified data there is its choice (log 98). -/
def Obligations.AddressTranslation : Prop :=
  let low (level : Nat) : Nat := [39, 30, 21].getD level 16
  let span (level : Nat) : Nat := if level = 3 then 32 else 512
  (∀ (level : Nat) (e : Word), level < 4 →
    let f (lo n : Nat) : Nat := (e.extractLsb' lo n).toNat
    (seenAt level e = .leaf ↔ e.getLsbD 63 = true ∧ e.getLsbD 62 = true ∧ level ≠ 0 ∧ f 40 13 = 0 ∧ f 0 8 = 0 ∧ f 36 4 ≤ 11 ∧ f 54 2 ≠ 3 ∧
      ¬ (e.getLsbD 61 = true ∧ e.getLsbD 60 = true) ∧ ¬ (e.getLsbD 60 = true ∧ e.getLsbD 59 = true) ∧ f 0 36 % 2 ^ low level = 0 ∧
      f 0 36 + 2 ^ low level ≤ 0xFFFE00000) ∧
    (∀ n, seenAt level e = .table n ↔ n = f 0 40 ∧ e.getLsbD 63 = true ∧ e.getLsbD 62 = false ∧ level ≠ 3 ∧ f 53 9 = 0 ∧ f 40 13 = 0 ∧
      f 0 8 = 0 ∧ f 36 4 ≤ 11 ∧ (level ≤ 1 → f 8 4 = 0)) ∧
    (seenAt level e = .leaf → ∀ (hpat : Vector Word 8) (va : Nat),
      let p := placeOf hpat level e va
      let off := f 0 36 + va % 2 ^ low level
      p.dpa = f 36 4 * 2 ^ 36 + off ∧ p.logged = e.getLsbD 59 ∧ p.exposed = f 54 2 ∧
        p.chan.val = f 36 4 * 256 + hashChan (hpat.toList.getD (f 56 3) 0) off)) ∧
  (∀ (s : State) (sp : Space) (va : Nat),
    (2 ^ 48 ≤ va → s.walk sp va = .error 3) ∧ (va < 2 ^ 48 → s.walk sp va = s.walkFrom va sp.root [0, 1, 2, 3]) ∧
    (∀ (table level : Nat) (rest : List Nat), level < 4 →
      let a := table + 8 * (va / 2 ^ low level % span level)
      let e := memBits s.hbm 64 a 8
      (s.poisoned a = true → s.walkFrom va table (level :: rest) = .error 5) ∧
      (s.poisoned a = false →
        (seenAt level e = .leaf → s.walkFrom va table (level :: rest) = .ok (level, e)) ∧
        (seenAt level e = .bad → s.walkFrom va table (level :: rest) = .error 3) ∧
        ∀ n, seenAt level e = .table n → s.walkFrom va table (level :: rest) = s.walkFrom va n rest)) ∧
    (∀ priv acc x, s.walk sp va = .error x → s.resolve sp priv acc va = .error x ∧ 
      s.fetchFault sp priv va = if x = 5 then none else some (.bounds, x)) ∧
    (∀ priv level e, s.walk sp va = .ok (level, e) →
      let p := placeOf s.hpat level e va
      let writes := e.getLsbD 61 = true
      let logged := e.getLsbD 59 = true
      let stale := s.sites.toList.any fun t => (t.held sp va).any fun x => !x.2.getLsbD 60
      (e.getLsbD 53 = true → priv = false → (∀ acc, s.resolve sp priv acc va = .error 4) ∧ s.fetchFault sp priv va = some (.priv, 4)) ∧
      (e.getLsbD 53 = false ∨ priv = true → s.resolve sp priv .read va = .ok p ∧
        s.resolve sp priv .write va = (if writes ∧ ¬ logged then .ok p else .error 4) ∧
        s.resolve sp priv .append va = (if writes ∧ logged then .ok p else .error 4) ∧
        s.resolve sp priv .fetch va = (if e.getLsbD 60 then .ok p else .error 4) ∧
        s.fetchFault sp priv va = if e.getLsbD 60 = true ∧ stale = false then none else some (.bounds, 4)))) ∧
  (∀ (t : Site) (sp : Space) (va : Nat),
    ((∀ l, l < 3 → t.entry sp va l = none) → t.walkOf sp va = ⟨va, 0, sp.root⟩) ∧
    ∀ l e, l < 3 → t.entry sp va l = some e → (∀ j, l < j → j < 3 → t.entry sp va j = none) →
      t.walkOf sp va = ⟨va, l + 1, (e.extractLsb' 0 40).toNat⟩) ∧
  ∀ (s : State) (k : CoreId) (id i : Nat) (m : Cmd) (a : Atom) (w : Walk), s.arg = .atom k id i → s.cores[k].cmdOf id = some m →
    m.atoms[i]? = some a → a.role = .entry → m.walk = some w →
    let e := a.data.extractLsb' (8 * (a.va % 32)) 64
    let sp := s.spaceOn k
    let n := siteOf k
    ∃ t m', exec .readAtomWrite s = .next t ∧ t.cores[k].cmdOf id = some m' ∧ t.hbm = s.hbm ∧
      (∀ j : CoreId, j ≠ k → t.cores[j] = s.cores[j]) ∧ (∀ j : Fin 48, j ≠ n → t.sites[j] = s.sites[j]) ∧
      (s.isDropped (k, m.id) = true → t.isDropped (k, m.id) = false ∧ m'.walk = some (s.sites[n].walkOf sp w.va) ∧
        t.sites[n].tlb = s.sites[n].tlb ∧ ∃ b, m'.atoms = m.atoms.take i ++ [b] ∧ b.role = .entry ∧ b.started = true ∧ b.start = s.now) ∧
      (s.isDropped (k, m.id) = false → a.bad = true →
        (m.kind.moves = false → m'.halted = true ∧ m'.status = addFail m.status 5 ∧ t.sites = s.sites) ∧
        (m.kind.moves = true → m'.halted = m.halted ∧ m'.status = m.status ∧ m'.walk = none ∧ t.sites = s.sites ∧
          t.agenda = s.agenda ++ [(s.now + 1 + Config.delay s.free, .dev .copyStart (.cmd k id))] ∧
          ∀ (j : Nat) (b b' : Atom), j < i → m.atoms[j]? = some b → m'.atoms[j]? = some b' →
            if b.started = false ∧ b.va / 65536 = w.va / 65536 then b'.done = true ∧ b'.bad = true ∧ b'.va = b.va else b' = b)) ∧
      (s.isDropped (k, m.id) = false → a.bad = false →
        (seenAt w.level e = .bad → m'.halted = true ∧ m'.status = addFail m.status 3 ∧ t.sites = s.sites) ∧
        (∀ x, seenAt w.level e = .table x → m'.walk = some ⟨w.va, w.level + 1, x⟩ ∧ t.sites[n].entry sp w.va w.level = some e ∧
          ∃ b, m'.atoms = m.atoms.take i ++ [b] ∧ b.role = .entry ∧ b.started = true ∧ b.start = s.now ∧ b.write = false ∧
            (w.level < 3 → b.va = x + 8 * (w.va / 2 ^ low (w.level + 1) % span (w.level + 1)) ∧ b.dpa = b.va / 32 * 32)) ∧
        (seenAt w.level e = .leaf → m'.walk = none ∧ t.sites[n].held sp w.va = some (w.level, e) ∧
          t.agenda = s.agenda ++ [(s.now + 1 + Config.delay s.free, .dev .copyStart (.cmd k id))]))

/-- R68, R182 to R184, R187, R189, R202, R226: the fields and the faults of a shape record; the bytes a copy moves between far memory and the
scratchpad, one for each byte of a present element and each scale of a present block, at the place the record gives it, and every other byte
of the scratchpad's rows filled with zero, every absent block with -128; atoms hold those bytes in their order, and the padding of a 32-byte
unit of the scratchpad goes with an atom of the unit, or is written on its own where no atom brings bytes of it; and the address hash: bit k
of a pseudo-channel is offset bit 5 + k, with the bit that byte k of the pattern selects, and maps the addresses of one 8 KiB block
one-to-one. The width of a RAW element is free (log 59); that padding goes with the last atom of its unit, or as an atom of its own, is the
model's reading (log 109). -/
def Obligations.ShapesAndChannels : Prop :=
  (∀ r : BitVec 512,
    let h := shapeOf r
    let f (lo n : Nat) : Nat := (r.extractLsb' lo n).toNat
    h.base = f 0 48 ∧ h.fmt = f 48 4 ∧ h.swz.val = f 52 2 ∧ h.scales = f 64 48 ∧ h.gen = f 112 12 ∧
      h.e0 = f 128 32 ∧ h.e1 = f 160 32 ∧ h.e2 = f 192 32 ∧ h.e3 = f 224 32 ∧
      h.t1 = (r.extractLsb' 288 32).toInt ∧ h.t2 = (r.extractLsb' 320 32).toInt ∧ h.t3 = (r.extractLsb' 352 32).toInt ∧
      h.p0 = f 384 32 ∧ h.p1 = f 416 32 ∧ h.p2 = f 448 32 ∧ h.p3 = f 480 32 ∧
      (h.sound = true ↔ f 54 10 = 0 ∧ f 124 4 = 0 ∧ 1 ≤ h.fmt ∧ h.fmt ≤ 9 ∧ f 256 32 = 0 ∧
        0 < h.e0 ∧ 0 < h.e1 ∧ 0 < h.e2 ∧ 0 < h.e3 ∧ h.p0 ≤ h.e0 ∧ h.p1 ≤ h.e1 ∧ h.p2 ≤ h.e2 ∧ h.p3 ≤ h.e3)) ∧
  (∀ (h : Shape) (origin : Int) (x r : Nat), r < h.rows →
    let i1 := r % h.e1
    let i2 := r / h.e1 % h.e2
    let i3 := r / (h.e1 * h.e2)
    let row := i1 < h.p1 ∧ i2 < h.p2 ∧ i3 < h.p3
    (∀ b, b < h.pitch →
      let at_ := h.scr x (r * h.pitch + b)
      let here := row ∧ b < (h.p0 * h.nibbles + 1) / 2
      (here → (((origin + i1 * h.t1 + i2 * h.t2 + i3 * h.t3 + b) % 2 ^ 64).toNat, at_) ∈ h.pairs origin x) ∧
      (¬ here → (at_, (0 : Byte)) ∈ h.fills x)) ∧
    (∀ b, h.scales ≠ 0 → b < (h.e0 + 31) / 32 →
      let at_ := x + h.rows * h.pitch + (h.e0 + 31) / 32 * r + b
      (row ∧ 32 * b < h.p0 → (h.scales + b + (h.e0 + 31) / 32 * (i1 + h.e1 * (i2 + h.e2 * i3)), at_) ∈ h.pairs origin x) ∧
      (¬ (row ∧ 32 * b < h.p0) → (at_, (0x80 : Byte)) ∈ h.fills x))) ∧
  (∀ l : List (Nat × Nat), ((gatherAtoms l).flatMap fun a => a.2.map fun p => (32 * a.1 + p.1, p.2)) = l ∧
    ∀ a ∈ gatherAtoms l, a.2 ≠ [] ∧ ∀ p ∈ a.2, p.1 < 32) ∧
  (∀ (l : List Atom) (fills : List (Nat × Byte)), (∀ a ∈ l, a.pads = []) →
    let r := padAtoms l fills
    (r.take l.length).map (fun a => { a with pads := [] }) = l ∧ (∀ p ∈ fills, ∃ a ∈ r, p ∈ a.pads) ∧
    (∀ a ∈ r.take l.length, ∀ p ∈ a.pads, p ∈ fills ∧ ∃ q ∈ a.moves, q.2 / 32 = p.1 / 32) ∧
    ∀ a ∈ r.drop l.length, a.role = .fill ∧ a.moves = [] ∧ ∀ p ∈ a.pads, p ∈ fills ∧ (∀ b ∈ l, ∀ q ∈ b.moves, q.2 / 32 ≠ p.1 / 32) ∧
      ∀ q ∈ a.pads, q.1 / 32 = p.1 / 32) ∧
  ∀ (pat : Word) (off : Nat),
    (∀ k, k < 8 →
      let sel := (pat.extractLsb' (8 * k) 8).toNat
      (hashChan pat off).testBit k = (off.testBit (5 + k)).xor (sel != 0 && off.testBit sel)) ∧
    hashChan pat off < 256 ∧
    (off < 2 ^ 36 → ∀ stack, stack < 12 → (chanOf pat (stack * 2 ^ 36 + off)).val = stack * 256 + hashChan pat off) ∧
    ∀ off', hpatBad pat = false → off / 2 ^ 13 = off' / 2 ^ 13 → hashChan pat off = hashChan pat off' → off / 32 = off' / 32

/-- R133, R182, R189, R206, R209, R226, R227, R250, R268, R299: COPY_START takes the first command whose start rule holds. It runs from then
on with the records of its view. A spill or a fill is laid out at once; a launch without a shape table, or a record of another generation,
makes a copy stale; a record that its site does not hold is read by two atoms of the command's own. A record that fits, held there, lays a
CPY.IN, CPY.INX or CPY.OUT out: the bytes of the rows with present elements, gathered into atoms in element order. They start in that order,
32 in a clock, no earlier than those before them in the queue, each placed by the leaf that its site holds for its page, and read from the
command's view where the page is logged. A record that does not fit fails with PERMISSION. Of the model's readings, a stale command completes
in its queue's order (log 69), a record is read by two atoms under the plain address pattern (log 85), and the guards of prompts and arenas
are tested byte by byte at the start (log 96). -/
def Obligations.CopyStarts : Prop :=
  ∀ (s : State) (k : CoreId), s.arg = .core k →
    let c := s.cores[k]
    let sp := s.spaceOn k
    let site := s.sites[siteOf k]
    let shapes := ((s.launchOn k).map (·.lrec.shapes)).getD 0
    let same (t : State) : Prop := (∀ i : CoreId, i ≠ k → t.cores[i] = s.cores[i]) ∧ t.hbm = s.hbm ∧ t.host = s.host ∧
      t.cores[k].sram = c.sram ∧ t.cores[k].ctx = c.ctx
    (c.run.copies.find? c.mayStart = none → exec .copyStart s = .next s) ∧
    ∀ m, c.run.copies.find? c.mayStart = some m → m.pages = [] → m.halted = false → m.walk = none →
      let va := shapes + 64 * (m.handle.extractLsb' 0 20).toNat
      let held := site.records.find? fun r => r.tag == sp.tag && r.root == sp.root && r.va == va
      ∃ t m', exec .copyStart s = .next t ∧ same t ∧ t.cores[k].cmdOf m.id = some m' ∧ m'.phase = .running ∧
        (∀ u, s.taskOf c.ctx.x.tid = some u → m'.recs = s.replay c.ctx.x.tid (s.viewOf u m.hole)) ∧
        let part (r : Role) : List Atom := m'.atoms.filter (·.role == r)
        let moves : List (Nat × Bool × List (Nat × Nat)) := (part .bytes).map fun a => (a.va, a.write, a.moves)
        (m.kind.moves = true → m'.halted = false → m'.planned = true ∧
          moves = (gatherAtoms m.imagePairs).map fun p => (32 * p.1, m.kind == .spill, p.2)) ∧
        (m.kind.moves = false → shapes = 0 → m'.stale = true ∧ m'.planned = true) ∧
        (m.kind.moves = false → shapes ≠ 0 → held = none → m'.halted = false →
          (part .record).map (·.va) = [va / 32 * 32, va / 32 * 32 + 32]) ∧
        (∀ r, m.kind.moves = false → shapes ≠ 0 → held = some r →
          let h := shapeOf r.bits
          (h.gen ≠ (m.handle.extractLsb' 20 12).toNat → m'.stale = true ∧ m'.atoms = []) ∧
          (h.gen = (m.handle.extractLsb' 20 12).toNat → m.kind = .cin ∨ m.kind = .inx ∨ m.kind = .out →
            let out := m.kind == .out
            let x := if out then m.a.toNat else m.b.toNat
            let far := (h.base : Int) + (if out then m.b else m.a).toInt
            let bad := h.unfit = true ∨ c.granted < x + h.footprint
            (bad → m'.halted = true ∧ m'.status = addFail m.status 4 ∧ m'.atoms = []) ∧
            (¬ bad →
              (m'.halted = false → moves = (gatherAtoms (h.pairs far x)).map fun p => (32 * p.1, out, p.2)) ∧
              (out = false → m'.halted = false → ∀ p ∈ h.fills x, ∃ a ∈ m'.atoms, p ∈ a.pads) ∧
              ∀ (i : Nat) (a : Atom), (part .bytes)[i]? = some a → a.started = true →
                a.start = c.firstClock m s.now + i / 32 ∧ ∃ leaf, site.held sp a.va = some leaf ∧
                  leafDenies leaf.2 m.priv (if out then .write else .read) = none ∧
                  (out = true → ∀ p ∈ a.moves, s.guarded sp c.ctx.x.tid (a.va + p.1) true = false) ∧
                  (let p := placeOf s.hpat leaf.1 leaf.2 a.va
                   a.dpa = p.dpa ∧ a.chan = p.chan ∧ (a.owned = !p.logged) ∧
                   (p.logged = true → a.data = BitVec.ofNat 256 (viewBytes m'.recs (fun d => m.home s.hbm (cellOf p.pat d)) a.va p.dpa 32))))))

/-- R133, R134, R189, R193, R214, R219, R226, R228, R229, R231, R233, R347: the steps of a copy from the data of its atoms to its
completion. What reaches a scratchpad are the bytes of an atom, with the padding of its unit, and nothing else; a line that takes poisoned
bytes is poisoned, one that has taken all its 256 bytes unpoisoned is not. An engine starts no atom, nor a unit of padding alone, of whose
scratchpad bytes an earlier command of its queue has one to write. A command completes once it has nothing outstanding and no earlier
one of its queue is under way: its tag takes its final status. A CPY.INX lands whole, or, having failed, on the lines it
must poison alone. A peer copy moves one unit of 32 bytes at a time, which one being free; it crosses from the site's fabric to its target's
core, and the completion to the command's; CPY.FAB and CPY.HOST send an atom at a time, whose
answer is free. A fill's registers join the results that land in its cycle. The clocks at which these come are the model's (log 62), as are
what the far side answers and that units come in a free order (log 51), and when a line's poison changes (log 95). Of its readings, a spill or
a fill that fails raises BOUNDS at its completion in position 1 with the registers it has moved (log 82), a fill that R33 refuses raises FORMAT
there (logs 100, 81), and a stale command's tag and trap come in its queue's order, a CPY.INX's at its start (log 69). -/
def Obligations.CopySteps : Prop :=
  ∀ (s : State) (k : CoreId),
    let c := s.cores[k]
    let others (t : State) : Prop := ∀ i : CoreId, i ≠ k → t.cores[i] = s.cores[i]
    let gone (t : State) (m : Cmd) : Prop := t.cores[k].run.copies = c.run.copies.filter (·.id != m.id)
    let ends (t : State) (m : Cmd) (st : Word) : Prop := (∀ g, m.tag = some g → t.cores[k].ctx.tags[g] = ⟨.complete, st⟩) ∧ gone t m ∧
      others t ∧ t.hbm = s.hbm ∧ t.host = s.host ∧ t.cores[k].ctx.v = c.ctx.v
    let pokes (x : Core) (r : Sram) (l : List (Nat × Byte)) : Sram := l.foldl (fun r p => r.poke (x.ctx.phys p.1) p.2) r
    let moved (a : Atom) : List (Nat × Byte) := a.moves.map fun p => (p.2, a.data.extractLsb' (8 * p.1) 8)
    (∀ id i m a, s.arg = .atom k id i → c.cmdOf id = some m → m.atoms[i]? = some a → a.role = .bytes ∨ a.role = .fill →
      ∃ t m', exec .readAtomWrite s = .next t ∧ others t ∧ t.hbm = s.hbm ∧ t.cores[k].ctx = c.ctx ∧ t.cores[k].cmdOf id = some m' ∧
        m'.atoms[i]?.map (·.done) = some true ∧
        (m.kind ≠ .cin → m.kind ≠ .rin → t.cores[k].sram = c.sram ∧
          m'.stage = if m.kind = .tr then stageNibbles m.stage a.data a.moves else m.stage) ∧
        (m.kind = .cin ∨ m.kind = .rin →
          let r := pokes c c.sram (moved a ++ a.pads)
          let lines := linesOf ((moved a ++ a.pads).map (·.1))
          let at_ (n : Nat) : Nat := c.ctx.phys (256 * n) / 256
          t.cores[k].sram.bytes = r.bytes ∧ t.cores[k].sram.clean = r.clean ∧
          (a.bad = true → t.cores[k].sram.poison = lines.foldl (fun l n => setInsert l (at_ n)) c.sram.poison) ∧
          (a.bad = false → t.cores[k].sram.poison =
            (lines.filter m'.wholeLine).foldl (fun l n => setErase l (at_ n)) c.sram.poison))) ∧
    (∀ id m a, s.arg = .cmd k id → c.cmdOf id = some m → m.kind ≠ .tr → m.phase = .running → m.halted = false → m.walk = none →
      (∀ q ∈ c.ahead m, q.starting = false) → (m.atoms.find? (!·.started)) = some a → a.role = .bytes ∨ a.role = .fill →
      let touches (x : Atom) (b : Nat) : Prop := (∃ p ∈ x.moves, p.2 = b) ∨ ∃ p ∈ x.pads, p.1 = b
      let later (x : Atom) : Prop := a.write = false ∧ a.role = .bytes ∧ x.role = .bytes ∧ x.served = true
      (∃ q ∈ c.ahead m, ∃ x ∈ q.atoms, x.done = false ∧ (∃ b, touches a b ∧ touches x b) ∧
        (((q.kind = .cin ∨ q.kind = .rin) ∧ ¬ later x) ∨ ((q.kind = .peer ∨ q.kind = .mc) ∧ x.dpa = c.ctx.x.tid.toNat))) →
      ∃ t m', exec .copyStart s = .next t ∧ t.cores[k].cmdOf id = some m' ∧ m'.atoms = m.atoms ∧ others t) ∧
    (∀ id m, s.arg = .cmd k id → c.cmdOf id = some m →
      (c.ahead m ≠ [] → exec .copyCompletion s = .next s) ∧
      (c.ahead m = [] → m.stale = true → ∃ t, exec .copyCompletion s = .next t ∧ ends t m (finalStatus (addFail m.status 4)) ∧
        (c.run.phase = .running → (c.run.regions.any (·.id == m.region)) = true → t.cores[k].run.phase = .trapping ∧
          (t.cores[k].run.trap.map fun z => (z.cause, z.region)) = some (.staleHandle, some m.region))) ∧
      (c.ahead m = [] → m.stale = false → m.settled = true → m.kind.exact = true → exec .copyCompletion s = .next s) ∧
      (c.ahead m = [] → m.stale = false → m.settled = true → m.kind.exact = false →
        ∃ t, exec .copyCompletion s = .next t ∧ ends t m (finalStatus m.status) ∧
          (m.ring = none → t.cores[k].sram = c.sram) ∧ t.cores[k].sram.bytes = c.sram.bytes ∧
          (∀ h n, m.tag ≠ none → m.ring = some (h, n) → failRank (finalStatus m.status &&& 0xF) > 0 →
            ∀ j, j < (c.ring h).size →
              t.cores[k].sram.poison.contains (c.ctx.phys (256 * ((c.ring h).base / 256 + (c.ring h).size * n + j)) / 256) = true)) ∧
      (c.ahead m = [] → m.stale = false → m.settled = false → m.kind ≠ .fab → m.kind ≠ .host → exec .copyCompletion s = .next s) ∧
      (∀ a i, c.ahead m = [] → m.stale = false → m.settled = false → m.kind = .fab ∨ m.kind = .host →
        m.atoms.zipIdx.find? (!·.1.done) = some (a, i) →
        let x := Config.freeNat s.free 0 % 4
        let fresh := m.kind = .fab ∧ ∀ b ∈ m.atoms.take i, b.va / 65536 ≠ a.va / 65536
        let dest (p : Nat × Nat) : Word := m.b.extractLsb' 48 16 ++ BitVec.ofNat 48 (a.va + p.1)
        let byte (p : Nat × Nat) : Byte := memGet c.sram.bytes (c.ctx.phys p.2)
        ∃ t m', exec .copyCompletion s = .next t ∧ others t ∧ t.hbm = s.hbm ∧ t.cores[k].sram = c.sram ∧ t.cores[k].cmdOf id = some m' ∧
          (x = 1 → m'.halted = true ∧ m'.atoms = [] ∧ m'.status = addFail m.status 7) ∧
          (x ≠ 1 → fresh → x = 2 ∨ x = 3 → t.host = s.host ∧ t.sentFab = s.sentFab ∧ m'.halted = true ∧
            m'.status = addFail m.status (if x = 2 then 4 else 3)) ∧
          (x = 0 ∨ (x ≠ 1 ∧ ¬ fresh) → m'.atoms[i]?.map (·.done) = some true ∧
            (m.kind = .fab → t.host = s.host ∧
              t.sentFab = s.sentFab ++ a.moves.map fun p => (m.b.extractLsb' 48 12, a.va + p.1, byte p)) ∧
            (m.kind = .host → t.sentFab = s.sentFab ∧ t.host = a.moves.foldl (fun h p => match s.hostAddr (dest p) 1 with
              | .ok y => memSet h y (byte p)
              | .error _ => h) s.host))) ∧
      (m.settled = false → exec .cpyInxLanding s = .next s) ∧
      (m.kind = .inx → m.settled = true →
        let failed := failRank (m.status &&& 0xF) > 0
        let bad (n : Nat) : Bool := m.bad.contains n || m.atoms.any fun a => a.bad && (moved a ++ a.pads).any (·.1 / 256 == n)
        ∃ t, exec .cpyInxLanding s = .next t ∧ ends t m (finalStatus m.status) ∧
          (¬ failed → t.cores[k].sram.bytes = (m.atoms.foldl (fun r a => pokes c r (moved a ++ a.pads)) c.sram).bytes) ∧
          (failed → t.cores[k].sram.bytes =
            (m.atoms.foldl (fun r a => pokes c r ((moved a).filter fun p => bad (p.1 / 256))) c.sram).bytes ∧
            ∀ n, bad n = true → t.cores[k].sram.poison.contains (c.ctx.phys (256 * n) / 256) = true)) ∧
      (c.ahead m ≠ [] → exec .peerCopyTransfer s = .next (s.later (.dev .peerCopyTransfer (.cmd k id)))) ∧
      (let left := m.atoms.zipIdx.filter (!·.1.done)
       ∀ a i, c.ahead m = [] → left[Config.freeNat s.free 256 % left.length]? = some (a, i) → ∃ t e, exec .peerCopyTransfer s = .next t ∧
        t.hbm = s.hbm ∧ (∀ j : CoreId, t.cores[j].sram = s.cores[j].sram ∧ t.cores[j].ctx = s.cores[j].ctx) ∧
        t.agenda = s.agenda ++ [e] ∧ s.now < e.1 ∧ e.2.bare = .dev .peerCopyTransfer (.atom k id i) ∧
        ∀ q, s.taskOf (BitVec.ofNat 64 a.dpa) = some q → q.stand = .onCore → ∃ p, e.2 = .item q.core 7 p .peerCopyTransfer (.atom k id i)) ∧
      (m.settled = false → exec .spillFillCompletion s = .next s) ∧
      (m.kind.moves = true → m.settled = true → ∃ t, exec .spillFillCompletion s = .next t ∧ gone t m ∧ others t ∧ t.hbm = s.hbm ∧
        t.host = s.host ∧ (m.tag = none → t.cores[k].ctx = c.ctx ∧ t.cores[k].sram = c.sram) ∧
        let ws := m.regs.zipIdx.map fun p => filledWrite p.1.1 p.1.2.tag m.guard (m.filled p.2).1 (m.filled p.2).2.1 (m.filled p.2).2.2
        let quiet := t.cores[k].run.trap = c.run.trap ∧ t.cores[k].run.phase = c.run.phase
        let traps (cause : Cause) (n : Nat) (st : Word) : Prop := c.run.trap = none → t.cores[k].run.phase = .trapping ∧
          t.cores[k].run.trap = some ⟨cause, 1, m.bundle, some m.region, none, BitVec.ofNat 32 n, 0, st, .normal⟩
        (c.doomed m.region = true → quiet ∧ t.cores[k].run.flights = c.run.flights) ∧
        (c.doomed m.region = false → m.halted = true → traps .bounds m.movedRegs (m.status &&& 0xF)) ∧
        (c.doomed m.region = false → m.halted = false → m.kind = .spill → quiet ∧ t.cores[k].run.flights = c.run.flights) ∧
        (c.doomed m.region = false → m.halted = false → m.kind = .fill → none ∈ ws → traps .format 0 0) ∧
        (c.doomed m.region = false → m.halted = false → m.kind = .fill → none ∉ ws → quiet ∧ t.cores[k].run.flights =
          (ws.filterMap fun w => w).foldl (fun l w => insertFlight ⟨1, m.ord, m.region, 1, m.bundle, .vec w⟩ l) c.run.flights))) ∧
    (∀ id i m a, s.arg = .atom k id i → c.cmdOf id = some m → m.atoms[i]? = some a → ∃ t m',
      exec .peerCopyTransfer s = .next t ∧ t.cores[k].cmdOf id = some m' ∧ m'.atoms[i]?.map (·.done) = some true ∧
        (∀ j : CoreId, t.cores[j].ctx = s.cores[j].ctx) ∧
        (m.kind = .peer ∨ m.kind = .mc → m.phase = .running → m.planned = true → m.walk = none → (∀ b ∈ m.atoms.eraseIdx i, b.done = true) →
          ∃ n p, t.agenda = s.agenda ++ [(n, .item k 7 p .copyCompletion (.cmd k id))]) ∧
        (s.taskOf (BitVec.ofNat 64 a.dpa) = none → t.hbm = s.hbm ∧ ∀ j : CoreId, t.cores[j].sram = s.cores[j].sram) ∧
        ∀ u q, s.taskOf m.source = some u → s.taskOf (BitVec.ofNat 64 a.dpa) = some q → q.stand = .onCore →
          let x := s.cores[q.core]
          let from_ := (m.a.extractLsb' 0 22).toNat + a.va
          let s1 := s.checkTask u from_ 32
          t.hbm = s.hbm ∧ (∀ j : CoreId, j ≠ q.core → t.cores[j].sram = s.cores[j].sram) ∧
          t.cores[q.core].sram.bytes = (a.moves.foldl (fun r p =>
            if p.2 < x.granted then r.poke (x.ctx.phys p.2) (s1.taskByte u (from_ + p.1)) else r) x.sram).bytes ∧
          (s1.taskPoison u from_ = true ∨ s1.taskLost u from_ = true → m'.status = addFail m.status 5 ∧ ∀ p ∈ a.moves, p.2 < x.granted →
            t.cores[q.core].sram.poison.contains (x.ctx.phys p.2 / 256) = true))

/-- R188 to R191, R194 to R197, R201: the slots of the calendar. An atom that waits alone and has slipped twice is served, whatever holds
its bank: a write takes its bytes now; a read is checked, and its data, or that of the command's view, or an unspecified one of a poisoned
page, follows at the end of clock S + 523. A slot that no core's atom waits for serves the oldest atom of a peer, under its mask, and
answers it, unless its bank is held. A channel asleep serves nothing. A reserved slot closes the row open in the bank it refreshes, and
resets the count of the first row that waits for a targeted refresh. A channel enters self-refresh once it has served nothing for 64
rotations, unless a request had come by the clock before. Of the model's readings, the data lands with its clock's landing or at the next
(log 62), a channel idle since reset counts from clock 0 (log 5), what peers write takes slots that are left (log 110), the moments at which
the idle timer is tested (log 102) and the order of the banks (log 103). That a refresh closes the row of its bank and a write-back changes no byte is the model's reading (log 86); whether
a bank is held otherwise is free (log 55). -/
def Obligations.ChannelSteps : Prop :=
  ∀ (s : State) (ch : ChanId) (slot : Nat) (f : Fin 768),
    let d := s.dramOf ch
    let at_ (e : Nat) : CoreId := Fin.ofNat 384 (96 * e + slot % 100 % 96)
    let own := at_ (ch.val / 768)
    let asleep := s.asleep.contains (ch.val / 4) = true
    (s.arg = .service ch slot → ¬ asleep → (∀ e, e < 4 → s.claims (at_ e) ch s.now = []) →
      ((∀ x ∈ s.inbox, x.chan ≠ ch) → exec .atomService s = .next s) ∧
      ∀ x, s.inbox.find? (·.chan == ch) = some x →
        let held := Config.freeNat s.free 0 % 2 = 1 ∨ s.bankHeld ch x.dpa = true
        (held → exec .atomService s = .next s.draw) ∧
        (¬ held → ∃ t, exec .atomService s = .next t ∧ t.inbox = s.inbox.erase x ∧ t.answers[x.port] = some .taken ∧ t.cores = s.cores ∧
          t.hbm = memPutMask s.hbm (x.dpa / 8192 * 8192 + 32 * (ch.val % 256) + x.dpa % 32) x.mask.toNat x.data.toNat 32)) ∧
    (s.arg = .service ch slot → asleep → ∃ t, exec .atomService s = .next t ∧ t.hbm = s.hbm ∧
      ∀ i : CoreId, t.cores[i].sram = s.cores[i].sram ∧ t.cores[i].ctx = s.cores[i].ctx) ∧
    (∀ x m, s.arg = .service ch slot → ¬ asleep → s.claims own ch s.now = [x] →
      (∀ e, e < 4 → e ≠ ch.val / 768 → s.claims (at_ e) ch s.now = []) → 2 ≤ x.atom.slips → s.queueHolds x = false →
      s.cores[own].cmdOf x.cmd = some m → m.atoms[x.i]? = some x.atom → ∃ t m', exec .atomService s = .next t ∧
        t.cores[own].cmdOf x.cmd = some m' ∧ (∀ i : CoreId, i ≠ own → t.cores[i] = s.cores[i]) ∧
        (x.atom.write = true → m'.atoms[x.i]?.map (fun a => (a.served, a.done)) = some (true, true) ∧
          t.hbm = (m.writeBytes s.cores[own] x.atom).foldl (fun h p => memSet h (x.atom.cell + p.1) p.2) s.hbm) ∧
        (x.atom.write = false → t.hbm = s.hbm ∧
          m'.atoms[x.i]?.map (fun a => (a.served, a.bad)) = some (true, t.poisoned x.atom.dpa) ∧
          (t.poisoned x.atom.dpa = false → m'.atoms[x.i]?.map (·.data) =
            some (if x.atom.owned then BitVec.ofNat 256 (memLe s.hbm x.atom.cell 32) else x.atom.data)) ∧
          (t.writeback = s.writeback ∨ t.writeback = s.writeback ++ [(ch, x.atom.dpa)]) ∧
          t.agenda = s.agenda ++
            [(s.now + (if m.kind.exact then 523 else 524), .dev .readAtomWrite (.atom own x.cmd x.i))])) ∧
    (s.arg = .service ch slot →
      let bank := (4 * (slot / 100) + (slot % 100 - 96)) % 64
      ∃ t, exec .refreshSlot s = .next t ∧ t.hbm = s.hbm ∧ t.cores = s.cores ∧
        (t.dramOf ch).opened = d.opened.filter (·.1 != bank) ∧
        (∀ key rest, d.queue = key :: rest → pairGet (t.dramOf ch).counts key = none ∧
          ((t.dramOf ch).queue = rest ∨ ∃ k, (t.dramOf ch).queue = rest ++ [k])) ∧
        (∀ key, pairGet d.opened bank = some key → d.queue.head? ≠ some key →
          pairGet (t.dramOf ch).counts key = some (min 2047 ((pairGet d.counts key).getD 0 + 1)))) ∧
    (s.arg = .chan ch →
      (s.writeback.find? (·.1 == ch) = none → exec .eccWriteback s = .next s) ∧
      (∀ w, s.writeback.find? (·.1 == ch) = some w → ∃ t, exec .eccWriteback s = .next t ∧ t.writeback = s.writeback.erase w ∧
        t.hbm = s.hbm ∧ t.cores = s.cores)) ∧
    (s.arg = .four f →
      (s.awaited f = true → exec .selfRefreshEntry s = .next { s with quiet := pairPut s.quiet f.val s.now }) ∧
      (s.awaited f = false → (pairGet s.quiet f.val).getD 0 + 32000 < s.now →
        exec .selfRefreshEntry s = .next { s with asleep := setInsert s.asleep f.val }) ∧
      (s.awaited f = false → s.now ≤ (pairGet s.quiet f.val).getD 0 + 32000 → exec .selfRefreshEntry s = .next s) ∧
      exec .selfRefreshExit s = .next { s with asleep := setErase s.asleep f.val, quiet := pairPut s.quiet f.val s.now })

/-! ### The steps of tasks, launches and groups -/

/-- R25, R120, R254, R255, R260, R261, R273, R275, R280, R285, R287, R343: how a task is asked to stop, is saved, retires and comes back. A
cancel or a request acts on the task it was sent to and on no later holder of its TID. At its taking point a frozen task splits its region,
or returns it to its head while a loop is armed. A save that its area does not allow ends the task. A parent waits for its siblings. A resumption
comes to a core that may still take its task. Of
the model's readings, a task cancelled after its END keeps its code (log 32), a parent past its END waits off its core (log 33), a save
that fails leaves event 0x30 and that of an escalation (log 35), and a task cancelled while it is suspended sends what it has queued from its
save area (log 87). -/
def Obligations.TaskSteps : Prop :=
  ∀ (s : State) (k : CoreId) (tid : Word),
    let c := s.cores[k]
    let pages (u : Task) : List Nat := savePages (((s.launchOf u.launch).map (·.lrec.cores)).getD 0)
    let asked (u : Task) : State := s.checkStores u.area (pages u)
    let mayWrite (u : Task) : Prop := (pages u).all (fun o => (asked u).areaAllows .write u.area o) = true
    (∀ n, s.arg = .born tid n → (∀ u, s.taskOf tid = some u → u.born ≠ n) →
      exec .cancelDelivery s = .next s ∧ exec .preemptRequest s = .next s) ∧
    (∀ u, s.arg = .born tid u.born → s.taskOf tid = some u →
      let marked : State := { s with tasks := s.tasks.map fun x => if x.tid == tid then { x with cancel := true } else x }
      (u.stand = .parked → exec .cancelDelivery s = .next marked) ∧
      (u.stand = .onCore → exec .cancelDelivery s = .next (marked.onCore u.core fun c => c.onRun fun r =>
        { r with cancel := true, phase := if r.phase = .preempting then .stopping else r.phase })) ∧
      (u.stand = .suspended → ∃ t, exec .cancelDelivery s = .next t ∧ (∀ x ∈ t.sems ++ t.bars, x.tid ≠ tid) ∧
        (t.taskOf tid).map (fun x => (x.stand, x.cancel, x.code)) = some (.parked, true, 0) ∧
        (t.taskOf tid).map (·.cmds) = some ((s.checkArea u.area [0x97000]).loadEffects u.area u.seeds ++ u.cmds) ∧
        .dev .effectCommandSend (.task tid) ∈ t.todo ∧ .dev .taskRetirement (.task tid) ∈ t.todo) ∧
      (u.stand = .onCore → exec .preemptRequest s = .next (s.onCore u.core fun c => c.onRun fun r =>
        { r with preempt := r.preempt || ((r.phase == .running || r.phase == .trapping) && !r.cancel)
                 fresh := r.fresh || (!r.preempt && (r.phase == .running || r.phase == .trapping) && !r.cancel) })) ∧
      (u.stand ≠ .onCore → exec .preemptRequest s = .next s)) ∧
    (∀ head, s.arg = .take k head → c.run.phase = .running →
      let drained := c.run.drain ≠ none ∧ c.ctx.x.armed = false
      (c.run.preempt = true → c.run.cancel = false → ¬ drained → c.ctx.x.armed = false ∨ c.run.atHead = true → c.run.openNext = true →
        c.run.frozen = [] →
        exec .preemptTake s = .next (s.onCore k fun c => c.onRun fun r => { r with phase := .preempting, take := (0, c.ctx.pc) })) ∧
      (c.run.preempt = true → c.run.cancel = false → drained → ∃ t,
        exec .preemptTake s = .next t ∧ t.cores[k].run.phase = .preempting ∧ t.cores[k].run.take = (2, c.run.loopTop)) ∧
      (c.run.preempt = true → c.run.cancel = false → ¬ drained → c.run.openNext = false → c.run.frozen ≠ [] → head = false →
        c.ctx.x.armed = false → ∃ t, exec .preemptTake s = .next t ∧ t.cores[k].run.phase = .preempting ∧
        t.cores[k].run.take = (1, c.ctx.pc) ∧ t.cores[k].run.frozen = [] ∧ ∀ g rest, c.run.regions = g :: rest →
          t.cores[k].run.regions = { g with checked := none, closed := true } :: rest) ∧
      (c.run.preempt = true → c.run.cancel = false → ¬ drained → c.run.frozen ≠ [] → head = true → c.ctx.x.armed = false → ∃ t,
        exec .preemptTake s = .next t ∧ t.cores[k].run.phase = .preempting ∧ t.cores[k].run.take = (1, c.ctx.pc)) ∧
      (c.run.preempt = true → c.run.cancel = false → c.run.drain = none → c.run.frozen ≠ [] → head = false → c.ctx.x.armed = true → ∃ t,
        exec .preemptTake s = .next t ∧ t.cores[k].run.phase = .trapping ∧ t.cores[k].run.regions = c.run.regions ∧
        (t.cores[k].run.trap.map fun z => (z.kind, z.region)) = some (.quiet, some c.regionId)) ∧
      (c.run.preempt = false ∨ c.run.cancel = true → exec .preemptTake s = .next s) ∧
      (c.run.cancel = false → exec .taskStop s = .next s) ∧
      (c.run.cancel = true → c.run.openNext = true → c.run.frozen = [] → ∃ t, exec .taskStop s = .next t ∧
        t.cores[k].run.phase = .stopping ∧ t.cores[k].run.code = 0 ∧ t.cores[k].ctx.s = c.ctx.s ∧
        (c.run.escalated = none → (c.run.copies.map (·.id)).Nodup → ∀ m ∈ c.run.copies, m.phase = .waiting → m.tag ≠ none →
          (t.cores[k].cmdOf m.id).map (fun x => (x.halted, x.atoms, x.status)) = some (true, [], addFail m.status 6)))) ∧
    (∀ u, s.arg = .core k → s.taskOf c.ctx.x.tid = some u →
      let two := c.run.take.1 = 2
      (c.run.phase ≠ .preempting ∨ s.maySave c = false → exec .contextSave s = .next s) ∧
      (c.run.phase = .preempting → s.maySave c = true → mayWrite u → ∃ t, exec .contextSave s = .next t ∧ t.cores[k].run = Run.reset ∧
        t.cores[k].ctx.pitch = [] ∧
        (t.taskOf u.tid).map (fun x => (x.stand, x.pitches)) = some (.suspended, c.ctx.pitch.map (PitchAt.resident k)) ∧
        t.hbm = ((asked u).areaWrite u.area
          (c.ctx.header c.run.take.1.val (if two then c.run.drain.getD 0 else 0) (if two then c.run.stages else 0) c.run.take.2 ++
            c.ctx.registers ++ c.ctx.statusBlock ++ pitchItems (c.ctx.pitch.map (PitchAt.resident k)) ++ effectItems c.run.effects ++
            s.horizonItems u (((s.launchOf u.launch).map (·.lrec.cores)).getD 0))).hbm) ∧
      (c.run.phase = .preempting → s.maySave c = true → ¬ mayWrite u → s.hasSiblings u.tid = false → ∃ t,
        exec .contextSave s = .next t ∧ (∀ x ∈ t.tasks, x.tid ≠ u.tid) ∧ ∃ e ∈ t.events, e.code = 0x30 ∧ e.source = coreNumber u.core) ∧
      (c.retires = false ∨ (c.run.phase ≠ .ended ∧ c.run.phase ≠ .stopping) → exec .taskRetirement s = .next s) ∧
      (c.retires = true → c.run.phase = .ended ∨ c.run.phase = .stopping → c.run.held = [] → s.hasSiblings u.tid = false →
        ∃ t, exec .taskRetirement s = .next t ∧ t.cores[k].run = Run.reset ∧ ∀ x ∈ t.tasks, x.tid ≠ u.tid) ∧
      (c.retires = true → c.run.phase = .ended ∨ c.run.phase = .stopping → c.run.held = [] → s.hasSiblings u.tid = true → mayWrite u →
        ∃ t, exec .taskRetirement s = .next t ∧ t.cores[k].run = Run.reset ∧
          (t.taskOf u.tid).map (fun x => (x.stand, x.pitches)) = some (.parked, c.ctx.pitch.map (PitchAt.resident k)))) ∧
    (∀ u, s.arg = .task tid → s.taskOf tid = some u →
      (u.stand ≠ .parked ∨ u.sent ≠ none ∨ u.cmds ≠ [] → exec .taskRetirement s = .next s) ∧
      (u.stand = .parked → u.sent = none → u.cmds = [] → u.held = [] → s.hasSiblings tid = true → exec .taskRetirement s = .next s) ∧
      (u.stand = .parked → u.sent = none → u.cmds = [] → u.held = [] → s.hasSiblings tid = false → ∃ t,
        exec .taskRetirement s = .next t ∧ ∀ x ∈ t.tasks, x.tid ≠ tid)) ∧
    (∀ i u q p, s.arg = .pitch tid i → s.taskOf tid = some u → u.pitches[i]? = some (.resident q p) →
      let s1 := s.checkStores u.area [areaPitch i, areaBits i, 0]
      s1.areaAllows .write u.area (areaPitch i) = true → s1.areaAllows .write u.area (areaBits i) = true → s1.areaAllows .write u.area 0 = true →
      ∃ t, exec .pitchWriteOut s = .next t ∧ (t.taskOf tid).map (·.pitches) = some (u.pitches.set i .saved) ∧ t.cores = s.cores) ∧
    (∀ n l, s.arg = .launch n → s.launchOf n = some l →
      (s.tasksOf n ≠ [] ∨ (∃ g ∈ s.groups, g.launch = n) → exec .completionFinalWrite s = .next s) ∧
      (s.tasksOf n = [] → (∀ g ∈ s.groups, g.launch ≠ n) → ∃ t, exec .completionFinalWrite s = .next t ∧
        t.launches = s.launches.filter (·.num != n) ∧ (∀ g ∈ t.logs, g.launch ≠ n) ∧
        let status := if l.cancelled then 3 else if l.overWear then 4 else if l.faulted then 5 else 0
        let word := 2 ^ 63 + status * 2 ^ 56 + l.code * 2 ^ 48 + min l.wear (2 ^ 40 - 1)
        ∀ v, l.lrec.done % 8 = 0 →
          ((s.compact n).checkWalk l.space l.lrec.done).writeVa l.space l.lrec.done 8 word = .ok v → t.hbm = v.hbm)) ∧
    (∀ u, s.arg = .place tid k → s.taskOf tid = some u →
      let s1 := s.checkArea u.area (pages u)
      let takes := c.accepts (((s.launchOf u.launch).map (·.lrec.floor)).getD 0)
      (u.stand ≠ .suspended ∨ c.run.phase ≠ .idle ∨ takes = false → exec .resumption s = .next s) ∧
      (u.stand = .suspended → c.run.phase = .idle → takes = true → u.core = k → (∀ p ∈ u.pitches, ∃ f, p = .resident k f) → u.held = [] →
        (pages u).all (fun o => s1.areaAllows .read u.area o) = true →
        ∃ t, exec .resumption s = .next t ∧ t.cores[k].run.phase = .running ∧ t.cores[k].ctx.s = (s1.loadCtx u.area).s ∧
          t.cores[k].ctx.v = (s1.loadCtx u.area).v ∧ t.cores[k].ctx.a = (s1.loadCtx u.area).a ∧ t.cores[k].ctx.w = (s1.loadCtx u.area).w ∧
          t.cores[k].ctx.resumed = some (s1.loadCtx u.area).pc ∧
          t.cores[k].ctx.pitch.map (PitchAt.resident k) = u.pitches ∧ (t.taskOf tid).map (·.stand) = some .onCore))

/-- R254, R256, R257, R258, R259, R260, R264, R293, R312: how a launch reaches the Inlet and a core. A slot takes what a granted master or
the owner writes into it; a record at the head of a queue is checked, numbered and read for its wait words, or rejected; a head whose cores
are free is placed on them; each ready candidate ages; one that has waited 2^20 distributor cycles at level 3 reserves, and the tasks that
the candidate may displace are asked to leave, those of its plan and no others, each of lower priority, with their gangs. Of the model's
readings, whether the governor holds a candidate is free (log 66), which tasks are asked is logs 68 and 91, a request over a link that is down
is not heard and a refused write answered as taken (log 20), and a refused value leaves event 0x07 (log 19). -/
def Obligations.LaunchSteps : Prop :=
  ∀ (s : State) (m : PortId) (q : Fin 16),
    (∀ i image, s.arg = .line m q i image → s.managed .inletSlotWrite m false (s.mgmt.grants[m].getLsbD q.val) true fun s =>
      s.onQueue q fun x => { x with slots := x.slots.set i image }) ∧
    (∀ (i : Fin 64) (j : Fin 32) v, s.arg = .write m (0x100000 + 0x4000 * q.val + 256 * i.val + 8 * j.val) v →
      s.managed .inletSlotWrite m false (s.mgmt.grants[m].getLsbD q.val) true fun s =>
        s.onQueue q fun x => { x with slots := x.slots.set i (putWord x.slots[i] j.val v) }) ∧
    (∀ v, s.arg = .write m (0x10000 + 32 * q.val) v →
      s.managed .inletTailWrite m false (s.mgmt.grants[m].getLsbD q.val) (v.extractLsb' 6 58 == 0) fun s =>
        let x := s.queues[q]
        let t : Fin 64 := Fin.ofNat 64 v.toNat
        if (t.val + 64 - x.head.val) % 64 < x.count then s.portEvent 0x11 m.val
        else (s.onQueue q fun x => { x with tail := t }).rereadHeads) ∧
    (∀ v, s.arg = .write m (0x10010 + 32 * q.val) v → s.managed .inletCancelWrite m false (s.mgmt.grants[m].getLsbD 16) true fun s =>
      s.cancelBy (v.extractLsb' 48 16) (v.setWidth 48)) ∧
    (∀ peer port image, s.arg = .packet peer port q image → s.fromPeerForm .fabricLaunchPacket peer port
      (fun e => e.getLsbD (24 + q.val) && image.extractLsb' 704 16 == e.extractLsb' 40 16)
      fun e => if s.queues[q].count = 63 then s.respond (fabPort port) .nak
        else ((s.onQueue q (·.push image (e.extractLsb' 40 16) 3)).rereadHeads).respond (fabPort port) .taken) ∧
    (∀ peer port addr, s.arg = .cancel peer port addr →
      s.fromPeerForm .fabricCancelPacket peer port (·.getLsbD 61) fun e => (s.cancelBy (e.extractLsb' 40 16) addr).respond (fabPort port) .taken) ∧
    (s.arg = .queue q →
      let x := s.queues[q]
      let s1 := s.checkHeads (recOf x.record)
      (s.ready = false ∨ x.head = x.tail ∨ x.ready = true → exec .waitWordRead s = .next s) ∧
      (s.ready = true → x.head ≠ x.tail → x.ready = false → x.checked = none → s1.recordBad x.record x.binding = true →
        exec .waitWordRead s = .next (({ s1 with free := s1.free + 1 } : State).dropHead q 1)) ∧
      (s.ready = true → x.head ≠ x.tail → x.ready = false → x.checked = none → s1.recordBad x.record x.binding = false →
        ∃ t, exec .waitWordRead s = .next t ∧ t.nextLaunch = s.nextLaunch + 1)) ∧
    (s.ready? = [] → (∀ u ∈ s.tasks, u.stand ≠ .suspended) →
      exec .dispatchDecision s = .next { s with free := s.free + 1 } ∧ exec .levelAgeing s = .next s ∧ exec .reservationStart s = .next s) ∧
    (s.ready? = [.head q] →
      let x := s.queues[q]
      let aged : Cand := match x.cand.since with
        | none => { x.cand with since := some s.now }
        | some t => if x.cand.level < 3 ∧ t + 2 ^ 22 ≤ s.now then { x.cand with level := x.cand.level + 1, since := some s.now } else x.cand
      exec .levelAgeing s = .next (s.onQueue q fun y => { y with cand := aged }) ∧
      (x.cand.level < 3 → x.cand.reserving = false → exec .reservationStart s = .next s) ∧
      (∀ ks, (∀ u ∈ s.tasks, u.stand ≠ .suspended) → Config.freeNat s.free 0 % 2 = 0 →
        (s.need (.head q)).n ≤ s.freeAreas.length → s.coresFor (.head q) = some ks →
        exec .dispatchDecision s = .next (({ s with free := s.free + 1 } : State).placeHead q ks))) ∧
    (let waited (c : Cand) : Prop := c.level = 3 ∧ ∃ t, c.since = some t ∧ t + 2 ^ 22 ≤ s.now
     let s1 := s.ready?.foldl (fun v x => if (s.candOf x).level = 3 && (s.candOf x).since.any (fun t => decide (t + 2 ^ 22 ≤ s.now)) then
       v.onCand x fun c => { c with reserving := true } else v) s
     let asking (x : Seek) : Prop := x ∈ s.ready? ∧ (s1.candOf x).reserving = true ∧ s1.coresFor x = none
     ∃ t, exec .reservationStart s = .next t ∧ t.tasks = s.tasks ∧ t.hbm = s.hbm ∧ t.queues = s1.queues ∧ t.groups = s1.groups ∧
      (∀ i : Fin 16, (s1.queues[i].cand.reserving = true ↔ s.queues[i].cand.reserving = true ∨ (s.headReady i = true ∧ waited s.queues[i].cand)) ∧
        s1.queues[i].cand.level = s.queues[i].cand.level ∧ s1.queues[i].slots = s.queues[i].slots) ∧
      (∀ x u, asking x → u ∈ s1.askFor x → s.taskOf u.tid = some u → s.cores[u.core].run.preempt = true ∨
        s.cores[u.core].run.phase = .preempting ∨ ∃ e ∈ t.agenda, e.2.bare = .dev .preemptRequest (.born u.tid u.born)) ∧
      (∀ e ∈ t.agenda, e ∉ s.agenda → ∃ x u w v, asking x ∧ u ∈ s1.askFor x ∧ s.taskOf u.tid = some w ∧
        (v = w ∨ (w.group ≠ 0 ∧ v ∈ s.tasks ∧ v.group = w.group)) ∧ e.2.bare = .dev .preemptRequest (.born v.tid v.born)) ∧
      ∀ x u, u ∈ s.askFor x → u.group = 0 → u ∈ s.tasks ∧ u.stand = .onCore ∧ s.endsHere u = false ∧
        ((s.launchOf u.launch).map (·.lrec.prio)).getD 0 < (s.need x).prio)

/-- R267 to R273, R289, R347: the group engine, for the command of a task on its core, or of one cancelled off its core. A slot is decided
once; GCANCEL decides one that is pending or holds a deposit; the deadline times out every slot that is pending; the barrier completes once
no slot is: what it gives crosses to the parent's core, where the result area and the status word are written into its scratchpad. A FORK
takes a free entry of its die, the first one by the model's choice (log 115); of a cancelled launch, or of a parent past its END, no sibling is started. Which slots those
withdrawals decide, and that a parent off its core counts as past its END, are the model's readings (log 34); a sibling cancelled before its
placement never starts (log 33). -/
def Obligations.GroupSteps : Prop :=
  ∀ (s : State) (u : Task) (h : BitVec 32) (g : Group) (e : EffCmd),
    let slot (t : State) (h : BitVec 32) (i : Nat) : Option Slot := (t.groupOf h).bind fun g => g.slots[i]?
    let taken (t : State) : Prop := u.stand = .onCore → t.cores[u.core].run.sent = none
    (s.sender s.arg = none → exec .groupEngineCommand s = .next s ∧ exec .forkAccept s = .next s) ∧
    (s.sender s.arg = some (u, e) → s.groupOf u.group = some g → e.kind = .grwd ∨ e.kind = .gquit →
      let i := (u.tid.extractLsb' 0 6).toNat
      ∃ t, exec .groupEngineCommand s = .next t ∧ taken t ∧
        (g.slots[i]? = some .pending → g.done = false → slot t u.group i =
          some (if e.kind = .grwd then .deposited (e.a.setWidth 32) else .withdrawn)) ∧
        (g.slots[i]? ≠ some .pending ∨ g.done = true → t.groups = s.groups)) ∧
    (s.sender s.arg = some (u, e) → s.latestGroup u.tid = some g → e.kind = .gbar → ∃ t,
      exec .groupEngineCommand s = .next t ∧ t.todo = s.todo ++ [.dev .groupBarrierComplete (.group g.handle)] ∧
      t.groups = s.groups.map fun y => if y.handle == g.handle then { y with barrier := true } else y) ∧
    (s.sender s.arg = some (u, e) → s.latestGroup u.tid = some g → e.kind = .gcancel →
      let i := (e.a.extractLsb' 0 6).toNat
      (g.done = true ∨ g.n ≤ i → exec .groupEngineCommand s = .next (s.accept u)) ∧
      (g.done = false → i < g.n → s.groupOf g.handle = some g → g.slots[i]? = some .pending ∨ (∃ r, g.slots[i]? = some (.deposited r)) →
        ∃ t, exec .groupEngineCommand s = .next t ∧ taken t ∧ slot t g.handle i = some .cancelled)) ∧
    (∀ l, s.sender s.arg = some (u, e) → s.launchOf u.launch = some l → e.kind = .fork →
      (s.freeEntry (u.core.val / 96) = none → exec .forkAccept s = .next (s.later (.dev .forkAccept s.arg))) ∧
      (∀ i, s.freeEntry (u.core.val / 96) = some i →
        let c := s.cores[u.core]
        let doomed := l.cancelled = true ∨ l.overWear = true ∨ u.stand ≠ .onCore ∨ (c.run.phase = .ended ∧ c.run.regions = [])
        let h := BitVec.ofNat 32 (2 ^ 31 + u.core.val / 96 * 2 ^ 29 + i * 2 ^ 17 +
          (u.tid.extractLsb' 0 9).toNat * 2 ^ 8 + (imgWord e.image 9).toNat % 256)
        let new := newGroup h l.num l.lrec.prio u.tid e
        ∃ t, exec .forkAccept s = .next t ∧ taken t ∧
          (¬ doomed → t.groups = s.groups ++ [new]) ∧
          (doomed → ∀ j, j < new.n → slot t h j = some .withdrawn))) ∧
    (s.arg = .group h → s.groupOf h = some g →
      let due := 1024 * ((s.launchOf g.launch).map (·.lrec.deadline)).getD 0
      (s.groupActive g = false → exec .groupDeadline s = .next s) ∧
      (s.groupActive g = true → due = 0 ∨ g.count + 1 ≠ due →
        exec .groupDeadline s = .next (s.onGroup h fun g => { g with count := g.count + 1 })) ∧
      (s.groupActive g = true → due ≠ 0 → g.count + 1 = due → g.slots.length = g.n → ∃ t, exec .groupDeadline s = .next t ∧
        ∀ i, i < g.n → slot t h i = if g.slots[i]? = some .pending then some .timedOut else g.slots[i]?) ∧
      (g.barrier = false ∨ g.done = true ∨ (∃ i ∈ g.slots, i = .pending) → exec .groupBarrierComplete s = .next s) ∧
      (∀ p, g.barrier = true → g.done = false → (∀ i ∈ g.slots, i ≠ .pending) → s.taskOf g.parent = some p →
        (p.stand = .onCore → exec .groupBarrierComplete s = .next (s.cross p.core 6 (.dev .groupBarrierComplete (.status h g.parent)))) ∧
        (p.stand ≠ .onCore → ∃ t, exec .groupBarrierComplete s = .next t ∧ ∀ y ∈ t.groups, y.handle = h → y.done = true))) ∧
    (∀ p, s.arg = .status h p.tid → s.taskOf p.tid = some p →
      ((∀ x, s.groupOf h = some x → x.barrier = false ∨ x.done = true ∨ ∃ i ∈ x.slots, i = .pending) → exec .groupBarrierComplete s = .next s) ∧
      (s.groupOf h = some g → g.parent = p.tid → g.barrier = true → g.done = false → (∀ i ∈ g.slots, i ≠ .pending) → p.stand = .onCore → ∃ t,
        exec .groupBarrierComplete s = .next t ∧ (∀ y ∈ t.groups, y.handle = h → y.done = true) ∧ t.cores[p.core].run.sent = none ∧
          let r := advantages g.present
          let g1 := { g with done := true, stat := r.2 }
          t.cores[p.core].sram =
            ((s.taskWords p g.result (g1.results r.1)).taskPut p (g.result + 512) g1.statusWord.toNat 8).cores[p.core].sram)) ∧
    (∀ tid, s.arg = .status h tid → s.groupOf h = some g → s.taskOf tid = some u → u.group = h → u.stand = .onCore →
      let w : Word := BitVec.ofNat 64
        ((if g.done then 2 ^ 63 else 0) + (if g.failed then 2 ^ 62 else 0) + g.stat.toNat * 2 ^ 59 + g.n * 2 ^ 48 +
          (g.slots.filter (· == .timedOut)).length * 2 ^ 32 + (g.slots.filter fun v => v == .withdrawn || v == .faulted).length * 2 ^ 24 +
          (g.slots.filter (· == .cancelled)).length * 2 ^ 16 + (g.slots.filter (· == .pending)).length * 2 ^ 8 +
          (g.slots.filter fun v => v.reward.isSome).length)
      exec .groupStatusMirror s = .next (s.onCore u.core fun c => c.onCtx fun y => { y with groupStatus := w }))

/-! ### Management and the Lantern -/

/-- R201, R305 to R313, R315, R317: what a master's write of each register and window of the management space does, and of an offset that
names none, how a request that may not act is refused, and what a host and a peer may do to memory; what a peer's write does not reach comes back to its sender with a status, and one
that translates waits for a slot. A report carries the SHAKE-256 digest of the running image. Of the model's readings, a value beyond its
field's limits is refused with event 0x07 (log 19), an address of ASTBASE or OVFd that lies outside the stacks it may name is beyond them (log
22), a request over a link that is down is not heard (log 20), what a lapse clears is log 21,
what is free in an update log 23, how a peer is thawed log 24, and accesses of hosts and peers are atoms of 32 bytes (log 26); SHAKE-256 is
FIPS 202's (log 65), and an update that passes its checks is what the next bring-up tries first (log 111). -/
def Obligations.ManagementSteps : Prop :=
  ∀ (s : State) (m : PortId) (v : Word),
    let g := s.mgmt
    let elected (p : BitVec 8) (code : Nat) : State := ({ s with mgmt := { g with
      owned := true, owner := BitVec.ofNat 5 m.val, prio := p, epoch := g.epoch + 1, succ := 31, open_ := none, claims := [] } } : State).portEvent
        code m.val
    let peer (e : Word) : BitVec 16 := e.extractLsb' 40 16
    (s.arg = .write m 0x08 v →
      let p := v.extractLsb' 8 8
      s.managed .claim m true false (v == (p.setWidth 64 <<< 8) && p != 0) fun s =>
        match g.open_ with
        | some _ => { s with mgmt := { g with claims := g.claims.filter (·.1 != m) ++ [(m, p)] } }
        | none => if g.owned then (if g.succ.toNat = m.val then elected p 0x03 else s) else if s.ready then elected p 0x01 else s) ∧
    (∀ t, g.open_ = some t → (s.now < t → exec .claimWindowClose s = .next s) ∧
      (t ≤ s.now → s.ready = true → g.claims = [] → exec .claimWindowClose s = .next { s with mgmt := { g with open_ := none } }) ∧
      (∀ p, t ≤ s.now → s.ready = true → g.claims = [(m, p)] → exec .claimWindowClose s = .next (elected p 0x01))) ∧
    (s.arg = .write m 0x10 v → s.managed .handover m false false (v.extractLsb' 5 59 == 0 && (v.toNat < 20 || v.toNat = 31)) fun s =>
      { s with mgmt := { g with succ := v.setWidth 5 } }) ∧
    (s.arg = .write m 0x18 v → s.managed .thaw m false false (v.toNat < 20) fun s =>
      if g.frozen.getLsbD v.toNat then
        ({ s with mgmt := { g with frozen := g.frozen &&& ~~~BitVec.twoPow 20 v.toNat } } : State).portEvent 0x05 v.toNat else s) ∧
    (∀ k : CoreId, s.arg = .write m 0x80 v → v.toNat = k.val / 96 * 128 + k.val % 96 → s.managed .preempt m false false true fun s =>
      if s.cores[k].busy then s.requestPreempt s.cores[k].ctx.x.tid else s) ∧
    (s.arg = .write m 0x80 v → (∀ k : CoreId, v.toNat ≠ k.val / 96 * 128 + k.val % 96) → s.managed .preempt m false false false id) ∧
    (s.arg = .write m 0x88 v → s.managed .fwupd m false false true fun s =>
      if g.fwBusy then s else
        ({ s with mgmt := { g with fwAddr := v, fwBusy := true, fwstat := 0 } } : State).later (.dev .fwCheckDone .none)) ∧
    (g.fwBusy = false → exec .fwCheckDone s = .next s) ∧
    (g.fwBusy = true → ∃ t, exec .fwCheckDone s = .next t ∧ t.mgmt.fwBusy = false ∧ (t.mgmt.fwstat = 1 ∨ t.mgmt.fwstat = 2) ∧
      (s.fwImage g.fwAddr = none → t.mgmt.fwstat = 2 ∧ t.mgmt.store = g.store) ∧
      (∀ bytes n, s.fwImage g.fwAddr = some (bytes, n) →
        let ok := g.links.getLsbD 0 = true ∧ Config.fwSigned n bytes = true ∧ s.minimum.toNat ≤ bytes % 2 ^ 32
        (ok → t.mgmt.fwstat = 1 ∧ t.mgmt.store[t.mgmt.newest] = some ⟨n, bytes⟩) ∧ (¬ ok → t.mgmt.fwstat = 2 ∧ t.mgmt.store = g.store))) ∧
    (s.arg = .write m 0x98 v → s.managed .fwcommit m false false true fun s =>
      match g.running with
      | some i => s.writeLife (if s.minimum.toNat < i.version.toNat then i.version else s.minimum)
      | none => s) ∧
    (s.arg = .write m 0xC0 v → s.managed .attest m true false (v == 1) fun s =>
      if g.atBusy then s else
        ({ s with seq := s.seq + 1, mgmt := { g with atBusy := true, body := s.reportBody s.seq } } : State).later (.dev .attestDone .none)) ∧
    (∀ i n, g.running = some i → ∀ j : Nat, j < 8 → (s.reportBody n)[5 + j]? = some ((shake256 i.len i.bytes).extractLsb' (64 * j) 64)) ∧
    (g.atBusy = false → exec .attestDone s = .next s) ∧
    (g.atBusy = true → ∃ t, exec .attestDone s = .next t ∧ t.mgmt.atBusy = false ∧ t.mgmt.report.take g.body.length = g.body) ∧
    (s.arg = .write m 0x28 v → s.managed .mgmtRegisterWrite m false false (v.extractLsb' 12 52 == 0) fun s =>
      { s with mgmt := { g with devid := v.setWidth 12 } }) ∧
    (∀ i : Fin 4, s.arg = .write m (0xA0 + 8 * i.val) v → s.managed .mgmtRegisterWrite m true false true fun s =>
      { s with mgmt := { g with nonce := g.nonce.set i v } }) ∧
    (∀ p : PortId, s.arg = .write m (0x100 + 8 * p.val) v → s.managed .mgmtRegisterWrite m false false (v.extractLsb' 17 47 == 0) fun s =>
      { s with mgmt := { g with grants := g.grants.set p v } }) ∧
    (s.arg = .write m 0x20 v → s.managed .mgmtRegisterWrite m false false false id) ∧
    (s.arg = .write m 0x30 v → s.managed .mgmtRegisterWrite m false false (v.toNat < 12 * 2 ^ 36) fun s =>
      { s with mgmt := { g with astbase := v.setWidth 40 } }) ∧
    (s.arg = .write m 0x38 v → s.managed .mgmtRegisterWrite m false false (v.toNat < 2 ^ 48 && v.toNat % 2 ^ 16 == 0) fun s =>
      { s with mgmt := { g with spbase := v } }) ∧
    (s.arg = .write m 0x40 v → s.managed .mgmtRegisterWrite m false false (v.toNat < 2 ^ 32) fun s =>
      { s with mgmt := { g with spctl := v } }) ∧
    (∀ d : Fin 4, s.arg = .write m (0x48 + 8 * d.val) v →
      s.managed .mgmtRegisterWrite m false false (v.toNat < 2 ^ 40 || v.toNat / 2 ^ 36 % 16 / 3 == d.val) fun s =>
        { s with mgmt := { g with ovf := g.ovf.set d v } }) ∧
    (∀ i : Fin 16,
      (s.arg = .write m (0x200 + 16 * i.val) v → s.managed .mgmtRegisterWrite m false false true fun s =>
        { s with mgmt := { g with hostWin := g.hostWin.set i (v, g.hostWin[i].2) } }) ∧
      (s.arg = .write m (0x208 + 16 * i.val) v → s.managed .mgmtRegisterWrite m false false true fun s =>
        { s with mgmt := { g with hostWin := g.hostWin.set i (g.hostWin[i].1, v) } })) ∧
    (∀ (i : Fin 8) (j : Fin 4), s.arg = .write m (0x300 + 32 * i.val + 8 * j.val) v →
      let fits : Bool := if j = 0 then v.toNat % 2 ^ 63 / 2 ^ 52 == 0 && v.toNat % 2 ^ 28 == 0 else if j = 1 then v.toNat % 2 ^ 28 == 0
        else if j = 2 then v.toNat < 2 ^ 48 && v.toNat % 2 ^ 16 == 0 else v.toNat < 2 ^ 16
      s.managed .mgmtRegisterWrite m false false fits fun s =>
        { s with mgmt := { g with cxlWin := g.cxlWin.set i (g.cxlWin[i].set j v) } }) ∧
    (∀ off, s.arg = .write m off v →
      let listed := off ∈ [0x08, 0x10, 0x18, 0x28, 0x30, 0x38, 0x40, 0x48, 0x50, 0x58, 0x60, 0x80, 0x88, 0x98, 0xA0, 0xA8, 0xB0, 0xB8, 0xC0] ∨
        (off % 8 = 0 ∧ ((0x100 ≤ off ∧ off < 0x1A0) ∨ (0x200 ≤ off ∧ off < 0x400) ∨ (0x80000 ≤ off ∧ off < 0x88000) ∨
          (0x100000 ≤ off ∧ off < 0x140000))) ∨
        ∃ q : Fin 16, off = 0x10000 + 32 * q.val ∨ off = 0x10010 + 32 * q.val
      ¬ listed → s.managed .mgmtRegisterWrite m false false false id) ∧
    (∀ id : Fin 4096, s.arg = .write m (0x80000 + 8 * id.val) v →
      s.managed .accessControlWrite m false false (v.extractLsb' 56 4 == 0 && v.extractLsb' 5 19 == 0 &&
        ((v.extractLsb' 0 5).toNat < 18 || (v.extractLsb' 0 5).toNat = 31)) fun s =>
        let t := { s with mgmt := { g with acl := waySet g.acl id.val (v &&& ~~~BitVec.twoPow 64 60), via := g.via.filter (·.1 != id.val) } }
        if (wayGet g.acl id.val).getLsbD 60 then t.eventOpen 0x05 3 id.val else t) ∧
    (∀ up, s.arg = .link m up → s.hasLink m = false → exec .linkReset s = .next s) ∧
    (∀ up, s.arg = .link m up → s.hasLink m = true → g.via = [] → g.owned = false → ∃ t, exec .linkReset s = .next t ∧
      t.mgmt.frozen = g.frozen &&& ~~~BitVec.twoPow 20 m.val ∧
      t.mgmt.links = (if up then g.links ||| BitVec.twoPow 20 m.val else g.links &&& ~~~BitVec.twoPow 20 m.val) ∧ t.mgmt.grants = g.grants) ∧
    (∀ up, s.arg = .link m up → s.hasLink m = true → g.owned = true → g.owner.toNat = m.val → ∃ t, exec .linkReset s = .next t ∧ t.mgmt.owned = false ∧
      t.mgmt.succ = 31 ∧ t.mgmt.grants = Vector.replicate 20 0 ∧ t.mgmt.open_ = some (s.now + 2 ^ 26)) ∧
    (∀ w a mask data, s.arg = .host w a mask data → s.powered = true → g.links.getLsbD 0 = true → a % 32 = 0 →
      (g.frozen.getLsbD 0 = true → exec .hostMemAccess s = .next (if w then s else { s with reply := some ⟨0, true, false⟩ })) ∧
      let s1 := s.hostCheck a
      let cell (p : Place) : Nat := p.dpa / 8192 * 8192 + 32 * hashChan p.pat (p.dpa % 2 ^ 36) + p.dpa % 32
      (g.frozen.getLsbD 0 = false → s1.hostPlace w a = none → ∃ t, exec .hostMemAccess s = .next t ∧ t.mgmt.frozen.getLsbD 0 = true ∧
        t.hbm = s.hbm) ∧
      (∀ p va tag, g.frozen.getLsbD 0 = false → w = true → s1.hostPlace true a = some (p, va, tag, true) →
        exec .hostMemAccess s = .next { s1 with reply := some ⟨0, false, true⟩ }) ∧
      (∀ p va tag, g.frozen.getLsbD 0 = false → w = true → s1.hostPlace true a = some (p, va, tag, false) →
        exec .hostMemAccess s = .next { s1 with hbm := memPut s.hbm (cell p) data.toNat 32, reply := some ⟨0, false, false⟩ }) ∧
      (∀ p va tag, g.frozen.getLsbD 0 = false → w = false → s1.hostPlace false a = some (p, va, tag, false) → ∃ t,
        exec .hostMemAccess s = .next t ∧ t.hbm = s.hbm ∧ (s1.poisoned p.dpa = true → ∃ d, t.reply = some ⟨d, true, false⟩) ∧
        (s1.poisoned p.dpa = false → t.reply = some ⟨memBits s.hbm 256 (cell p) 32, false, false⟩ ∨ t.poisoned p.dpa = true))) ∧
    (∀ (id : Fin 4096) (port : Fin 18) (addr : BitVec 48) (mask data), s.arg = .fab id port addr mask data →
      s.fromPeerForm .peerFabWrite id port (·.getLsbD 62) fun e =>
        let answer (t : State) (a : Answer) : State := t.respond (fabPort port) a
        let s1 := s.checkSpace (peer e)
        match s1.spaceOf (peer e) with
        | none => answer s1 (.failed 3)
        | some sp =>
          let s2 := s1.checkWalk sp addr.toNat
          match (s2.spaceOf (peer e)).map fun sp => s2.resolve sp false .write addr.toNat with
          | none => answer s2 (.failed 3)
          | some (.error x) => answer s2 (.failed x)
          | some (.ok p) => { s2 with inbox := s2.inbox ++ [⟨peer e, addr.toNat, [], p.chan, p.dpa, mask, data, fabPort port⟩] })

/-- R339, R340, R342, R343, R344, R348, R349, R350: wear, core states, the lifetime record, bring-up and power-off. An interval charges each
core and asks for the state its figures call for; that state is entered if it lies ahead, with its event. The record's copies hold what
R344 lays out, with a check that passes; the one not in force is written, and one whose write fails leaves the other. Each step of bring-up acts
only after the one before it: the image is authenticated, HBM trained, the crossings measured, the record read, by which Draining cores become
Retired and Retired ones stay out, and the links trained; a failing step leaves its event. Of the model's readings, intervals end at multiples of 2^22 clocks (log 27), loss of power leaves the record,
the firmware store and what is outside (log 28), and whether a step of bring-up or the write of a copy fails is free (log 97). -/
def Obligations.LanternSteps : Prop :=
  ∀ (s : State) (k : CoreId),
    let c := s.cores[k]
    let w := c.wear
    let worn (w : Wear) (corr : BitVec 32) : Prop :=
      350000000000 ≤ w.lifetime ∨ 25000 ≤ w.drift ∨ 2 ^ 43 ≤ w.integral ∨ 2 ≤ w.marks ∨ 65536 ≤ corr.toNat
    (∀ temp drift amps, s.arg = .sense temp drift amps → ∃ t, exec .wearInterval s = .next t ∧
      let v := t.cores[k].wear
      let asks (st : CoreSt) : Prop := (s.now + 4, .dev .coreStateChange (.state k st)) ∈ t.agenda
      (w.st ≠ .retired →
        let deg := temp.getD k.val 0
        let f := if deg ≤ 65 then 1 else if deg ≤ 80 then 2 else if deg ≤ 95 then 4 else 8
        let acc := c.sample.acc + c.charge f
        v.lifetime = min (2 ^ 48 - 1) (w.lifetime + acc / 2 ^ 22) ∧ t.cores[k].sample.acc = acc % 2 ^ 22 ∧
        v.drift = max w.drift (min (2 ^ 20 - 1) (drift.getD k.val 0)) ∧ v.integral = min (2 ^ 44 - 1) (w.integral + amps.getD k.val 0) ∧
        v.st = w.st ∧ v.marks = w.marks) ∧
      (w.st = .healthy ∨ w.st = .derated → worn v c.sram.corr → asks .draining) ∧
      (w.st = .healthy → ¬ worn v c.sram.corr → 250000000000 ≤ v.lifetime ∨ 15000 ≤ v.drift → asks .derated)) ∧
    (s.arg = .core k →
      (w.st ≠ .draining ∨ s.emptyCore k = false → exec .coreStateChange s = .next s) ∧
      (w.st = .draining → s.emptyCore k = true → ∃ t, exec .coreStateChange s = .next t ∧ t.cores[k].wear = { w with st := .retired } ∧
        t.evcount = s.evcount + 1)) ∧
    (∀ st, s.arg = .state k st →
      (st.code ≤ w.st.code → exec .coreStateChange s = .next s) ∧
      (w.st.code < st.code → ∃ t, exec .coreStateChange s = .next t ∧ t.cores[k].wear = { w with st := st } ∧ t.evcount = s.evcount + 1 ∧
        t.events.head?.map (fun e => (e.code, e.source)) = some (0x50, coreNumber k) ∧
        (st = .draining → c.busy = true → ∀ u, s.taskOf c.ctx.x.tid = some u → u.group = 0 →
          ∃ e ∈ t.agenda, e.2.bare = .dev .preemptRequest (.born u.tid u.born)))) ∧
    (let a := s.life[0]
     let b := s.life[1]
     let written (gen : Nat) : LifeCopy := ⟨recordImage (gen + 1) s.minimum.toNat (s.wearEntries.map (·.entry))⟩
     let fails : Prop := Config.freeNat s.free 0 % 2 ≠ 0
     ∃ t, exec .lifetimeCheckpoint s = .next t ∧ t.cores = s.cores ∧ (¬ fails → t.evcount = s.evcount) ∧ (fails → t.evcount = s.evcount + 1) ∧
      (a.sound = true → b.sound = false ∨ b.generation ≤ a.generation →
        t.life[0] = a ∧ (¬ fails → t.life[1] = written a.generation)) ∧
      (b.sound = true → a.sound = false ∨ a.generation < b.generation →
        t.life[1] = b ∧ (¬ fails → t.life[0] = written b.generation)) ∧
      (a.sound = false → b.sound = false → ¬ fails → t.life = if a.generation ≤ b.generation then #v[written 0, b] else #v[a, written 0])) ∧
    (∀ (gen minimum : Nat) (ws : List Wear), ws.length = 384 → gen < 2 ^ 64 → minimum < 2 ^ 32 →
      let x : LifeCopy := ⟨recordImage gen minimum (ws.map (·.entry))⟩
      x.generation = gen ∧ x.minimum.toNat = minimum ∧ x.sound = true ∧
      ∀ (i : Nat) (v : Wear), ws[i]? = some v → v.marks < 256 → v.lifetime < 2 ^ 48 → v.integral < 2 ^ 44 → v.drift < 2 ^ 20 →
        v.corrected < 2 ^ 32 → x.entry i = v) ∧
    (s.arg = .bring 0 → s.powered = false → exec .bringUp s = .next { s with powered := true, todo := .dev .bringUp (.bring 1) :: s.todo }) ∧
    (∀ n, s.arg = .bring (n + 1) → n ≠ s.brought ∨ s.powered = false → exec .bringUp s = .next s) ∧
    (s.powered = true → s.arg = .bring 1 → s.brought = 0 →
      (s.authenticate = none → exec .bringUp s = .next s) ∧
      (∀ i, s.authenticate = some i → ∃ t, exec .bringUp s = .next t ∧ t.mgmt.running = some i ∧ t.brought = 1 ∧
        Config.fwSigned i.len i.bytes = true ∧ s.minimum.toNat ≤ i.version.toNat ∧ some i ∈ s.mgmt.store.toList ∧
        ∀ j, s.mgmt.store[s.mgmt.newest] = some j → s.minimum.toNat ≤ j.version.toNat → Config.fwSigned j.len j.bytes = true → i = j)) ∧
    (let a := s.life[0]
     let b := s.life[1]
     let coin (i : Nat) : Prop := Config.freeNat s.free i % 2 = 1
     let goes (t : State) (n : Nat) : Prop := t.brought = n ∧ ∃ y ∈ t.agenda, y.2 = .dev .bringUp (.bring (n + 1))
     (s.powered = true → s.arg = .bring 2 → s.brought = 1 → ∃ t, exec .bringUp s = .next t ∧ t.cores = s.cores ∧
      (coin 0 → t.brought = 1 ∧ t.events.head?.map (·.code) = some 0x55 ∧ t.agenda = s.agenda) ∧ (¬ coin 0 → t.events = s.events ∧ goes t 2)) ∧
     (s.powered = true → s.arg = .bring 3 → s.brought = 2 → ∃ t, exec .bringUp s = .next t ∧
      (∀ (i : CoreId) (j : Fin 10), 2 ≤ t.cores[i].clk.cross[j].d ∧ t.cores[i].clk.cross[j].d ≤ 6) ∧
      (∀ n : Fin 256, t.isles[n].shift = 0 ∧ t.isles[n].next = 0) ∧
      (∀ i : CoreId, (coin i.val → t.cores[i].usable = false) ∧ (¬ coin i.val → t.cores[i].usable = s.cores[i].usable)) ∧
      t.evcount = s.evcount + ((List.range 480).filter fun i => Config.freeNat s.free i % 2 == 1).length ∧
      ((∀ n, n < 96 → ¬ coin (384 + n)) → goes t 3) ∧ (∀ n, n < 96 → coin (384 + n) → t.brought = 2 ∧ t.agenda = s.agenda)) ∧
     (s.powered = true → s.arg = .bring 4 → s.brought = 3 → ¬ coin 0 → ¬ coin 1 → ∃ t, exec .bringUp s = .next t ∧
      (a.sound = false → b.sound = false → t.brought = 3 ∧ t.evcount = s.evcount + 2 ∧ t.events.head?.map (·.code) = some 0x52 ∧ t.life = s.life) ∧
      ∀ (x : LifeCopy) (old : Fin 2), (a.sound = true ∧ (b.sound = false ∨ b.generation ≤ a.generation) ∧ x = a ∧ old = 1) ∨
          (b.sound = true ∧ (a.sound = false ∨ a.generation < b.generation) ∧ x = b ∧ old = 0) →
        let drained := (List.finRange 384).filter fun i => (x.entry i.val).st == .draining
        goes t 4 ∧
        (∀ i : CoreId, let w := x.entry i.val
          t.cores[i].wear = (if w.st = .draining then { w with st := .retired } else w) ∧
          t.cores[i].usable = (s.cores[i].usable && w.st != .draining && w.st != .retired)) ∧
        (drained = [] → t.life = s.life) ∧
        (drained ≠ [] → t.life = s.life.set old ⟨recordImage (x.generation + 1) x.minimum.toNat (t.wearEntries.map (·.entry))⟩ ∧
          t.events.head?.map (·.code) = some 0x50)) ∧
     (s.powered = true → s.arg = .bring 5 → s.brought = 4 → ∃ t, exec .bringUp s = .next t ∧ goes t 5 ∧
      ∃ up, ∃ y ∈ t.agenda, y.2 = .dev .linkTraining (.link 0 up)) ∧
     (s.powered = true → s.arg = .bring 6 → s.brought = 5 → ∃ t, exec .bringUp s = .next t ∧ t.brought = 6 ∧
      ∀ p : Fin 18, ∃ up, ∃ y ∈ t.agenda, y.2 = .dev .linkTraining (.link (fabPort p) up))) ∧
    (s.powered = true → s.arg = .bring 7 → s.brought = 6 → ∃ t, exec .bringUp s = .next t ∧ t.mgmt.open_ = some (s.now + 2 ^ 26) ∧
      t.mgmt.claims = [] ∧ t.brought = 7) ∧
    (s.powered = true → s.arg = .bring 8 → s.brought = 7 → ∃ t, exec .bringUp s = .next t ∧ t.ready = true ∧ t.evcount = s.evcount + 1) ∧
    (∀ (m : PortId) (up : Bool), s.arg = .link m up → ∃ t, exec .linkTraining s = .next t ∧ t.mgmt.tried = s.mgmt.tried ||| BitVec.twoPow 20 m.val ∧
      t.mgmt.links = if up then s.mgmt.links ||| BitVec.twoPow 20 m.val else s.mgmt.links) ∧
    (∃ t, exec .powerOff s = .next t ∧ t.powered = false ∧ t.life = s.life ∧ t.mgmt.store = s.mgmt.store ∧ t.mgmt.newest = s.mgmt.newest ∧ t.host = s.host ∧
      t.cores = State.reset.cores ∧ t.tasks = [] ∧ t.agenda = [])

/-! ### The machine as a whole -/

/-- R12, R187, R204, R253, R307, R349: after reset nothing runs, memory is empty in canonical form, HPAT0 is the identity and every HPAT
register holds a pattern R187 allows, the sequencer and the launch numbers begin at 1, the device has no owner, and bring-up begins at
the next clock. That bring-up begins with the clock after reset is the model's choice (log 9), as is that memory which nothing has written
reads as zero (log 2), and that nobody owns the device, every queue is empty and the round-robin begins at queue 0 (log 6). -/
def Obligations.ResetState : Prop :=
  let s := State.reset
  s.memOk = true ∧ s.hbm = [] ∧ s.host = [] ∧ (∀ k : CoreId, s.cores[k].sram.bytes = []) ∧ s.hpatOk = true ∧ s.hpat[0] = 0 ∧
    (∀ q : Fin 16, s.queues[q].count = 0) ∧ s.lastQueue = 15 ∧ s.seq = 1 ∧ s.nextLaunch = 1 ∧ s.mgmt.owned = false ∧ s.ready = false ∧
    s.tasks = [] ∧ s.launches = [] ∧ s.groups = [] ∧ s.evcount = 0 ∧ (∀ k : CoreId, s.cores[k].run.phase = .idle) ∧
    s.todo = [] ∧ s.agenda = [(1, .dev .bringUp (.bring 1))]

/-- R15, R16, R48, R49, R53, R65: bundles written out from the formats of R49. One holds ADD s3, s1, s2 under p5, VADD.F32 v10, v11, v12
under p9, MMA.FP8E4 a2, w1, s10, s11 at ramp 2 under p9 and CPY.IN tag 5, s12, s20 in queue 1, position 0 in the low bits; one
ADDI s1, s2 with a literal that makes its immediate 0x1234; and one whose V syllable has its unused field set is refused at position 1. -/
def Obligations.DecodedWords : Prop :=
  decodeBundle (0x02298A20#32 ++ 0x22A51689#32 ++
      (0b0100100#7 ++ 10#6 ++ 11#6 ++ 12#6 ++ 0#2 ++ 9#5 : BitVec 32) ++ (0b0000001#7 ++ 3#6 ++ 1#6 ++ 2#6 ++ 0#2 ++ 5#5 : BitVec 32)) =
    .ok ⟨.add 5 3 1 2, .vaddF32 9 10 11 12, .mmaFp8e4 9 2 1 10 11 .two, .cpyIn 0 5 12 10 1⟩ ∧
  decodeBundle (0#64 ++ (0x7F#7 ++ 0#1 ++ 0x000012#24 : BitVec 32) ++ (0x20#7 ++ 1#6 ++ 2#6 ++ 0x34#8 ++ 0#5 : BitVec 32)) =
    .ok ⟨.addi 0 1 2 ⟨0x34, some 0x12⟩, .nop, .nop, .nop⟩ ∧
  imm8Sext ⟨0x34, some 0x12⟩ = 0x1234 ∧
  decodeBundle (0#64 ++ (0b0100100#7 ++ 10#6 ++ 11#6 ++ 12#6 ++ 1#2 ++ 9#5 : BitVec 32) ++ 0#32) = .error 1

/-- R48 to R58: decoding the syllable and the literal that a well-formed instruction encodes to gives that instruction back, with every
operand at every value its field admits. A step of the device has no words. -/
def Obligations.EncodeDecode : Prop :=
  ∀ (i : Instr) (w : Words), i.wf = true → encode i = some w → decodeSyl w.pos w.syl w.lit = some i

/-- R16, R17, R22, R23, R30, R37, R40, R126, R266, R319: what a clock does with the bundle at pc that the instruction cache holds, on a core
with nothing pending or held. A region head met while the region before it is still open ends that region, whose commit comes first; a
region must not reach past its extent; a bundle some syllable of which must wait freezes; the first syllable that raises a trap stops it;
otherwise all four syllables act, and the bundle has issued: TICK has risen by one and pc is the next bundle's address or a branch's
target, while the registers, the scratchpad and what is in flight are as before; its region closes where the cache shows a region head
next. That a head met late closes the region before it, and what a trap at issue discards, are the model's readings (logs 42 and 74). -/
def Obligations.StepRunsBundle : Prop :=
  ∀ (s : State) (k : CoreId) (rest : List Due) (raw : BitVec 128) (b : Bundle),
    s.todo = .core k :: rest → s.willIssue k raw b →
    let u := ({ s with todo := rest, cur := k } : State).onCore k fun c => { c with clk := c.clk.turn }
    let head := u.core.run.openNext
    let t := u.prepared
    let go := head = true ∨ (b.s.opens = false ∧ u.core.outOfExtent = false)
    (b.s.opens = true → head = false → step s = .next (((u.closeBefore k true).soon [.dev .regionCommit (.core k)]).freezeBy k [5] true)) ∧
    (b.s.opens = false → head = false → u.core.outOfExtent = true → step s = .next ((u.onCur fun c => c.raise 0 .segmentCheck).drainCycle k)) ∧
    (go → t.waits b ≠ [] → step s = .next (u.freezeBy k (t.waits b) head)) ∧
    (∀ v, go → t.waits b = [] → t.trapped b = some v → step s = .next (v.drainCycle k)) ∧
    (go → t.waits b = [] → t.trapped b = none →
      step s = andThen (t.runSyls [b.s, b.v, b.m, b.c]) fun v =>
        let v := v.onCur fun c => c.issued b raw
        .next ((v.closeBefore k (((v.fetched k).bind (·.data)).any opensAt)).advance k)) ∧
    ∀ c : Core,
      let d := c.issued b raw
      d.ctx.x = { c.ctx.x with tick := c.ctx.x.tick + 1 } ∧
      d.ctx.pc = (match c.run.target with | some t => t | none => c.ctx.pc + 16) ∧
      d.run.target = none ∧ d.ctx.s = c.ctx.s ∧ d.ctx.p = c.ctx.p ∧ d.ctx.v = c.ctx.v ∧ d.ctx.a = c.ctx.a ∧ d.sram = c.sram ∧
      d.run.flights = c.run.flights ∧ d.run.bubbles = c.run.bubbles

/-- R17, R187: the frame of issue. A syllable acts on the core whose clock it is: whatever it does, the next state has memory, the host's
memory, the variables of the Weirs, the logs, the tasks and the management space as they were; no register file, accumulator, weight
buffer, pc or scratchpad of any core has changed, since results land later; and the running state of every other core is as before. -/
def Obligations.IssueFrame : Prop :=
  ∀ (i : Instr) (s : State), (encode i).isSome = true → ∃ t, exec i s = .next t ∧
    t.hbm = s.hbm ∧ t.host = s.host ∧ t.sync = s.sync ∧ t.logs = s.logs ∧ t.tasks = s.tasks ∧ t.launches = s.launches ∧
    t.groups = s.groups ∧ t.mgmt = s.mgmt ∧ t.events = s.events ∧ t.now = s.now ∧ t.cur = s.cur ∧
    (∀ k : CoreId, t.cores[k].sram = s.cores[k].sram ∧ t.cores[k].ctx.s = s.cores[k].ctx.s ∧ t.cores[k].ctx.p = s.cores[k].ctx.p ∧
      t.cores[k].ctx.v = s.cores[k].ctx.v ∧ t.cores[k].ctx.a = s.cores[k].ctx.a ∧ t.cores[k].ctx.w = s.cores[k].ctx.w ∧
      t.cores[k].ctx.pc = s.cores[k].ctx.pc) ∧
    ∀ k : CoreId, k ≠ s.cur → t.cores[k].ctx = s.cores[k].ctx ∧ t.cores[k].run = s.cores[k].run

/-- R17, R19, R27, R33, R35, R41, R95, R114, R122, R128, R135, R152: results that are due land one after another, and what each does. A scalar
is written to its register and to the snapshots of later regions, and s0 discards it; a predicate under its mask, and p0 discards it; a
loop's counts with p8. A store writes the bytes its mask names and no other, keeping memory in canonical form, and marks their line. A vector
write takes the lanes that no result landing later in the cycle takes: its bits under the mask, and its tag: a partial write leaves
POISON, and the zero rule makes a register of zeros CLEAN; a form whose destination must be CLEAN and is not raises CLEAN-REQUIRED. VRETAG
changes the tag alone. A WRSR writes its register whole, of VRB and PRB the remainder by 48 and by 24, and of SRS 1 for 0. That the check for
CLEAN is made although every lane is lost, and that VRETAG leaves CLEAN and POISON, are the model's readings (log 84), as are the tag of a
partial write whose register has changed since its issue (log 45) and that VRETAG's change is a step that a trap takes back (log 59). -/
def Obligations.LandedResults : Prop :=
  ∀ (c : Core) (f : Flight) (later : List Flight),
    let d := c.land f later
    let sameCtx : Prop := d.ctx.p = c.ctx.p ∧ d.ctx.v = c.ctx.v ∧ d.sram = c.sram
    let after (w : VWrite) (m : Line) (old : VecR) : VecR :=
      let bits := (old.bits &&& ~~~m) ||| (w.bits &&& m)
      let t := if w.mask ≠ allBits ∧ (old.tag = .poison ∨ (w.tag = some w.was ∧ w.was ≠ .poison ∧ old.tag ≠ .clean)) then old.tag
        else w.tag.getD old.tag
      ⟨bits, if w.zero = true ∧ t ≠ .poison ∧ bits = 0 then .clean else t⟩
    let snapsP (r : PReg) (mask v : Word) : Prop := d.run.regions.map (·.snap.p) = c.run.regions.map fun g =>
      if f.region < g.id ∧ r ≠ 0 then g.snap.p.set r ((g.snap.p[r] &&& ~~~mask) ||| (v &&& mask)) else g.snap.p
    let predIs (r : PReg) (mask v : Word) : Prop :=
      (∀ q, d.ctx.preg q = if q = r ∧ q ≠ 0 then (c.ctx.preg q &&& ~~~mask) ||| (v &&& mask) else c.ctx.preg q) ∧ snapsP r mask v ∧
        d.ctx.s = c.ctx.s ∧ d.ctx.v = c.ctx.v ∧ d.sram = c.sram
    let kept (l : List Landed) : Prop := ∀ (i : Nat) (g : Region), c.run.regions[i]? = some g → g.id = f.region →
      d.run.regions[i]?.map (·.landed) = some (l ++ g.landed)
    (c.landAll [] = c ∧ c.landAll (f :: later) = d.landAll later) ∧
    (∀ r v, f.land = .scalar r v →
      (∀ q, d.s q = if q = r ∧ q ≠ 0 then v else c.s q) ∧ sameCtx ∧ d.ctx.x = c.ctx.x ∧
      d.run.regions.map (·.snap.s) = c.run.regions.map fun g => if f.region < g.id ∧ r ≠ 0 then g.snap.s.set r v else g.snap.s) ∧
    (∀ r mask v, f.land = .pred r mask v → predIs r mask v ∧ d.ctx.x = c.ctx.x) ∧
    (∀ n g p v, f.land = .loop n g p v → predIs p (BitVec.allOnes 64) v ∧ d.ctx.x = { c.ctx.x with lcnt := n, lstg := g }) ∧
    (∀ vrb prb n g p v, f.land = .cloop vrb prb n g p v → predIs p (BitVec.allOnes 64) v ∧
      d.ctx.x = { c.ctx.x with vrb := vrb, prb := prb, lcnt := n, lstg := g }) ∧
    (∀ a mask data eff, f.land = .store a mask data eff → d.ctx = c.ctx ∧ (mask = 0 → d.sram = c.sram) ∧
      (Memory.wf c.sram.bytes = true → Memory.wf d.sram.bytes = true ∧ ∀ x, memGet d.sram.bytes x =
        if a ≤ x ∧ x < a + 256 ∧ mask.getLsbD (x - a) = true then data.extractLsb' (8 * (x - a)) 8 else memGet c.sram.bytes x) ∧
      (mask ≠ 0 → ∀ n : Nat,
        d.sram.clean.contains n = (if n = a / 256 then eff == .cleaned else c.sram.clean.contains n) ∧
        d.sram.poison.contains n = (if n = a / 256 ∧ eff ≠ .dirty then eff == .poisoned else c.sram.poison.contains n))) ∧
    (∀ (w : VWrite) (i : Nat), (w.wins later).getLsbD i = true ↔ w.mask.getLsbD i = true ∧ ∀ g ∈ later,
      (∀ y, g.land = .vec y → y.d = w.d → ∀ j, j / 32 = i / 32 → y.mask.getLsbD j = false) ∧
      ∀ y z, g.land = .pair y z → ∀ j, j / 32 = i / 32 → (y.d = w.d → y.mask.getLsbD j = false) ∧ (z.d = w.d → z.mask.getLsbD j = false)) ∧
    (∀ w, f.land = .vec w →
      let m := w.wins later
      let old := c.ctx.v[w.d]
      (w.needClean = true → old.tag ≠ .clean → c.run.trap = none → d.ctx = c.ctx ∧ d.sram = c.sram ∧ d.run.phase = .trapping ∧
        d.run.trap = some ⟨.cleanRequired, f.slot, f.bundle, some f.region, none, 0, 0, 0, .normal⟩) ∧
      (w.needClean = false ∨ old.tag = .clean → w.mask ≠ 0 → m = 0 → d = c) ∧
      (w.needClean = false ∨ old.tag = .clean → w.mask = 0 ∨ m ≠ 0 → d.ctx.v[w.d] = after w m old ∧
        (∀ r : VReg, r ≠ w.d → d.ctx.v[r] = c.ctx.v[r]) ∧ d.ctx.s = c.ctx.s ∧ d.ctx.p = c.ctx.p ∧ d.ctx.x = c.ctx.x ∧ d.sram = c.sram ∧
        kept [⟨.vreg w.d m old.bits old.tag, w.rev⟩])) ∧
    (∀ w x, f.land = .pair w x → w.needClean = false → x.needClean = false → w.d ≠ x.d →
      let m := w.wins later
      let n := x.wins later
      d.ctx.v[w.d] = (if w.mask ≠ 0 ∧ m = 0 then c.ctx.v[w.d] else after w m c.ctx.v[w.d]) ∧
      d.ctx.v[x.d] = (if x.mask ≠ 0 ∧ n = 0 then c.ctx.v[x.d] else after x n c.ctx.v[x.d]) ∧
      (∀ r : VReg, r ≠ w.d → r ≠ x.d → d.ctx.v[r] = c.ctx.v[r]) ∧ d.ctx.s = c.ctx.s ∧ d.ctx.p = c.ctx.p ∧ d.sram = c.sram ∧
      (m ≠ 0 → n ≠ 0 → kept [⟨.vreg x.d n c.ctx.v[x.d].bits c.ctx.v[x.d].tag, x.rev⟩, ⟨.vreg w.d m c.ctx.v[w.d].bits c.ctx.v[w.d].tag, w.rev⟩]) ∧
      (w.mask ≠ 0 → m = 0 → n ≠ 0 → kept [⟨.vreg x.d n c.ctx.v[x.d].bits c.ctx.v[x.d].tag, w.rev⟩])) ∧
    (∀ r t, f.land = .vtag r t →
      let old := c.ctx.v[r]
      (old.tag = .clean ∨ old.tag = .poison → d = c) ∧
      (old.tag ≠ .clean → old.tag ≠ .poison → d.ctx.v[r] = ⟨old.bits, t⟩ ∧ (∀ q : VReg, q ≠ r → d.ctx.v[q] = c.ctx.v[q]) ∧
        d.ctx.s = c.ctx.s ∧ d.ctx.p = c.ctx.p ∧ d.sram = c.sram ∧ kept [⟨.vreg r 0 old.bits old.tag, some 0⟩])) ∧
    (∀ n v, f.land = .spr n v → d.ctx.s = c.ctx.s ∧ sameCtx ∧
      d.ctx.x = if n = 0x01 then { c.ctx.x with vrb := BitVec.ofNat 6 (v.toNat % 48) }
        else if n = 0x02 then { c.ctx.x with prb := BitVec.ofNat 5 (v.toNat % 24) }
        else if n = 0x03 then { c.ctx.x with lcnt := v.setWidth 32 } else if n = 0x04 then { c.ctx.x with lstg := v.setWidth 8 }
        else if n = 0x06 then { c.ctx.x with srs := if v = 0 then 1 else v } else if n = 0x0E then { c.ctx.x with priv := v != 0 }
        else if n = 0x10 then { c.ctx.x with tvec := v } else if n = 0x11 then { c.ctx.x with trec := v } else c.ctx.x)

/-- R12, R187: a step that goes on keeps the canonical form of device memory, of host memory and of the scratchpad of every core, HPAT0 the
identity and every HPAT register within the patterns R187 allows. -/
def Obligations.StepKeepsInvariant : Prop :=
  ∀ (s t : State), s.memOk = true → s.hpatOk = true → (∀ k : CoreId, Memory.wf s.cores[k].sram.bytes = true) → step s = .next t →
    t.memOk = true ∧ t.hpatOk = true ∧ ∀ k : CoreId, Memory.wf t.cores[k].sram.bytes = true

/-- R16, R65, R319: no step of the machine stops: an instruction that cannot act traps, freezes or leaves an event. -/
def Obligations.StepsGoOn : Prop := ∀ s : State, goesOn (step s)
end

