-- ==== Sys2Proof/Laws/Checks.lean ====
section
/-! SUPPORT. What the checks of what is read from HBM do to the state (R196, R197): one relation, kept by every one of them. -/

namespace Sys2Proof.Machine

/-- Putting a number into an ordered list takes none out of it. -/
theorem mem_setInsert {l : List Nat} {n x : Nat} (h : x ∈ l) : x ∈ setInsert l n := by
  induction l with
  | nil => cases h
  | cons y r ih =>
    unfold setInsert
    split
    · exact h
    · split
      · exact List.mem_cons_of_mem _ h
      · rcases List.mem_cons.1 h with rfl | h
        · exact List.mem_cons_self
        · exact List.mem_cons_of_mem _ (ih h)

/-- Only what a check may change has changed: the free values, the corrections to be written back, the poisoned pages with their events;
none of these is poisoned no longer, and where no check finds an uncorrectable error none has become so. -/
def State.Checks (s t : State) : Prop :=
  ∃ f w p e n c, t = { s with free := f, writeback := w, pagePoison := p, events := e, seq := n, evcount := c } ∧
    (∀ x ∈ s.pagePoison, x ∈ p) ∧ ((∀ d, Config.freeNat d 0 % 3 ≠ 2) → p = s.pagePoison)

theorem State.checks_refl (s : State) : s.Checks s := ⟨_, _, _, _, _, _, rfl, fun _ h => h, fun _ => rfl⟩

theorem State.checks_trans {s t u : State} (h : s.Checks t) (g : t.Checks u) : s.Checks u := by
  obtain ⟨f, w, p, e, n, c, rfl, hm, hp⟩ := h
  obtain ⟨f', w', p', e', n', c', rfl, hm', hp'⟩ := g
  exact ⟨_, _, _, _, _, _, rfl, fun x k => hm' x (hm x k), fun k => (hp' k).trans (hp k)⟩

/-- A chain of checks is a check. -/
theorem State.checks_foldl {α : Type} (f : State → α → State) (hf : ∀ s x, State.Checks s (f s x)) (l : List α) (s : State) :
    s.Checks (l.foldl f s) := by
  induction l generalizing s with
  | nil => exact s.checks_refl
  | cons x l ih => exact State.checks_trans (hf s x) (ih (f s x))

theorem State.checks_checkAtom (s : State) (chan : ChanId) (dpa : Nat) : s.Checks (s.checkAtom chan dpa) := by
  unfold State.checkAtom State.poisonPage
  by_cases h2 : s.eccOf = 2
  · rw [if_pos h2]
    split
    · exact ⟨_, _, _, _, _, _, rfl, fun _ h => h, fun _ => rfl⟩
    · exact ⟨_, _, _, _, _, _, rfl, fun _ h => mem_setInsert h, fun k => absurd h2 (k s.free)⟩
  · rw [if_neg h2]
    split <;> exact ⟨_, _, _, _, _, _, rfl, fun _ h => h, fun _ => rfl⟩

theorem State.checks_checkRead (s : State) (pat : Word) (dpa n : Nat) : s.Checks (s.checkRead pat dpa n) := by
  unfold State.checkRead
  split
  · exact s.checks_refl
  · exact State.checks_foldl _ (fun _ _ => State.checks_checkAtom _ _ _) _ s

theorem State.checks_checkWalk (s : State) (sp : Space) (va : Nat) : s.Checks (s.checkWalk sp va) := by
  unfold State.checkWalk
  split
  · exact State.checks_foldl _ (fun _ _ => State.checks_checkRead _ _ _ _) _ s
  · exact s.checks_refl

theorem State.checks_checkSpace (s : State) (tag : BitVec 16) : s.Checks (s.checkSpace tag) := by
  unfold State.checkSpace
  split
  · exact s.checks_refl
  · exact State.checks_checkRead _ _ _ _

theorem State.checks_checkOnPage (s : State) (sp : Space) (va n : Nat) : s.Checks (s.checkOnPage sp va n) := by
  unfold State.checkOnPage
  dsimp only
  split
  · exact State.checks_trans (State.checks_checkWalk _ _ _) (State.checks_checkRead _ _ _ _)
  · exact State.checks_checkWalk _ _ _

theorem State.checks_checkVa (s : State) (sp : Space) (va n : Nat) : s.Checks (s.checkVa sp va n) := by
  unfold State.checkVa
  dsimp only
  split
  · exact State.checks_trans (State.checks_checkOnPage _ _ _ _) (State.checks_checkOnPage _ _ _ _)
  · exact State.checks_checkOnPage _ _ _ _

theorem State.checks_checkPool (s : State) (f : Space → State → State) (hf : ∀ sp s, State.Checks s (f sp s)) : s.Checks (s.checkPool f) := by
  unfold State.checkPool
  dsimp only
  split
  · exact State.checks_checkSpace _ _
  · exact State.checks_trans (State.checks_checkSpace _ _) (hf _ _)

theorem State.checks_checkBytes (s : State) (i off n : Nat) : s.Checks (s.checkBytes i off n) :=
  State.checks_checkPool _ _ fun _ _ => State.checks_checkVa _ _ _ _
theorem State.checks_checkArea (s : State) (i : Nat) (l : List Nat) : s.Checks (s.checkArea i l) :=
  State.checks_checkPool _ _ fun _ s => State.checks_foldl _ (fun _ _ => State.checks_checkVa _ _ _ _) l s
theorem State.checks_checkStores (s : State) (i : Nat) (l : List Nat) : s.Checks (s.checkStores i l) :=
  State.checks_checkPool _ _ fun _ s => State.checks_foldl _ (fun _ _ => State.checks_checkWalk _ _ _) l s

theorem State.checks_checkTask (s : State) (t : Task) (a n : Nat) : s.Checks (s.checkTask t a n) := by
  unfold State.checkTask
  split
  · exact State.checks_trans (State.checks_checkBytes _ _ _ _) (State.checks_checkBytes _ _ _ _)
  · exact s.checks_refl
theorem State.checks_checkLines (s : State) (t : Task) (a n : Nat) : s.Checks (s.checkLines t a n) :=
  State.checks_foldl _ (fun _ _ => State.checks_checkTask _ _ _ _) _ s
theorem State.checks_checkTags (s : State) (t : Task) : s.Checks (s.checkTags t) := by
  unfold State.checkTags
  split
  · exact s.checks_refl
  · exact State.checks_checkBytes _ _ _ _
theorem State.checks_checkSync (s : State) (var : Nat) : s.Checks (s.checkSync var) := by
  unfold State.checkSync
  split
  · exact State.checks_checkRead _ _ _ _
  · exact s.checks_refl
theorem State.checks_hostCheck (s : State) (a : Nat) : s.Checks (s.hostCheck a) := by
  unfold State.hostCheck
  split
  · exact s.checks_refl
  · dsimp only
    split
    · exact State.checks_checkSpace _ _
    · exact State.checks_trans (State.checks_checkSpace _ _) (State.checks_checkWalk _ _ _)

/-- A check leaves memory and the cores as they were. -/
theorem State.Checks.hbm {s t : State} (h : s.Checks t) : t.hbm = s.hbm := by
  obtain ⟨f, w, p, e, n, c, rfl, _⟩ := h; rfl
theorem State.Checks.cores {s t : State} (h : s.Checks t) : t.cores = s.cores := by
  obtain ⟨f, w, p, e, n, c, rfl, _⟩ := h; rfl
theorem State.Checks.tasks {s t : State} (h : s.Checks t) : t.tasks = s.tasks := by
  obtain ⟨f, w, p, e, n, c, rfl, _⟩ := h; rfl
theorem State.Checks.logs {s t : State} (h : s.Checks t) : t.logs = s.logs := by
  obtain ⟨f, w, p, e, n, c, rfl, _⟩ := h; rfl
theorem State.Checks.mgmt {s t : State} (h : s.Checks t) : t.mgmt = s.mgmt := by
  obtain ⟨f, w, p, e, n, c, rfl, _⟩ := h; rfl

/-- A page that is poisoned stays so. -/
theorem State.Checks.poisoned {s t : State} (h : s.Checks t) {a : Nat} (ha : s.poisoned a = true) : t.poisoned a = true := by
  obtain ⟨f, w, p, e, n, c, rfl, hm, _⟩ := h
  simp only [State.poisoned, List.contains_iff_mem] at ha ⊢
  exact hm _ ha

/-- So is a variable of the overflow area in it. -/
theorem State.Checks.syncLost {s t : State} (h : s.Checks t) {var : Nat} (hs : s.syncLost var = true) : t.syncLost var = true := by
  have hp := @h.poisoned
  have hm := h.mgmt
  simp only [State.syncLost, State.syncAt, hm] at hs ⊢
  split at hs
  · next a e => simpa only [e] using hp hs
  · cases hs

/-- Where no check finds an uncorrectable error, a page of a save area answers after checks as before them. -/
theorem State.Checks.areaAllows {s t : State} (h : s.Checks t) (hf : ∀ d, Config.freeNat d 0 % 3 ≠ 2) (acc : Access) (i off : Nat) :
    t.areaAllows acc i off = s.areaAllows acc i off := by
  obtain ⟨f, w, p, e, n, c, rfl, _, hp⟩ := h
  rw [hp hf]; rfl

/-- Where no check finds an uncorrectable error, what an address translates to, what a host reaches and what is poisoned are the same after
checks as before them. -/
theorem State.Checks.resolve {s t : State} (h : s.Checks t) (hf : ∀ d, Config.freeNat d 0 % 3 ≠ 2) (sp : Space) (priv : Bool) (acc : Access)
    (va : Nat) : t.resolve sp priv acc va = s.resolve sp priv acc va := by
  obtain ⟨f, w, p, e, n, c, rfl, _, hp⟩ := h
  rw [hp hf]; rfl
theorem State.Checks.hostPlace {s t : State} (h : s.Checks t) (hf : ∀ d, Config.freeNat d 0 % 3 ≠ 2) (write : Bool) (a : Nat) :
    t.hostPlace write a = s.hostPlace write a := by
  obtain ⟨f, w, p, e, n, c, rfl, _, hp⟩ := h
  rw [hp hf]; rfl
theorem State.Checks.poisoned_eq {s t : State} (h : s.Checks t) (hf : ∀ d, Config.freeNat d 0 % 3 ≠ 2) (a : Nat) :
    t.poisoned a = s.poisoned a := by
  obtain ⟨f, w, p, e, n, c, rfl, _, hp⟩ := h
  rw [hp hf]; rfl

end Sys2Proof.Machine
end

