-- ==== Sys2Proof/Laws/State.lean ====
section
/-! SUPPORT. What each update of the state leaves and what it changes: one lemma for each field of each update, so that no proof unfolds
a record update. -/

namespace Sys2Proof.Machine

/-! ### The core whose clock it is, and any core -/

@[simp] theorem State.core_onCur (s : State) (f : Core → Core) : (s.onCur f).core = f s.core := by
  simp [State.core, State.onCur]
theorem State.cores_onCur (s : State) (f : Core → Core) (k : CoreId) (h : k ≠ s.cur) : (s.onCur f).cores[k] = s.cores[k] := by
  have h' : s.cur.val ≠ k.val := fun e => h (Fin.ext e.symm)
  simp [State.onCur, h']
@[simp] theorem State.cores_onCore_self (s : State) (k : CoreId) (f : Core → Core) : (s.onCore k f).cores[k] = f s.cores[k] := by
  simp [State.onCore]
theorem State.cores_onCore (s : State) (k j : CoreId) (f : Core → Core) (h : j ≠ k) : (s.onCore k f).cores[j] = s.cores[j] := by
  have h' : k.val ≠ j.val := fun e => h (Fin.ext e.symm)
  simp [State.onCore, h']
/-- Two updates that agree on the core as it stands are one. -/
theorem State.onCur_congr {s : State} {f g : Core → Core} (h : f s.core = g s.core) : s.onCur f = s.onCur g := by
  have h' : f s.cores[s.cur] = g s.cores[s.cur] := h
  unfold State.onCur
  rw [h']
/-- An update that changes nothing of the core changes nothing. -/
theorem State.onCur_id {s : State} {f : Core → Core} (h : f s.core = s.core) : s.onCur f = s := by
  have h' : f s.cores[s.cur] = s.cores[s.cur] := h
  unfold State.onCur
  rw [h']
  simp
/-- An update of a core that changes nothing of it changes nothing. -/
theorem State.onCore_id {s : State} {k : CoreId} {f : Core → Core} (h : f s.cores[k] = s.cores[k]) : s.onCore k f = s := by
  unfold State.onCore
  rw [h]
  simp
/-- A syllable under a true guard. -/
theorem State.syl_true {s : State} {g : PReg} {f : Core → Core} (h : s.core.g0 g = true) : s.syl g f = .next (s.onCur f) := by
  unfold State.syl
  exact congrArg _ (State.onCur_congr (if_pos h))
/-- A syllable under a false guard. -/
theorem State.syl_false {s : State} {g : PReg} {f : Core → Core} (h : s.core.g0 g = false) : s.syl g f = .next s := by
  unfold State.syl
  exact congrArg _ (State.onCur_id (if_neg (by rw [h]; exact Bool.false_ne_true)))

/-! ### State.onCur -/

@[simp] theorem State.now_onCur (s : State) (f : Core → Core) : (s.onCur f).now = s.now := rfl
@[simp] theorem State.cur_onCur (s : State) (f : Core → Core) : (s.onCur f).cur = s.cur := rfl
@[simp] theorem State.arg_onCur (s : State) (f : Core → Core) : (s.onCur f).arg = s.arg := rfl
@[simp] theorem State.todo_onCur (s : State) (f : Core → Core) : (s.onCur f).todo = s.todo := rfl
@[simp] theorem State.agenda_onCur (s : State) (f : Core → Core) : (s.onCur f).agenda = s.agenda := rfl
@[simp] theorem State.free_onCur (s : State) (f : Core → Core) : (s.onCur f).free = s.free := rfl
@[simp] theorem State.powered_onCur (s : State) (f : Core → Core) : (s.onCur f).powered = s.powered := rfl
@[simp] theorem State.ready_onCur (s : State) (f : Core → Core) : (s.onCur f).ready = s.ready := rfl
@[simp] theorem State.hbm_onCur (s : State) (f : Core → Core) : (s.onCur f).hbm = s.hbm := rfl
@[simp] theorem State.pagePoison_onCur (s : State) (f : Core → Core) : (s.onCur f).pagePoison = s.pagePoison := rfl
@[simp] theorem State.host_onCur (s : State) (f : Core → Core) : (s.onCur f).host = s.host := rfl
@[simp] theorem State.hpat_onCur (s : State) (f : Core → Core) : (s.onCur f).hpat = s.hpat := rfl
@[simp] theorem State.dram_onCur (s : State) (f : Core → Core) : (s.onCur f).dram = s.dram := rfl
@[simp] theorem State.quiet_onCur (s : State) (f : Core → Core) : (s.onCur f).quiet = s.quiet := rfl
@[simp] theorem State.asleep_onCur (s : State) (f : Core → Core) : (s.onCur f).asleep = s.asleep := rfl
@[simp] theorem State.writeback_onCur (s : State) (f : Core → Core) : (s.onCur f).writeback = s.writeback := rfl
@[simp] theorem State.inbox_onCur (s : State) (f : Core → Core) : (s.onCur f).inbox = s.inbox := rfl
@[simp] theorem State.sites_onCur (s : State) (f : Core → Core) : (s.onCur f).sites = s.sites := rfl
@[simp] theorem State.shoots_onCur (s : State) (f : Core → Core) : (s.onCur f).shoots = s.shoots := rfl
@[simp] theorem State.sync_onCur (s : State) (f : Core → Core) : (s.onCur f).sync = s.sync := rfl
@[simp] theorem State.sems_onCur (s : State) (f : Core → Core) : (s.onCur f).sems = s.sems := rfl
@[simp] theorem State.bars_onCur (s : State) (f : Core → Core) : (s.onCur f).bars = s.bars := rfl
@[simp] theorem State.seq_onCur (s : State) (f : Core → Core) : (s.onCur f).seq = s.seq := rfl
@[simp] theorem State.logs_onCur (s : State) (f : Core → Core) : (s.onCur f).logs = s.logs := rfl
@[simp] theorem State.tasks_onCur (s : State) (f : Core → Core) : (s.onCur f).tasks = s.tasks := rfl
@[simp] theorem State.launches_onCur (s : State) (f : Core → Core) : (s.onCur f).launches = s.launches := rfl
@[simp] theorem State.groups_onCur (s : State) (f : Core → Core) : (s.onCur f).groups = s.groups := rfl
@[simp] theorem State.nextLaunch_onCur (s : State) (f : Core → Core) : (s.onCur f).nextLaunch = s.nextLaunch := rfl
@[simp] theorem State.queues_onCur (s : State) (f : Core → Core) : (s.onCur f).queues = s.queues := rfl
@[simp] theorem State.lastQueue_onCur (s : State) (f : Core → Core) : (s.onCur f).lastQueue = s.lastQueue := rfl
@[simp] theorem State.orders_onCur (s : State) (f : Core → Core) : (s.onCur f).orders = s.orders := rfl
@[simp] theorem State.events_onCur (s : State) (f : Core → Core) : (s.onCur f).events = s.events := rfl
@[simp] theorem State.evcount_onCur (s : State) (f : Core → Core) : (s.onCur f).evcount = s.evcount := rfl
@[simp] theorem State.mgmt_onCur (s : State) (f : Core → Core) : (s.onCur f).mgmt = s.mgmt := rfl
@[simp] theorem State.life_onCur (s : State) (f : Core → Core) : (s.onCur f).life = s.life := rfl
@[simp] theorem State.isles_onCur (s : State) (f : Core → Core) : (s.onCur f).isles = s.isles := rfl
@[simp] theorem State.answers_onCur (s : State) (f : Core → Core) : (s.onCur f).answers = s.answers := rfl
@[simp] theorem State.brought_onCur (s : State) (f : Core → Core) : (s.onCur f).brought = s.brought := rfl
@[simp] theorem State.reply_onCur (s : State) (f : Core → Core) : (s.onCur f).reply = s.reply := rfl
@[simp] theorem State.sentFab_onCur (s : State) (f : Core → Core) : (s.onCur f).sentFab = s.sentFab := rfl

/-! ### State.onCore -/

@[simp] theorem State.now_onCore (s : State) (k : CoreId) (f : Core → Core) : (s.onCore k f).now = s.now := rfl
@[simp] theorem State.cur_onCore (s : State) (k : CoreId) (f : Core → Core) : (s.onCore k f).cur = s.cur := rfl
@[simp] theorem State.arg_onCore (s : State) (k : CoreId) (f : Core → Core) : (s.onCore k f).arg = s.arg := rfl
@[simp] theorem State.todo_onCore (s : State) (k : CoreId) (f : Core → Core) : (s.onCore k f).todo = s.todo := rfl
@[simp] theorem State.agenda_onCore (s : State) (k : CoreId) (f : Core → Core) : (s.onCore k f).agenda = s.agenda := rfl
@[simp] theorem State.free_onCore (s : State) (k : CoreId) (f : Core → Core) : (s.onCore k f).free = s.free := rfl
@[simp] theorem State.powered_onCore (s : State) (k : CoreId) (f : Core → Core) : (s.onCore k f).powered = s.powered := rfl
@[simp] theorem State.ready_onCore (s : State) (k : CoreId) (f : Core → Core) : (s.onCore k f).ready = s.ready := rfl
@[simp] theorem State.hbm_onCore (s : State) (k : CoreId) (f : Core → Core) : (s.onCore k f).hbm = s.hbm := rfl
@[simp] theorem State.pagePoison_onCore (s : State) (k : CoreId) (f : Core → Core) : (s.onCore k f).pagePoison = s.pagePoison := rfl
@[simp] theorem State.host_onCore (s : State) (k : CoreId) (f : Core → Core) : (s.onCore k f).host = s.host := rfl
@[simp] theorem State.hpat_onCore (s : State) (k : CoreId) (f : Core → Core) : (s.onCore k f).hpat = s.hpat := rfl
@[simp] theorem State.dram_onCore (s : State) (k : CoreId) (f : Core → Core) : (s.onCore k f).dram = s.dram := rfl
@[simp] theorem State.quiet_onCore (s : State) (k : CoreId) (f : Core → Core) : (s.onCore k f).quiet = s.quiet := rfl
@[simp] theorem State.asleep_onCore (s : State) (k : CoreId) (f : Core → Core) : (s.onCore k f).asleep = s.asleep := rfl
@[simp] theorem State.writeback_onCore (s : State) (k : CoreId) (f : Core → Core) : (s.onCore k f).writeback = s.writeback := rfl
@[simp] theorem State.inbox_onCore (s : State) (k : CoreId) (f : Core → Core) : (s.onCore k f).inbox = s.inbox := rfl
@[simp] theorem State.sites_onCore (s : State) (k : CoreId) (f : Core → Core) : (s.onCore k f).sites = s.sites := rfl
@[simp] theorem State.shoots_onCore (s : State) (k : CoreId) (f : Core → Core) : (s.onCore k f).shoots = s.shoots := rfl
@[simp] theorem State.sync_onCore (s : State) (k : CoreId) (f : Core → Core) : (s.onCore k f).sync = s.sync := rfl
@[simp] theorem State.sems_onCore (s : State) (k : CoreId) (f : Core → Core) : (s.onCore k f).sems = s.sems := rfl
@[simp] theorem State.bars_onCore (s : State) (k : CoreId) (f : Core → Core) : (s.onCore k f).bars = s.bars := rfl
@[simp] theorem State.seq_onCore (s : State) (k : CoreId) (f : Core → Core) : (s.onCore k f).seq = s.seq := rfl
@[simp] theorem State.logs_onCore (s : State) (k : CoreId) (f : Core → Core) : (s.onCore k f).logs = s.logs := rfl
@[simp] theorem State.tasks_onCore (s : State) (k : CoreId) (f : Core → Core) : (s.onCore k f).tasks = s.tasks := rfl
@[simp] theorem State.launches_onCore (s : State) (k : CoreId) (f : Core → Core) : (s.onCore k f).launches = s.launches := rfl
@[simp] theorem State.groups_onCore (s : State) (k : CoreId) (f : Core → Core) : (s.onCore k f).groups = s.groups := rfl
@[simp] theorem State.nextLaunch_onCore (s : State) (k : CoreId) (f : Core → Core) : (s.onCore k f).nextLaunch = s.nextLaunch := rfl
@[simp] theorem State.queues_onCore (s : State) (k : CoreId) (f : Core → Core) : (s.onCore k f).queues = s.queues := rfl
@[simp] theorem State.lastQueue_onCore (s : State) (k : CoreId) (f : Core → Core) : (s.onCore k f).lastQueue = s.lastQueue := rfl
@[simp] theorem State.orders_onCore (s : State) (k : CoreId) (f : Core → Core) : (s.onCore k f).orders = s.orders := rfl
@[simp] theorem State.events_onCore (s : State) (k : CoreId) (f : Core → Core) : (s.onCore k f).events = s.events := rfl
@[simp] theorem State.evcount_onCore (s : State) (k : CoreId) (f : Core → Core) : (s.onCore k f).evcount = s.evcount := rfl
@[simp] theorem State.mgmt_onCore (s : State) (k : CoreId) (f : Core → Core) : (s.onCore k f).mgmt = s.mgmt := rfl
@[simp] theorem State.life_onCore (s : State) (k : CoreId) (f : Core → Core) : (s.onCore k f).life = s.life := rfl
@[simp] theorem State.isles_onCore (s : State) (k : CoreId) (f : Core → Core) : (s.onCore k f).isles = s.isles := rfl
@[simp] theorem State.answers_onCore (s : State) (k : CoreId) (f : Core → Core) : (s.onCore k f).answers = s.answers := rfl
@[simp] theorem State.brought_onCore (s : State) (k : CoreId) (f : Core → Core) : (s.onCore k f).brought = s.brought := rfl
@[simp] theorem State.reply_onCore (s : State) (k : CoreId) (f : Core → Core) : (s.onCore k f).reply = s.reply := rfl
@[simp] theorem State.sentFab_onCore (s : State) (k : CoreId) (f : Core → Core) : (s.onCore k f).sentFab = s.sentFab := rfl

/-! ### State.soon -/

@[simp] theorem State.todo_soon (s : State) (l : List Due) : (s.soon l).todo = s.todo ++ l := rfl
@[simp] theorem State.now_soon (s : State) (l : List Due) : (s.soon l).now = s.now := rfl
@[simp] theorem State.cur_soon (s : State) (l : List Due) : (s.soon l).cur = s.cur := rfl
@[simp] theorem State.arg_soon (s : State) (l : List Due) : (s.soon l).arg = s.arg := rfl
@[simp] theorem State.agenda_soon (s : State) (l : List Due) : (s.soon l).agenda = s.agenda := rfl
@[simp] theorem State.free_soon (s : State) (l : List Due) : (s.soon l).free = s.free := rfl
@[simp] theorem State.powered_soon (s : State) (l : List Due) : (s.soon l).powered = s.powered := rfl
@[simp] theorem State.ready_soon (s : State) (l : List Due) : (s.soon l).ready = s.ready := rfl
@[simp] theorem State.cores_soon (s : State) (l : List Due) : (s.soon l).cores = s.cores := rfl
@[simp] theorem State.hbm_soon (s : State) (l : List Due) : (s.soon l).hbm = s.hbm := rfl
@[simp] theorem State.pagePoison_soon (s : State) (l : List Due) : (s.soon l).pagePoison = s.pagePoison := rfl
@[simp] theorem State.host_soon (s : State) (l : List Due) : (s.soon l).host = s.host := rfl
@[simp] theorem State.hpat_soon (s : State) (l : List Due) : (s.soon l).hpat = s.hpat := rfl
@[simp] theorem State.dram_soon (s : State) (l : List Due) : (s.soon l).dram = s.dram := rfl
@[simp] theorem State.quiet_soon (s : State) (l : List Due) : (s.soon l).quiet = s.quiet := rfl
@[simp] theorem State.asleep_soon (s : State) (l : List Due) : (s.soon l).asleep = s.asleep := rfl
@[simp] theorem State.writeback_soon (s : State) (l : List Due) : (s.soon l).writeback = s.writeback := rfl
@[simp] theorem State.inbox_soon (s : State) (l : List Due) : (s.soon l).inbox = s.inbox := rfl
@[simp] theorem State.sites_soon (s : State) (l : List Due) : (s.soon l).sites = s.sites := rfl
@[simp] theorem State.shoots_soon (s : State) (l : List Due) : (s.soon l).shoots = s.shoots := rfl
@[simp] theorem State.sync_soon (s : State) (l : List Due) : (s.soon l).sync = s.sync := rfl
@[simp] theorem State.sems_soon (s : State) (l : List Due) : (s.soon l).sems = s.sems := rfl
@[simp] theorem State.bars_soon (s : State) (l : List Due) : (s.soon l).bars = s.bars := rfl
@[simp] theorem State.seq_soon (s : State) (l : List Due) : (s.soon l).seq = s.seq := rfl
@[simp] theorem State.logs_soon (s : State) (l : List Due) : (s.soon l).logs = s.logs := rfl
@[simp] theorem State.tasks_soon (s : State) (l : List Due) : (s.soon l).tasks = s.tasks := rfl
@[simp] theorem State.launches_soon (s : State) (l : List Due) : (s.soon l).launches = s.launches := rfl
@[simp] theorem State.groups_soon (s : State) (l : List Due) : (s.soon l).groups = s.groups := rfl
@[simp] theorem State.nextLaunch_soon (s : State) (l : List Due) : (s.soon l).nextLaunch = s.nextLaunch := rfl
@[simp] theorem State.queues_soon (s : State) (l : List Due) : (s.soon l).queues = s.queues := rfl
@[simp] theorem State.lastQueue_soon (s : State) (l : List Due) : (s.soon l).lastQueue = s.lastQueue := rfl
@[simp] theorem State.orders_soon (s : State) (l : List Due) : (s.soon l).orders = s.orders := rfl
@[simp] theorem State.events_soon (s : State) (l : List Due) : (s.soon l).events = s.events := rfl
@[simp] theorem State.evcount_soon (s : State) (l : List Due) : (s.soon l).evcount = s.evcount := rfl
@[simp] theorem State.mgmt_soon (s : State) (l : List Due) : (s.soon l).mgmt = s.mgmt := rfl
@[simp] theorem State.life_soon (s : State) (l : List Due) : (s.soon l).life = s.life := rfl
@[simp] theorem State.isles_soon (s : State) (l : List Due) : (s.soon l).isles = s.isles := rfl
@[simp] theorem State.answers_soon (s : State) (l : List Due) : (s.soon l).answers = s.answers := rfl
@[simp] theorem State.brought_soon (s : State) (l : List Due) : (s.soon l).brought = s.brought := rfl
@[simp] theorem State.reply_soon (s : State) (l : List Due) : (s.soon l).reply = s.reply := rfl
@[simp] theorem State.sentFab_soon (s : State) (l : List Due) : (s.soon l).sentFab = s.sentFab := rfl

/-! ### State.first -/

@[simp] theorem State.todo_first (s : State) (l : List Due) : (s.first l).todo = l ++ s.todo := rfl
@[simp] theorem State.now_first (s : State) (l : List Due) : (s.first l).now = s.now := rfl
@[simp] theorem State.cur_first (s : State) (l : List Due) : (s.first l).cur = s.cur := rfl
@[simp] theorem State.arg_first (s : State) (l : List Due) : (s.first l).arg = s.arg := rfl
@[simp] theorem State.agenda_first (s : State) (l : List Due) : (s.first l).agenda = s.agenda := rfl
@[simp] theorem State.free_first (s : State) (l : List Due) : (s.first l).free = s.free := rfl
@[simp] theorem State.powered_first (s : State) (l : List Due) : (s.first l).powered = s.powered := rfl
@[simp] theorem State.ready_first (s : State) (l : List Due) : (s.first l).ready = s.ready := rfl
@[simp] theorem State.cores_first (s : State) (l : List Due) : (s.first l).cores = s.cores := rfl
@[simp] theorem State.hbm_first (s : State) (l : List Due) : (s.first l).hbm = s.hbm := rfl
@[simp] theorem State.pagePoison_first (s : State) (l : List Due) : (s.first l).pagePoison = s.pagePoison := rfl
@[simp] theorem State.host_first (s : State) (l : List Due) : (s.first l).host = s.host := rfl
@[simp] theorem State.hpat_first (s : State) (l : List Due) : (s.first l).hpat = s.hpat := rfl
@[simp] theorem State.dram_first (s : State) (l : List Due) : (s.first l).dram = s.dram := rfl
@[simp] theorem State.quiet_first (s : State) (l : List Due) : (s.first l).quiet = s.quiet := rfl
@[simp] theorem State.asleep_first (s : State) (l : List Due) : (s.first l).asleep = s.asleep := rfl
@[simp] theorem State.writeback_first (s : State) (l : List Due) : (s.first l).writeback = s.writeback := rfl
@[simp] theorem State.inbox_first (s : State) (l : List Due) : (s.first l).inbox = s.inbox := rfl
@[simp] theorem State.sites_first (s : State) (l : List Due) : (s.first l).sites = s.sites := rfl
@[simp] theorem State.shoots_first (s : State) (l : List Due) : (s.first l).shoots = s.shoots := rfl
@[simp] theorem State.sync_first (s : State) (l : List Due) : (s.first l).sync = s.sync := rfl
@[simp] theorem State.sems_first (s : State) (l : List Due) : (s.first l).sems = s.sems := rfl
@[simp] theorem State.bars_first (s : State) (l : List Due) : (s.first l).bars = s.bars := rfl
@[simp] theorem State.seq_first (s : State) (l : List Due) : (s.first l).seq = s.seq := rfl
@[simp] theorem State.logs_first (s : State) (l : List Due) : (s.first l).logs = s.logs := rfl
@[simp] theorem State.tasks_first (s : State) (l : List Due) : (s.first l).tasks = s.tasks := rfl
@[simp] theorem State.launches_first (s : State) (l : List Due) : (s.first l).launches = s.launches := rfl
@[simp] theorem State.groups_first (s : State) (l : List Due) : (s.first l).groups = s.groups := rfl
@[simp] theorem State.nextLaunch_first (s : State) (l : List Due) : (s.first l).nextLaunch = s.nextLaunch := rfl
@[simp] theorem State.queues_first (s : State) (l : List Due) : (s.first l).queues = s.queues := rfl
@[simp] theorem State.lastQueue_first (s : State) (l : List Due) : (s.first l).lastQueue = s.lastQueue := rfl
@[simp] theorem State.orders_first (s : State) (l : List Due) : (s.first l).orders = s.orders := rfl
@[simp] theorem State.events_first (s : State) (l : List Due) : (s.first l).events = s.events := rfl
@[simp] theorem State.evcount_first (s : State) (l : List Due) : (s.first l).evcount = s.evcount := rfl
@[simp] theorem State.mgmt_first (s : State) (l : List Due) : (s.first l).mgmt = s.mgmt := rfl
@[simp] theorem State.life_first (s : State) (l : List Due) : (s.first l).life = s.life := rfl
@[simp] theorem State.isles_first (s : State) (l : List Due) : (s.first l).isles = s.isles := rfl
@[simp] theorem State.answers_first (s : State) (l : List Due) : (s.first l).answers = s.answers := rfl
@[simp] theorem State.brought_first (s : State) (l : List Due) : (s.first l).brought = s.brought := rfl
@[simp] theorem State.reply_first (s : State) (l : List Due) : (s.first l).reply = s.reply := rfl
@[simp] theorem State.sentFab_first (s : State) (l : List Due) : (s.first l).sentFab = s.sentFab := rfl

/-! ### State.draw -/

@[simp] theorem State.free_draw (s : State) : (s.draw).free = s.free + 1 := rfl
@[simp] theorem State.now_draw (s : State) : (s.draw).now = s.now := rfl
@[simp] theorem State.cur_draw (s : State) : (s.draw).cur = s.cur := rfl
@[simp] theorem State.arg_draw (s : State) : (s.draw).arg = s.arg := rfl
@[simp] theorem State.todo_draw (s : State) : (s.draw).todo = s.todo := rfl
@[simp] theorem State.agenda_draw (s : State) : (s.draw).agenda = s.agenda := rfl
@[simp] theorem State.powered_draw (s : State) : (s.draw).powered = s.powered := rfl
@[simp] theorem State.ready_draw (s : State) : (s.draw).ready = s.ready := rfl
@[simp] theorem State.cores_draw (s : State) : (s.draw).cores = s.cores := rfl
@[simp] theorem State.hbm_draw (s : State) : (s.draw).hbm = s.hbm := rfl
@[simp] theorem State.pagePoison_draw (s : State) : (s.draw).pagePoison = s.pagePoison := rfl
@[simp] theorem State.host_draw (s : State) : (s.draw).host = s.host := rfl
@[simp] theorem State.hpat_draw (s : State) : (s.draw).hpat = s.hpat := rfl
@[simp] theorem State.dram_draw (s : State) : (s.draw).dram = s.dram := rfl
@[simp] theorem State.quiet_draw (s : State) : (s.draw).quiet = s.quiet := rfl
@[simp] theorem State.asleep_draw (s : State) : (s.draw).asleep = s.asleep := rfl
@[simp] theorem State.writeback_draw (s : State) : (s.draw).writeback = s.writeback := rfl
@[simp] theorem State.inbox_draw (s : State) : (s.draw).inbox = s.inbox := rfl
@[simp] theorem State.sites_draw (s : State) : (s.draw).sites = s.sites := rfl
@[simp] theorem State.shoots_draw (s : State) : (s.draw).shoots = s.shoots := rfl
@[simp] theorem State.sync_draw (s : State) : (s.draw).sync = s.sync := rfl
@[simp] theorem State.sems_draw (s : State) : (s.draw).sems = s.sems := rfl
@[simp] theorem State.bars_draw (s : State) : (s.draw).bars = s.bars := rfl
@[simp] theorem State.seq_draw (s : State) : (s.draw).seq = s.seq := rfl
@[simp] theorem State.logs_draw (s : State) : (s.draw).logs = s.logs := rfl
@[simp] theorem State.tasks_draw (s : State) : (s.draw).tasks = s.tasks := rfl
@[simp] theorem State.launches_draw (s : State) : (s.draw).launches = s.launches := rfl
@[simp] theorem State.groups_draw (s : State) : (s.draw).groups = s.groups := rfl
@[simp] theorem State.nextLaunch_draw (s : State) : (s.draw).nextLaunch = s.nextLaunch := rfl
@[simp] theorem State.queues_draw (s : State) : (s.draw).queues = s.queues := rfl
@[simp] theorem State.lastQueue_draw (s : State) : (s.draw).lastQueue = s.lastQueue := rfl
@[simp] theorem State.orders_draw (s : State) : (s.draw).orders = s.orders := rfl
@[simp] theorem State.events_draw (s : State) : (s.draw).events = s.events := rfl
@[simp] theorem State.evcount_draw (s : State) : (s.draw).evcount = s.evcount := rfl
@[simp] theorem State.mgmt_draw (s : State) : (s.draw).mgmt = s.mgmt := rfl
@[simp] theorem State.life_draw (s : State) : (s.draw).life = s.life := rfl
@[simp] theorem State.isles_draw (s : State) : (s.draw).isles = s.isles := rfl
@[simp] theorem State.answers_draw (s : State) : (s.draw).answers = s.answers := rfl
@[simp] theorem State.brought_draw (s : State) : (s.draw).brought = s.brought := rfl
@[simp] theorem State.reply_draw (s : State) : (s.draw).reply = s.reply := rfl
@[simp] theorem State.sentFab_draw (s : State) : (s.draw).sentFab = s.sentFab := rfl

/-! ### State.atClock -/

@[simp] theorem State.agenda_atClock (s : State) (t : Nat) (d : Due) : (s.atClock t d).agenda = s.agenda ++ [(t, d)] := rfl
@[simp] theorem State.now_atClock (s : State) (t : Nat) (d : Due) : (s.atClock t d).now = s.now := rfl
@[simp] theorem State.cur_atClock (s : State) (t : Nat) (d : Due) : (s.atClock t d).cur = s.cur := rfl
@[simp] theorem State.arg_atClock (s : State) (t : Nat) (d : Due) : (s.atClock t d).arg = s.arg := rfl
@[simp] theorem State.todo_atClock (s : State) (t : Nat) (d : Due) : (s.atClock t d).todo = s.todo := rfl
@[simp] theorem State.free_atClock (s : State) (t : Nat) (d : Due) : (s.atClock t d).free = s.free := rfl
@[simp] theorem State.powered_atClock (s : State) (t : Nat) (d : Due) : (s.atClock t d).powered = s.powered := rfl
@[simp] theorem State.ready_atClock (s : State) (t : Nat) (d : Due) : (s.atClock t d).ready = s.ready := rfl
@[simp] theorem State.cores_atClock (s : State) (t : Nat) (d : Due) : (s.atClock t d).cores = s.cores := rfl
@[simp] theorem State.hbm_atClock (s : State) (t : Nat) (d : Due) : (s.atClock t d).hbm = s.hbm := rfl
@[simp] theorem State.pagePoison_atClock (s : State) (t : Nat) (d : Due) : (s.atClock t d).pagePoison = s.pagePoison := rfl
@[simp] theorem State.host_atClock (s : State) (t : Nat) (d : Due) : (s.atClock t d).host = s.host := rfl
@[simp] theorem State.hpat_atClock (s : State) (t : Nat) (d : Due) : (s.atClock t d).hpat = s.hpat := rfl
@[simp] theorem State.dram_atClock (s : State) (t : Nat) (d : Due) : (s.atClock t d).dram = s.dram := rfl
@[simp] theorem State.quiet_atClock (s : State) (t : Nat) (d : Due) : (s.atClock t d).quiet = s.quiet := rfl
@[simp] theorem State.asleep_atClock (s : State) (t : Nat) (d : Due) : (s.atClock t d).asleep = s.asleep := rfl
@[simp] theorem State.writeback_atClock (s : State) (t : Nat) (d : Due) : (s.atClock t d).writeback = s.writeback := rfl
@[simp] theorem State.inbox_atClock (s : State) (t : Nat) (d : Due) : (s.atClock t d).inbox = s.inbox := rfl
@[simp] theorem State.sites_atClock (s : State) (t : Nat) (d : Due) : (s.atClock t d).sites = s.sites := rfl
@[simp] theorem State.shoots_atClock (s : State) (t : Nat) (d : Due) : (s.atClock t d).shoots = s.shoots := rfl
@[simp] theorem State.sync_atClock (s : State) (t : Nat) (d : Due) : (s.atClock t d).sync = s.sync := rfl
@[simp] theorem State.sems_atClock (s : State) (t : Nat) (d : Due) : (s.atClock t d).sems = s.sems := rfl
@[simp] theorem State.bars_atClock (s : State) (t : Nat) (d : Due) : (s.atClock t d).bars = s.bars := rfl
@[simp] theorem State.seq_atClock (s : State) (t : Nat) (d : Due) : (s.atClock t d).seq = s.seq := rfl
@[simp] theorem State.logs_atClock (s : State) (t : Nat) (d : Due) : (s.atClock t d).logs = s.logs := rfl
@[simp] theorem State.tasks_atClock (s : State) (t : Nat) (d : Due) : (s.atClock t d).tasks = s.tasks := rfl
@[simp] theorem State.launches_atClock (s : State) (t : Nat) (d : Due) : (s.atClock t d).launches = s.launches := rfl
@[simp] theorem State.groups_atClock (s : State) (t : Nat) (d : Due) : (s.atClock t d).groups = s.groups := rfl
@[simp] theorem State.nextLaunch_atClock (s : State) (t : Nat) (d : Due) : (s.atClock t d).nextLaunch = s.nextLaunch := rfl
@[simp] theorem State.queues_atClock (s : State) (t : Nat) (d : Due) : (s.atClock t d).queues = s.queues := rfl
@[simp] theorem State.lastQueue_atClock (s : State) (t : Nat) (d : Due) : (s.atClock t d).lastQueue = s.lastQueue := rfl
@[simp] theorem State.orders_atClock (s : State) (t : Nat) (d : Due) : (s.atClock t d).orders = s.orders := rfl
@[simp] theorem State.events_atClock (s : State) (t : Nat) (d : Due) : (s.atClock t d).events = s.events := rfl
@[simp] theorem State.evcount_atClock (s : State) (t : Nat) (d : Due) : (s.atClock t d).evcount = s.evcount := rfl
@[simp] theorem State.mgmt_atClock (s : State) (t : Nat) (d : Due) : (s.atClock t d).mgmt = s.mgmt := rfl
@[simp] theorem State.life_atClock (s : State) (t : Nat) (d : Due) : (s.atClock t d).life = s.life := rfl
@[simp] theorem State.isles_atClock (s : State) (t : Nat) (d : Due) : (s.atClock t d).isles = s.isles := rfl
@[simp] theorem State.answers_atClock (s : State) (t : Nat) (d : Due) : (s.atClock t d).answers = s.answers := rfl
@[simp] theorem State.brought_atClock (s : State) (t : Nat) (d : Due) : (s.atClock t d).brought = s.brought := rfl
@[simp] theorem State.reply_atClock (s : State) (t : Nat) (d : Due) : (s.atClock t d).reply = s.reply := rfl
@[simp] theorem State.sentFab_atClock (s : State) (t : Nat) (d : Due) : (s.atClock t d).sentFab = s.sentFab := rfl

/-! ### State.onMgmt -/

@[simp] theorem State.mgmt_onMgmt (s : State) (f : Mgmt → Mgmt) : (s.onMgmt f).mgmt = f s.mgmt := rfl
@[simp] theorem State.now_onMgmt (s : State) (f : Mgmt → Mgmt) : (s.onMgmt f).now = s.now := rfl
@[simp] theorem State.cur_onMgmt (s : State) (f : Mgmt → Mgmt) : (s.onMgmt f).cur = s.cur := rfl
@[simp] theorem State.arg_onMgmt (s : State) (f : Mgmt → Mgmt) : (s.onMgmt f).arg = s.arg := rfl
@[simp] theorem State.todo_onMgmt (s : State) (f : Mgmt → Mgmt) : (s.onMgmt f).todo = s.todo := rfl
@[simp] theorem State.agenda_onMgmt (s : State) (f : Mgmt → Mgmt) : (s.onMgmt f).agenda = s.agenda := rfl
@[simp] theorem State.free_onMgmt (s : State) (f : Mgmt → Mgmt) : (s.onMgmt f).free = s.free := rfl
@[simp] theorem State.powered_onMgmt (s : State) (f : Mgmt → Mgmt) : (s.onMgmt f).powered = s.powered := rfl
@[simp] theorem State.ready_onMgmt (s : State) (f : Mgmt → Mgmt) : (s.onMgmt f).ready = s.ready := rfl
@[simp] theorem State.cores_onMgmt (s : State) (f : Mgmt → Mgmt) : (s.onMgmt f).cores = s.cores := rfl
@[simp] theorem State.hbm_onMgmt (s : State) (f : Mgmt → Mgmt) : (s.onMgmt f).hbm = s.hbm := rfl
@[simp] theorem State.pagePoison_onMgmt (s : State) (f : Mgmt → Mgmt) : (s.onMgmt f).pagePoison = s.pagePoison := rfl
@[simp] theorem State.host_onMgmt (s : State) (f : Mgmt → Mgmt) : (s.onMgmt f).host = s.host := rfl
@[simp] theorem State.hpat_onMgmt (s : State) (f : Mgmt → Mgmt) : (s.onMgmt f).hpat = s.hpat := rfl
@[simp] theorem State.dram_onMgmt (s : State) (f : Mgmt → Mgmt) : (s.onMgmt f).dram = s.dram := rfl
@[simp] theorem State.quiet_onMgmt (s : State) (f : Mgmt → Mgmt) : (s.onMgmt f).quiet = s.quiet := rfl
@[simp] theorem State.asleep_onMgmt (s : State) (f : Mgmt → Mgmt) : (s.onMgmt f).asleep = s.asleep := rfl
@[simp] theorem State.writeback_onMgmt (s : State) (f : Mgmt → Mgmt) : (s.onMgmt f).writeback = s.writeback := rfl
@[simp] theorem State.inbox_onMgmt (s : State) (f : Mgmt → Mgmt) : (s.onMgmt f).inbox = s.inbox := rfl
@[simp] theorem State.sites_onMgmt (s : State) (f : Mgmt → Mgmt) : (s.onMgmt f).sites = s.sites := rfl
@[simp] theorem State.shoots_onMgmt (s : State) (f : Mgmt → Mgmt) : (s.onMgmt f).shoots = s.shoots := rfl
@[simp] theorem State.sync_onMgmt (s : State) (f : Mgmt → Mgmt) : (s.onMgmt f).sync = s.sync := rfl
@[simp] theorem State.sems_onMgmt (s : State) (f : Mgmt → Mgmt) : (s.onMgmt f).sems = s.sems := rfl
@[simp] theorem State.bars_onMgmt (s : State) (f : Mgmt → Mgmt) : (s.onMgmt f).bars = s.bars := rfl
@[simp] theorem State.seq_onMgmt (s : State) (f : Mgmt → Mgmt) : (s.onMgmt f).seq = s.seq := rfl
@[simp] theorem State.logs_onMgmt (s : State) (f : Mgmt → Mgmt) : (s.onMgmt f).logs = s.logs := rfl
@[simp] theorem State.tasks_onMgmt (s : State) (f : Mgmt → Mgmt) : (s.onMgmt f).tasks = s.tasks := rfl
@[simp] theorem State.launches_onMgmt (s : State) (f : Mgmt → Mgmt) : (s.onMgmt f).launches = s.launches := rfl
@[simp] theorem State.groups_onMgmt (s : State) (f : Mgmt → Mgmt) : (s.onMgmt f).groups = s.groups := rfl
@[simp] theorem State.nextLaunch_onMgmt (s : State) (f : Mgmt → Mgmt) : (s.onMgmt f).nextLaunch = s.nextLaunch := rfl
@[simp] theorem State.queues_onMgmt (s : State) (f : Mgmt → Mgmt) : (s.onMgmt f).queues = s.queues := rfl
@[simp] theorem State.lastQueue_onMgmt (s : State) (f : Mgmt → Mgmt) : (s.onMgmt f).lastQueue = s.lastQueue := rfl
@[simp] theorem State.orders_onMgmt (s : State) (f : Mgmt → Mgmt) : (s.onMgmt f).orders = s.orders := rfl
@[simp] theorem State.events_onMgmt (s : State) (f : Mgmt → Mgmt) : (s.onMgmt f).events = s.events := rfl
@[simp] theorem State.evcount_onMgmt (s : State) (f : Mgmt → Mgmt) : (s.onMgmt f).evcount = s.evcount := rfl
@[simp] theorem State.life_onMgmt (s : State) (f : Mgmt → Mgmt) : (s.onMgmt f).life = s.life := rfl
@[simp] theorem State.isles_onMgmt (s : State) (f : Mgmt → Mgmt) : (s.onMgmt f).isles = s.isles := rfl
@[simp] theorem State.answers_onMgmt (s : State) (f : Mgmt → Mgmt) : (s.onMgmt f).answers = s.answers := rfl
@[simp] theorem State.brought_onMgmt (s : State) (f : Mgmt → Mgmt) : (s.onMgmt f).brought = s.brought := rfl
@[simp] theorem State.reply_onMgmt (s : State) (f : Mgmt → Mgmt) : (s.onMgmt f).reply = s.reply := rfl
@[simp] theorem State.sentFab_onMgmt (s : State) (f : Mgmt → Mgmt) : (s.onMgmt f).sentFab = s.sentFab := rfl

/-! ### State.setDropped -/

@[simp] theorem State.now_setDropped (s : State) (x : CoreId × Nat) (v : Bool) : (s.setDropped x v).now = s.now := rfl
@[simp] theorem State.todo_setDropped (s : State) (x : CoreId × Nat) (v : Bool) : (s.setDropped x v).todo = s.todo := rfl
@[simp] theorem State.agenda_setDropped (s : State) (x : CoreId × Nat) (v : Bool) : (s.setDropped x v).agenda = s.agenda := rfl
@[simp] theorem State.cores_setDropped (s : State) (x : CoreId × Nat) (v : Bool) : (s.setDropped x v).cores = s.cores := rfl
@[simp] theorem State.hbm_setDropped (s : State) (x : CoreId × Nat) (v : Bool) : (s.setDropped x v).hbm = s.hbm := rfl
@[simp] theorem State.host_setDropped (s : State) (x : CoreId × Nat) (v : Bool) : (s.setDropped x v).host = s.host := rfl
@[simp] theorem State.pagePoison_setDropped (s : State) (x : CoreId × Nat) (v : Bool) : (s.setDropped x v).pagePoison = s.pagePoison := rfl
@[simp] theorem State.hpat_setDropped (s : State) (x : CoreId × Nat) (v : Bool) : (s.setDropped x v).hpat = s.hpat := rfl
@[simp] theorem State.tasks_setDropped (s : State) (x : CoreId × Nat) (v : Bool) : (s.setDropped x v).tasks = s.tasks := rfl
@[simp] theorem State.shoots_setDropped (s : State) (x : CoreId × Nat) (v : Bool) : (s.setDropped x v).shoots = s.shoots := rfl
@[simp] theorem State.sync_setDropped (s : State) (x : CoreId × Nat) (v : Bool) : (s.setDropped x v).sync = s.sync := rfl
/-- What is noted for one command changes nothing for another. -/
theorem State.isDropped_setDropped (s : State) (x y : CoreId × Nat) (v : Bool) :
    (s.setDropped x v).isDropped y = if y = x then v else s.isDropped y := by
  unfold State.setDropped State.isDropped
  by_cases e : siteOf x.1 = siteOf y.1
  · by_cases h : y = x
    · subst h
      cases v <;> simp
    · cases v <;> simp [e, h]
  · have h : y ≠ x := fun h => e (by rw [h])
    have e' : (siteOf x.1).val ≠ (siteOf y.1).val := fun k => e (Fin.ext k)
    simp [h, e']
/-- Nothing that a site holds goes with what is noted. -/
theorem State.held_setDropped (s : State) (x : CoreId × Nat) (v : Bool) (i : Fin 48) :
    (s.setDropped x v).sites[i].tlb = s.sites[i].tlb ∧ (s.setDropped x v).sites[i].records = s.sites[i].records := by
  unfold State.setDropped
  by_cases e : siteOf x.1 = i
  · subst e
    simp
  · have e' : (siteOf x.1).val ≠ i.val := fun k => e (Fin.ext k)
    simp [e']

end Sys2Proof.Machine
end

