-- ==== Sys2Proof/Laws/Core.lean ====
section
/-! SUPPORT. What each update of a core leaves and what it changes. -/

namespace Sys2Proof.Machine

/-! ### Core.onCtx -/

@[simp] theorem Core.ctx_onCtx (c : Core) (f : Ctx → Ctx) : (c.onCtx f).ctx = f c.ctx := rfl
@[simp] theorem Core.run_onCtx (c : Core) (f : Ctx → Ctx) : (c.onCtx f).run = c.run := rfl
@[simp] theorem Core.sram_onCtx (c : Core) (f : Ctx → Ctx) : (c.onCtx f).sram = c.sram := rfl
@[simp] theorem Core.clk_onCtx (c : Core) (f : Ctx → Ctx) : (c.onCtx f).clk = c.clk := rfl
@[simp] theorem Core.icache_onCtx (c : Core) (f : Ctx → Ctx) : (c.onCtx f).icache = c.icache := rfl
@[simp] theorem Core.wear_onCtx (c : Core) (f : Ctx → Ctx) : (c.onCtx f).wear = c.wear := rfl
@[simp] theorem Core.sample_onCtx (c : Core) (f : Ctx → Ctx) : (c.onCtx f).sample = c.sample := rfl
@[simp] theorem Core.usable_onCtx (c : Core) (f : Ctx → Ctx) : (c.onCtx f).usable = c.usable := rfl

/-! ### Core.onRun -/

@[simp] theorem Core.run_onRun (c : Core) (f : Run → Run) : (c.onRun f).run = f c.run := rfl
@[simp] theorem Core.ctx_onRun (c : Core) (f : Run → Run) : (c.onRun f).ctx = c.ctx := rfl
@[simp] theorem Core.sram_onRun (c : Core) (f : Run → Run) : (c.onRun f).sram = c.sram := rfl
@[simp] theorem Core.clk_onRun (c : Core) (f : Run → Run) : (c.onRun f).clk = c.clk := rfl
@[simp] theorem Core.icache_onRun (c : Core) (f : Run → Run) : (c.onRun f).icache = c.icache := rfl
@[simp] theorem Core.wear_onRun (c : Core) (f : Run → Run) : (c.onRun f).wear = c.wear := rfl
@[simp] theorem Core.sample_onRun (c : Core) (f : Run → Run) : (c.onRun f).sample = c.sample := rfl
@[simp] theorem Core.usable_onRun (c : Core) (f : Run → Run) : (c.onRun f).usable = c.usable := rfl

/-! ### Core.onSpr -/

@[simp] theorem Core.run_onSpr (c : Core) (f : Spr → Spr) : (c.onSpr f).run = c.run := rfl
@[simp] theorem Core.sram_onSpr (c : Core) (f : Spr → Spr) : (c.onSpr f).sram = c.sram := rfl
@[simp] theorem Core.clk_onSpr (c : Core) (f : Spr → Spr) : (c.onSpr f).clk = c.clk := rfl
@[simp] theorem Core.icache_onSpr (c : Core) (f : Spr → Spr) : (c.onSpr f).icache = c.icache := rfl
@[simp] theorem Core.wear_onSpr (c : Core) (f : Spr → Spr) : (c.onSpr f).wear = c.wear := rfl
@[simp] theorem Core.sample_onSpr (c : Core) (f : Spr → Spr) : (c.onSpr f).sample = c.sample := rfl
@[simp] theorem Core.usable_onSpr (c : Core) (f : Spr → Spr) : (c.onSpr f).usable = c.usable := rfl

/-! ### Core.meter -/

@[simp] theorem Core.run_meter (c : Core) (fj : Nat) : (c.meter fj).run = c.run := rfl
@[simp] theorem Core.sram_meter (c : Core) (fj : Nat) : (c.meter fj).sram = c.sram := rfl
@[simp] theorem Core.clk_meter (c : Core) (fj : Nat) : (c.meter fj).clk = c.clk := rfl
@[simp] theorem Core.icache_meter (c : Core) (fj : Nat) : (c.meter fj).icache = c.icache := rfl
@[simp] theorem Core.wear_meter (c : Core) (fj : Nat) : (c.meter fj).wear = c.wear := rfl
@[simp] theorem Core.sample_meter (c : Core) (fj : Nat) : (c.meter fj).sample = c.sample := rfl
@[simp] theorem Core.usable_meter (c : Core) (fj : Nat) : (c.meter fj).usable = c.usable := rfl

/-! ### Core.onRegion -/

@[simp] theorem Core.ctx_onRegion (c : Core) (f : Region → Region) : (c.onRegion f).ctx = c.ctx := rfl
@[simp] theorem Core.sram_onRegion (c : Core) (f : Region → Region) : (c.onRegion f).sram = c.sram := rfl
@[simp] theorem Core.clk_onRegion (c : Core) (f : Region → Region) : (c.onRegion f).clk = c.clk := rfl
@[simp] theorem Core.icache_onRegion (c : Core) (f : Region → Region) : (c.onRegion f).icache = c.icache := rfl
@[simp] theorem Core.wear_onRegion (c : Core) (f : Region → Region) : (c.onRegion f).wear = c.wear := rfl
@[simp] theorem Core.sample_onRegion (c : Core) (f : Region → Region) : (c.onRegion f).sample = c.sample := rfl
@[simp] theorem Core.usable_onRegion (c : Core) (f : Region → Region) : (c.onRegion f).usable = c.usable := rfl

/-! ### Core.fly -/

@[simp] theorem Core.ctx_fly (c : Core) (lat : Nat) (slot : Fin 4) (l : Landing) : (c.fly lat slot l).ctx = c.ctx := rfl
@[simp] theorem Core.sram_fly (c : Core) (lat : Nat) (slot : Fin 4) (l : Landing) : (c.fly lat slot l).sram = c.sram := rfl
@[simp] theorem Core.clk_fly (c : Core) (lat : Nat) (slot : Fin 4) (l : Landing) : (c.fly lat slot l).clk = c.clk := rfl
@[simp] theorem Core.icache_fly (c : Core) (lat : Nat) (slot : Fin 4) (l : Landing) : (c.fly lat slot l).icache = c.icache := rfl
@[simp] theorem Core.wear_fly (c : Core) (lat : Nat) (slot : Fin 4) (l : Landing) : (c.fly lat slot l).wear = c.wear := rfl
@[simp] theorem Core.sample_fly (c : Core) (lat : Nat) (slot : Fin 4) (l : Landing) : (c.fly lat slot l).sample = c.sample := rfl
@[simp] theorem Core.usable_fly (c : Core) (lat : Nat) (slot : Fin 4) (l : Landing) : (c.fly lat slot l).usable = c.usable := rfl

/-! ### Core.raise -/

@[simp] theorem Core.ctx_raise (c : Core) (p : Fin 4) (x : Cause) (d : BitVec 32) : (c.raise p x d).ctx = c.ctx := rfl
@[simp] theorem Core.sram_raise (c : Core) (p : Fin 4) (x : Cause) (d : BitVec 32) : (c.raise p x d).sram = c.sram := rfl
@[simp] theorem Core.clk_raise (c : Core) (p : Fin 4) (x : Cause) (d : BitVec 32) : (c.raise p x d).clk = c.clk := rfl
@[simp] theorem Core.icache_raise (c : Core) (p : Fin 4) (x : Cause) (d : BitVec 32) : (c.raise p x d).icache = c.icache := rfl
@[simp] theorem Core.wear_raise (c : Core) (p : Fin 4) (x : Cause) (d : BitVec 32) : (c.raise p x d).wear = c.wear := rfl
@[simp] theorem Core.sample_raise (c : Core) (p : Fin 4) (x : Cause) (d : BitVec 32) : (c.raise p x d).sample = c.sample := rfl
@[simp] theorem Core.usable_raise (c : Core) (p : Fin 4) (x : Cause) (d : BitVec 32) : (c.raise p x d).usable = c.usable := rfl

/-! ### Core.freeze -/

@[simp] theorem Core.ctx_freeze (c : Core) (n : Nat) : (c.freeze n).ctx = c.ctx := rfl
@[simp] theorem Core.sram_freeze (c : Core) (n : Nat) : (c.freeze n).sram = c.sram := rfl
@[simp] theorem Core.clk_freeze (c : Core) (n : Nat) : (c.freeze n).clk = c.clk := rfl
@[simp] theorem Core.icache_freeze (c : Core) (n : Nat) : (c.freeze n).icache = c.icache := rfl
@[simp] theorem Core.wear_freeze (c : Core) (n : Nat) : (c.freeze n).wear = c.wear := rfl
@[simp] theorem Core.sample_freeze (c : Core) (n : Nat) : (c.freeze n).sample = c.sample := rfl
@[simp] theorem Core.usable_freeze (c : Core) (n : Nat) : (c.freeze n).usable = c.usable := rfl

/-! ### Core.command -/

@[simp] theorem Core.ctx_command (c : Core) (e : EffCmd) : (c.command e).ctx = c.ctx := rfl
@[simp] theorem Core.sram_command (c : Core) (e : EffCmd) : (c.command e).sram = c.sram := rfl
@[simp] theorem Core.clk_command (c : Core) (e : EffCmd) : (c.command e).clk = c.clk := rfl
@[simp] theorem Core.icache_command (c : Core) (e : EffCmd) : (c.command e).icache = c.icache := rfl
@[simp] theorem Core.wear_command (c : Core) (e : EffCmd) : (c.command e).wear = c.wear := rfl
@[simp] theorem Core.sample_command (c : Core) (e : EffCmd) : (c.command e).sample = c.sample := rfl
@[simp] theorem Core.usable_command (c : Core) (e : EffCmd) : (c.command e).usable = c.usable := rfl

/-! ### Core.closeRegion -/

@[simp] theorem Core.ctx_closeRegion (c : Core) : (c.closeRegion).ctx = c.ctx := rfl
@[simp] theorem Core.sram_closeRegion (c : Core) : (c.closeRegion).sram = c.sram := rfl
@[simp] theorem Core.clk_closeRegion (c : Core) : (c.closeRegion).clk = c.clk := rfl
@[simp] theorem Core.icache_closeRegion (c : Core) : (c.closeRegion).icache = c.icache := rfl
@[simp] theorem Core.wear_closeRegion (c : Core) : (c.closeRegion).wear = c.wear := rfl
@[simp] theorem Core.sample_closeRegion (c : Core) : (c.closeRegion).sample = c.sample := rfl
@[simp] theorem Core.usable_closeRegion (c : Core) : (c.closeRegion).usable = c.usable := rfl

/-! ### Core.claim -/

@[simp] theorem Core.sram_claim (c : Core) (t : TagId) : (c.claim t).sram = c.sram := rfl
@[simp] theorem Core.clk_claim (c : Core) (t : TagId) : (c.claim t).clk = c.clk := rfl
@[simp] theorem Core.icache_claim (c : Core) (t : TagId) : (c.claim t).icache = c.icache := rfl
@[simp] theorem Core.wear_claim (c : Core) (t : TagId) : (c.claim t).wear = c.wear := rfl
@[simp] theorem Core.sample_claim (c : Core) (t : TagId) : (c.claim t).sample = c.sample := rfl
@[simp] theorem Core.usable_claim (c : Core) (t : TagId) : (c.claim t).usable = c.usable := rfl

/-- The flights after one more result. -/
@[simp] theorem Core.flights_fly (c : Core) (lat : Nat) (slot : Fin 4) (l : Landing) :
    (c.fly lat slot l).run.flights = c.run.flights ++ [⟨lat, c.run.issues, c.regionId, slot, c.pc48, l⟩] := rfl
@[simp] theorem Core.phase_raise (c : Core) (p : Fin 4) (x : Cause) (d : BitVec 32) : (c.raise p x d).run.phase = .trapping := rfl
@[simp] theorem Core.checked_nil (c : Core) (p : Fin 4) (f : Core → Core) : c.checked p [] f = f c := rfl
/-- The first check fails. -/
theorem Core.checked_head {c : Core} {p : Fin 4} {b : Bool} {x : Cause} {l : List (Bool × Cause)} {f : Core → Core} (h : b = true) :
    c.checked p ((b, x) :: l) f = c.raise p x := by
  simp [Core.checked, firstFault, h]
/-- The first check passes. -/
theorem Core.checked_tail {c : Core} {p : Fin 4} {b : Bool} {x : Cause} {l : List (Bool × Cause)} {f : Core → Core} (h : b = false) :
    c.checked p ((b, x) :: l) f = c.checked p l f := by
  simp [Core.checked, firstFault, h]
/-- What the checks of a syllable come to: its effect, or the trap of one of its causes. -/
theorem Core.checked_cases (c : Core) (p : Fin 4) (l : List (Bool × Cause)) (f : Core → Core) :
    (firstFault l = none ∧ c.checked p l f = f c) ∨ ∃ x, firstFault l = some x ∧ c.checked p l f = c.raise p x := by
  unfold Core.checked
  split
  · exact .inr ⟨_, ‹_›, rfl⟩
  · exact .inl ⟨‹_›, rfl⟩

/-! ### Register files (R27, R29) -/

@[simp] theorem Ctx.sreg_zero (c : Ctx) : c.sreg 0 = 0 := rfl
@[simp] theorem Ctx.preg_zero (c : Ctx) : c.preg 0 = BitVec.allOnes 64 := rfl
@[simp] theorem Ctx.setS_zero (c : Ctx) (v : Word) : c.setS 0 v = c := rfl
@[simp] theorem Ctx.setP_zero (c : Ctx) (m v : Word) : c.setP 0 m v = c := rfl
theorem Ctx.sreg_setS (c : Ctx) (d r : SReg) (v : Word) : (c.setS d v).sreg r = if r = d ∧ d ≠ 0 then v else c.sreg r := by
  unfold Ctx.setS Ctx.sreg
  by_cases hd : d = 0
  · simp [hd]
  · by_cases hr : r = 0
    · simp [hr, Ne.symm hd]
    · by_cases h : r = d
      · subst h; simp [hd]
      · have : d.val ≠ r.val := fun e => h (Fin.ext e.symm)
        simp [hd, hr, h, this]

/-! ### Ties by lanes (R19) -/

/-- The bits of numbers of 32 bits laid one after another. -/
theorem testBit_foldr_lanes {α : Type} (g : α → Nat) (hg : ∀ a, g a < 2 ^ 32) : ∀ (l : List α) (j : Nat),
    (l.foldr (fun a x => g a + 2 ^ 32 * x) 0).testBit j = ((l[j / 32]?).map fun a => (g a).testBit (j % 32)).getD false
  | [], j => by simp
  | a :: l, j => by
    rw [List.foldr_cons, Nat.add_comm, Nat.testBit_two_pow_mul_add _ (hg a), testBit_foldr_lanes g hg l]
    by_cases h : j < 32
    · simp [h, Nat.div_eq_of_lt h, Nat.mod_eq_of_lt h]
    · have e : j / 32 = (j - 32) / 32 + 1 := by omega
      have m : (j - 32) % 32 = j % 32 := by omega
      simp [h, e, m]
/-- A mask of whole lanes has a bit where the mask it is of reaches into the bit's lane (R19). -/
theorem getLsbD_lanesOf (m : Line) (i : Nat) : (lanesOf m).getLsbD i = true ↔ ∃ j, j / 32 = i / 32 ∧ m.getLsbD j = true := by
  have zero (h : m.extractLsb' (32 * (i / 32)) 32 = 0) (j : Nat) (e : j / 32 = i / 32) : m.getLsbD j = false := by
    have := congrArg (fun v : BitVec 32 => v.getLsbD (j % 32)) h
    have lt : j % 32 < 32 := Nat.mod_lt _ (by decide)
    have e' : 32 * (i / 32) + j % 32 = j := by omega
    simpa [lt, e'] using this
  unfold lanesOf
  rw [BitVec.getLsbD_ofNat, testBit_foldr_lanes _ (fun a => by split <;> decide)]
  by_cases hi : i < 2048
  · have h64 : i / 32 < 64 := by omega
    have lt : i % 32 < 32 := Nat.mod_lt _ (by decide)
    simp only [hi, decide_true, Bool.true_and, List.getElem?_range h64, Option.map_some, Option.getD_some]
    split
    · next h =>
      simp only [Nat.zero_testBit, Bool.false_eq_true, false_iff, not_exists, not_and, Bool.not_eq_true]
      exact fun j e => zero h j e
    · next h =>
      simp only [Nat.testBit_two_pow_sub_one, lt, decide_true, true_iff]
      by_contra hn
      refine h (BitVec.eq_of_getLsbD_eq fun k hk => ?_)
      simp only [not_exists, not_and, Bool.not_eq_true] at hn
      have := hn (32 * (i / 32) + k) (by omega)
      simp [hk, this]
  · simp only [hi, decide_false, Bool.false_and, Bool.false_eq_true, false_iff, not_exists, not_and, Bool.not_eq_true]
    intro j e
    exact BitVec.getLsbD_of_ge _ _ (by omega)

end Sys2Proof.Machine
end

