-- ==== Sys2Proof/Laws/Engines.lean ====
section
/-! SUPPORT. What the shared operations of the engines do, said once: crossings, horizons, the writes of peers that a shootdown waits for, and
the steps that an unwind takes back. -/

namespace Sys2Proof.Machine

/-! ### Crossings (R347) -/

/-- A step of the device that crosses is one item on its way, by the same step. -/
@[simp] theorem Due.bare_over (i : Instr) (a : StepArg) (k : CoreId) (j : Fin 10) (p : Nat) : ((Due.dev i a).over k j p).bare = .dev i a := rfl
/-- An item that crosses is put on its way behind everything that is, and no time before the item before it. -/
theorem State.agenda_cross (s : State) (k : CoreId) (j : Fin 10) (i : Instr) (a : StepArg) : ∃ t p,
    (s.cross k j (.dev i a)).agenda = s.agenda ++ [(t, .item k j p i a)] ∧ s.now < t ∧ s.cores[k].clk.cross[j].last ≤ t := by
  refine ⟨_, _, rfl, ?_, Nat.le_max_right _ _⟩
  have : 1 ≤ max 1 s.cores[k].clk.cross[j].d := Nat.le_max_left _ _
  omega
/-- What is put on its way is on its way. -/
theorem State.onItsWay_cross (s : State) (k : CoreId) (j : Fin 10) (i : Instr) (a : StepArg) :
    (s.cross k j (.dev i a)).onItsWay (.dev i a) = true := by
  obtain ⟨t, p, h, -⟩ := s.agenda_cross k j i a
  simp [State.onItsWay, h, Due.bare]

/-! ### Horizons (R205, R213) -/

/-- Horizons of every log stand at the number of an acquire of every log, or above it. -/
theorem Task.horizon_raise_all (t : Task) (n : Nat) : (t.raise (.all n)).horizon = max t.horizon n := rfl
/-- An acquire of named logs leaves the horizon of every other. -/
theorem Task.horizon_raise_logs (t : Task) (ws : List Nat) (n : Nat) : (t.raise (.logs ws n)).horizon = t.horizon := by
  simp only [Task.raise]
  induction ws generalizing t with
  | nil => rfl
  | cons w ws ih =>
    rw [List.foldl_cons, ih]
    split <;> rfl

/-! ### Shootdowns (R302) -/

@[simp] theorem Shoot.chan_awaits (k : Shoot) (x : Inbound) : (k.awaits x).chan = x.chan := by unfold Shoot.awaits; split <;> rfl
@[simp] theorem Shoot.dpa_awaits (k : Shoot) (x : Inbound) : (k.awaits x).dpa = x.dpa := by unfold Shoot.awaits; split <;> rfl
@[simp] theorem Shoot.data_awaits (k : Shoot) (x : Inbound) : (k.awaits x).data = x.data := by unfold Shoot.awaits; split <;> rfl
@[simp] theorem Shoot.mask_awaits (k : Shoot) (x : Inbound) : (k.awaits x).mask = x.mask := by unfold Shoot.awaits; split <;> rfl
@[simp] theorem Shoot.port_awaits (k : Shoot) (x : Inbound) : (k.awaits x).port = x.port := by unfold Shoot.awaits; split <;> rfl

/-! ### The unwind (R104, R105) -/

/-- Of reversible steps alone an unwind takes back every one. -/
theorem takenBack_reversible {l : List Landed} (h : ∀ u ∈ l, u.fj ≠ none) (done : List Undo) : takenBack done l = l := by
  induction l generalizing done with
  | nil => rfl
  | cons u l ih =>
    have hu : u.fj.isSome = true := Option.isSome_iff_ne_none.2 (h u (by simp))
    simp [takenBack, hu, ih fun v hv => h v (by simp [hv])]
/-- Reversible steps leave nothing region-local. -/
theorem localSteps_reversible {l : List Landed} (h : ∀ u ∈ l, u.fj ≠ none) (reached : List Undo) : localSteps reached l = [] := by
  induction l generalizing reached with
  | nil => rfl
  | cons u l ih =>
    have hu : u.fj.isSome = true := Option.isSome_iff_ne_none.2 (h u (by simp))
    simp [localSteps, hu, ih fun v hv => h v (by simp [hv])]

end Sys2Proof.Machine
end

