-- ==== Sys2Proof/Laws/Forms.lean ====
section
/-! SUPPORT. How the forms of the slots end, said once: from the shape of a meaning to the conditions that Safety.lean names. -/

namespace Sys2Proof.Machine

/-- The first fault of a list is the first entry that holds. -/
theorem firstFault_nth {l : List (Bool × Cause)} {n : Nat} {z : Cause} (h : l[n]? = some (true, z))
    (h0 : ∀ (m : Nat) y x, m < n → l[m]? = some (y, x) → y = false) : firstFault l = some z := by
  induction l generalizing n with
  | nil => simp at h
  | cons a l ih =>
    obtain ⟨b, c⟩ := a
    cases n with
    | zero => simp at h; simp [firstFault, h]
    | succ n =>
      have hb : b = false := h0 0 b c (by omega) rfl
      subst hb
      exact ih (by simpa using h) fun m y x hm hx => h0 (m + 1) y x (by omega) (by simpa using hx)

/-- No fault holds. -/
theorem firstFault_none {l : List (Bool × Cause)} (h : ∀ x ∈ l, x.1 = false) : firstFault l = none := by
  induction l with
  | nil => rfl
  | cons a l ih =>
    obtain ⟨b, c⟩ := a
    have hb : b = false := h (b, c) (by simp)
    simp [firstFault, hb, ih fun x hx => h x (by simp [hx])]

/-- A meaning that checks and then acts ends as its checks say. -/
theorem State.checkedBy_of {s : State} {j : Instr} {pos : Fin 4} {faults : List (Bool × Cause)} {f F g : Core → Core}
    (h : exec j s = .next (s.onCur F)) (hF : F s.core = s.core.checked pos faults g) (hg : g s.core = f s.core) :
    s.checkedBy j pos faults f := by
  refine ⟨fun n z hz h0 => ?_, fun h0 => ?_⟩
  · rw [h]
    exact congrArg _ (State.onCur_congr (by rw [hF, Core.checked, firstFault_nth hz h0]))
  · rw [h]
    exact congrArg _ (State.onCur_congr (by rw [hF, Core.checked, firstFault_none h0, hg]))

/-- A meaning of the M slot ends as its resources and its checks say. -/
theorem State.matrixForm_of {s : State} {j : Instr} {held : Bool} {faults : List (Bool × Cause)} {f F g : Core → Core}
    (h : exec j s = .next (s.onCur F)) (hF : F s.core = s.core.msyl held faults g) (hg : g s.core = f s.core) :
    s.matrixForm j held faults f := by
  refine ⟨fun hh => ?_, fun hh => State.checkedBy_of (F := F) h ?_ hg⟩
  · rw [h]
    exact congrArg _ (State.onCur_congr (by rw [hF, Core.msyl, if_pos hh]))
  · rw [hF, Core.msyl, hh]; rfl

/-- A meaning of an effect instruction ends as its guard, its queue and its checks say. -/
theorem State.effectForm_of {s : State} {j : Instr} {g : PReg} {faults : List (Bool × Cause)} {f F h : Core → Core}
    (hx : exec j s = .next (s.onCur F)) (hF : F s.core = s.core.effect g faults h) (hh : h s.core = f s.core) :
    s.effectForm j g faults f := by
  refine ⟨fun hg => ?_, fun hg hl => ?_, fun hg hl => State.checkedBy_of hx (g := fun c => (h c).closeRegion) ?_ (by rw [hh])⟩
  · rw [hx]
    exact congrArg _ (State.onCur_congr (by simp [hF, Core.effect, hg]))
  · rw [hx]
    exact congrArg _ (State.onCur_congr (by simp [hF, Core.effect, Core.effectsFull, hg, hl]))
  · simp [hF, Core.effect, Core.effectsFull, Nat.not_le.2 hl, hg]

/-- A step that is a management write ends as its master's rights say. -/
theorem State.managed_of {s : State} {j : Instr} {m : PortId} {anyone granted fits : Bool} {f : State → State}
    (h : exec j s = .next (s.manage m anyone granted fits f)) : s.managed j m anyone granted fits f := by
  have go : ∀ x : Right, s.right m anyone granted = x → exec j s = .next (match x with
      | .accepted => (if fits then f s else s.portEvent 0x07 m.val).respond m .taken
      | .refused => (s.portEvent 0x07 m.val).respond m .taken
      | .violation => (s.freezePort m).respond m (refusalOf m)
      | .unheard => if s.reaches m then s.respond m (refusalOf m) else s) := by
    intro x hx
    subst hx
    exact h
  refine ⟨fun h1 => ?_, fun h1 h2 => ?_, fun h1 h2 h3 => go .refused (by simp [State.right, h1, h2, h3]),
    fun h1 h2 h3 => go .violation ?_, fun h1 h2 h3 => ?_, fun h1 h2 h3 => ?_⟩
  · simpa [h1] using go .unheard (by simp [State.right, State.hears, h1])
  · simpa [h1] using go .unheard (by simp only [State.right, State.hears, h1, h2]; rfl)
  · simp only [not_or, not_and] at h3
    simp [State.right, Mgmt.isOwner, h1, h2, h3.1, h3.2 h2]
  all_goals
    have e := go .accepted (by
      rcases h2 with h2 | ⟨h2, h4 | h4⟩
      · simp [State.right, h1, h2]
      · cases anyone <;> simp [State.right, Mgmt.isOwner, h1, h2, h4]
      · cases anyone <;> simp [State.right, Mgmt.isOwner, h1, h2, h4])
    simpa [h3] using e

/-- A step that is a peer's packet ends as its entry says. -/
theorem State.fromPeerForm_of {s : State} {j : Instr} {peer : Fin 4096} {port : Fin 18} {permits : Word → Bool} {f : Word → State}
    (h : exec j s = .next (s.fromPeer peer port permits f)) : s.fromPeerForm j peer port permits f := by
  simp only [State.fromPeerForm, h, State.fromPeer]
  refine ⟨fun h1 => ?_, fun h1 h2 => ?_, fun h1 h2 => ?_⟩
  · rw [if_pos (by simpa [imp_iff_not_or] using h1)]
  · rw [if_neg (by simp [h1]), if_neg (by simpa [and_assoc] using h2)]
  · rw [if_neg (by simp [h1]), if_pos (by simpa [and_assoc] using h2)]

end Sys2Proof.Machine
end

