-- ==== Sys2Proof/Laws/LifeRecord.lean ====
section
/-! SUPPORT. A copy of the lifetime record as it is written: its check passes, and it holds its generation (R344). -/

namespace Sys2Proof.Machine

/-- A CRC of n bytes looks at n bytes. -/
theorem crcBytes_congr (n : Nat) : ∀ (c : BitVec 32) (v w : Nat), v % 2 ^ (8 * n) = w % 2 ^ (8 * n) → crcBytes c v n = crcBytes c w n := by
  induction n with
  | zero => intro c v w _; rfl
  | succ n ih =>
    intro c v w h
    have e : 2 ^ (8 * (n + 1)) = 256 * 2 ^ (8 * n) := by rw [Nat.mul_succ, Nat.pow_add]; omega
    rw [e, Nat.mod_mul, Nat.mod_mul] at h
    have h1 : v % 256 = w % 256 := by have := Nat.mod_lt v (by decide : 256 > 0); have := Nat.mod_lt w (by decide : 256 > 0); omega
    have h2 : v / 256 % 2 ^ (8 * n) = w / 256 % 2 ^ (8 * n) := by omega
    have h3 : BitVec.ofNat 8 v = BitVec.ofNat 8 w := by
      apply BitVec.eq_of_toNat_eq
      simpa only [BitVec.toNat_ofNat] using h1
    unfold crcBytes
    rw [h3]
    exact ih _ _ _ h2

/-- The parts of a copy as it is written. -/
theorem recordImage_parts (g m : Nat) (es : List Nat) : ∃ E c : Nat, c < 2 ^ 32 ∧
    recordImage g m es = (g % 2 ^ 64 + 2 ^ 64 * (m % 2 ^ 32)) + 2 ^ 480 * (c + 2 ^ 32 * E) ∧
    c = (recordCheck ((g % 2 ^ 64 + 2 ^ 64 * (m % 2 ^ 32)) + 2 ^ 480 * (c + 2 ^ 32 * E))).toNat := by
  let E := es.foldr (fun e n => e % 2 ^ 256 + 2 ^ 256 * n) 0
  let low := g % 2 ^ 64 + 2 ^ 64 * (m % 2 ^ 32)
  let c := (recordCheck (low + 2 ^ 512 * E)).toNat
  have hl : low < 2 ^ 96 := by
    have := Nat.mod_lt g (by decide : 2 ^ 64 > 0); have := Nat.mod_lt m (by decide : 2 ^ 32 > 0); omega
  have hc : c < 2 ^ 32 := (recordCheck (low + 2 ^ 512 * E)).isLt
  refine ⟨E, c, hc, ?_, ?_⟩
  · show (low + 2 ^ 512 * E) + 2 ^ 480 * c = low + 2 ^ 480 * (c + 2 ^ 32 * E)
    omega
  · show (recordCheck (low + 2 ^ 512 * E)).toNat = (recordCheck (low + 2 ^ 480 * (c + 2 ^ 32 * E))).toNat
    have hd : (low + 2 ^ 512 * E) / 2 ^ 512 = (low + 2 ^ 480 * (c + 2 ^ 32 * E)) / 2 ^ 512 := by omega
    have hm : (low + 2 ^ 512 * E) % 2 ^ (8 * 60) = (low + 2 ^ 480 * (c + 2 ^ 32 * E)) % 2 ^ (8 * 60) := by
      rw [show 8 * 60 = 480 from rfl]; omega
    unfold recordCheck
    rw [hd, crcBytes_congr 60 _ _ _ hm]

/-- The check of a copy as it is written passes. -/
theorem recordImage_sound (g m : Nat) (es : List Nat) : (⟨recordImage g m es⟩ : LifeCopy).sound = true := by
  obtain ⟨E, c, hc, h, hk⟩ := recordImage_parts g m es
  have hl : g % 2 ^ 64 + 2 ^ 64 * (m % 2 ^ 32) < 2 ^ 96 := by
    have := Nat.mod_lt g (by decide : 2 ^ 64 > 0); have := Nat.mod_lt m (by decide : 2 ^ 32 > 0); omega
  simp only [LifeCopy.sound, h, beq_iff_eq]
  apply BitVec.eq_of_toNat_eq
  rw [← hk, BitVec.toNat_ofNat]
  omega

/-- A copy as it is written holds its generation. -/
theorem recordImage_generation (g m : Nat) (es : List Nat) : (⟨recordImage g m es⟩ : LifeCopy).generation = g % 2 ^ 64 := by
  obtain ⟨E, c, hc, h, _⟩ := recordImage_parts g m es
  simp only [LifeCopy.generation, h]
  have := Nat.mod_lt g (by decide : 2 ^ 64 > 0)
  omega

/-- Of two copies that differ in their checks alone one is not sound. -/
theorem LifeCopy.unsound : ∃ x : LifeCopy, x.sound = false := by
  have e : recordCheck 0 = recordCheck (2 ^ 480) := by
    unfold recordCheck
    rw [crcBytes_congr 60 _ 0 (2 ^ 480) ((Nat.zero_mod _).trans (Nat.mod_self (2 ^ 480)).symm), Nat.zero_div,
      Nat.div_eq_of_lt (Nat.pow_lt_pow_right (by decide) (by decide) : 2 ^ 480 < 2 ^ 512)]
  by_cases h : recordCheck 0 = 0
  · refine ⟨⟨2 ^ 480⟩, ?_⟩
    rw [LifeCopy.sound, ← e, h, Nat.div_self (Nat.pow_pos (by decide))]
    rfl
  · refine ⟨⟨0⟩, ?_⟩
    rw [LifeCopy.sound, Nat.zero_div]
    exact beq_eq_false_iff_ne.2 h

end Sys2Proof.Machine
end

