-- ==== Sys2Proof/Laws/Memory.lean ====
section
/-! SUPPORT. Memory: every write keeps the canonical form, and a read after a write gives the byte written there and the old byte anywhere
else. -/

namespace Sys2Proof.Machine

/-- A lower bound of a canonical memory may be lowered. -/
theorem wfFrom_mono {lo lo' : Nat} (h : lo' ≤ lo) : ∀ {m : Mem}, wfFrom lo m = true → wfFrom lo' m = true
  | [], _ => rfl
  | c :: r, hm => by
    simp only [wfFrom, Bool.and_eq_true, decide_eq_true_eq] at hm ⊢
    exact ⟨⟨by omega, hm.1.2⟩, hm.2⟩

/-- A listed byte in front of a canonical rest. -/
theorem wfFrom_cons {lo a : Nat} {b : Byte} {r : Mem} (h : lo ≤ a) (hb : b ≠ 0) (hr : wfFrom (a + 1) r = true) :
    wfFrom lo ((a, b) :: r) = true := by
  simp only [wfFrom, Bool.and_eq_true, decide_eq_true_eq, bne_iff_ne]
  exact ⟨⟨h, hb⟩, hr⟩

/-- memSet keeps the canonical form above any bound that its address keeps. -/
theorem wfFrom_memSet (a : Nat) (b : Byte) : ∀ (m : Mem) (lo : Nat), lo ≤ a → wfFrom lo m = true → wfFrom lo (memSet m a b) = true
  | [], lo, ha, _ => by
    unfold memSet
    split
    · rfl
    · next hb => exact wfFrom_cons ha hb rfl
  | (x, y) :: r, lo, ha, hm => by
    simp only [wfFrom, Bool.and_eq_true, decide_eq_true_eq, bne_iff_ne] at hm
    obtain ⟨⟨h1, h2⟩, h3⟩ := hm
    unfold memSet
    dsimp only
    split
    · next e =>
      split
      · exact wfFrom_mono (by omega) h3
      · next hb => exact wfFrom_cons ha hb (e ▸ h3)
    · split
      · next hlt =>
        split
        · exact wfFrom_cons h1 h2 h3
        · next hb => exact wfFrom_cons ha hb (wfFrom_cons hlt h2 h3)
      · exact wfFrom_cons h1 h2 (wfFrom_memSet a b r (x + 1) (by omega) h3)

/-- A byte written keeps the canonical form. -/
theorem Memory.wf_memSet {m : Mem} (a : Nat) (b : Byte) (h : Memory.wf m = true) : Memory.wf (memSet m a b) = true :=
  wfFrom_memSet a b m 0 (Nat.zero_le a) h
/-- A value written keeps the canonical form. -/
theorem Memory.wf_memPut : ∀ (n : Nat) {m : Mem} (a v : Nat), Memory.wf m = true → Memory.wf (memPut m a v n) = true
  | 0, _, _, _, h => h
  | n + 1, _, a, v, h => Memory.wf_memPut n (a + 1) (v / 256) (Memory.wf_memSet a _ h)
/-- A value written under a pattern keeps the canonical form. -/
theorem Memory.wf_hbmPut (pat : Word) : ∀ (n : Nat) {m : Mem} (a v : Nat), Memory.wf m = true → Memory.wf (hbmPut m pat a v n) = true
  | 0, _, _, _, h => h
  | n + 1, _, a, v, h => Memory.wf_hbmPut pat n (a + 1) (v / 256) (Memory.wf_memSet _ _ h)
/-- The pattern 0 hashes nothing. -/
theorem hashChan_zero (off : Nat) : hashChan 0 off = off / 32 % 256 := by
  have h : ∀ k, pteField 0 (8 * k) 8 = 0 := fun k => by simp [pteField]
  have g : (List.range 8).foldl (fun (n k : Nat) =>
      let sel := pteField 0 (8 * k) 8
      if sel != 0 && off / 2 ^ sel % 2 == 1 then n + 2 ^ k else n) 0 = 0 := by
    simp only [h]
    rfl
  unfold hashChan
  rw [g]
  exact Nat.xor_zero _
/-- Under the pattern 0 every byte stands at its own address. -/
theorem cellOf_zero (a : Nat) : cellOf 0 a = a := by
  rw [cellOf, hashChan_zero]
  omega
/-- What is read under the pattern 0. -/
theorem hbmLe_zero (m : Mem) : ∀ (n a : Nat), hbmLe m 0 a n = memLe m a n
  | 0, _ => rfl
  | n + 1, a => by rw [hbmLe, memLe, cellOf_zero, hbmLe_zero m n]
/-- What is written under the pattern 0. -/
theorem hbmPut_zero : ∀ (n : Nat) (m : Mem) (a v : Nat), hbmPut m 0 a v n = memPut m a v n
  | 0, _, _, _ => rfl
  | n + 1, m, a, v => by rw [hbmPut, memPut, cellOf_zero, hbmPut_zero n]

/-- A masked value written keeps the canonical form. -/
theorem Memory.wf_memPutMask : ∀ (n : Nat) {m : Mem} (a k v : Nat), Memory.wf m = true → Memory.wf (memPutMask m a k v n) = true
  | 0, _, _, _, _, h => h
  | n + 1, _, a, k, v, h => by
    unfold memPutMask
    split
    · exact Memory.wf_memPutMask n (a + 1) (k / 2) (v / 256) (Memory.wf_memSet a _ h)
    · exact Memory.wf_memPutMask n (a + 1) (k / 2) (v / 256) h

/-- An address below the bound of a canonical memory reads as 0. -/
theorem memGet_below {x : Nat} : ∀ {m : Mem} {lo : Nat}, x < lo → wfFrom lo m = true → memGet m x = 0
  | [], _, _, _ => rfl
  | c :: r, lo, hx, hm => by
    simp only [wfFrom, Bool.and_eq_true, decide_eq_true_eq] at hm
    unfold memGet
    rw [if_neg (by omega), if_pos (by omega)]

/-- Reading after a byte is written. -/
theorem memGet_memSet_from (a x : Nat) (b : Byte) :
    ∀ (m : Mem) (lo : Nat), wfFrom lo m = true → memGet (memSet m a b) x = if x = a then b else memGet m x
  | [], lo, _ => by
    unfold memSet
    split
    · next hb =>
      split
      · exact hb.symm
      · rfl
    · by_cases hx : x = a
      · simp [memGet, hx]
      · rw [if_neg hx]; simp only [memGet]
        rw [if_neg (fun h => hx h.symm)]
        split <;> rfl
  | c :: r, lo, hm => by
    simp only [wfFrom, Bool.and_eq_true, decide_eq_true_eq] at hm
    obtain ⟨⟨_, _⟩, h3⟩ := hm
    have below : ∀ y, y ≤ c.1 → memGet r y = 0 := fun y hy => memGet_below (Nat.lt_succ_of_le hy) h3
    have ih := memGet_memSet_from a x b r (c.1 + 1) h3
    unfold memSet
    split
    · next e =>
      split
      · next hb =>
        by_cases hx : x = a
        · rw [if_pos hx, hb]; exact below x (by omega)
        · rw [if_neg hx]; simp only [memGet]
          rw [if_neg (by omega)]
          split
          · exact below x (by omega)
          · rfl
      · by_cases hx : x = a
        · simp [memGet, hx]
        · rw [if_neg hx]; simp only [memGet]
          rw [if_neg (fun h => hx h.symm), if_neg (show ¬ c.1 = x by omega), e]
    · split
      · split
        · next hlt hb =>
          by_cases hx : x = a
          · rw [if_pos hx, hb]; simp only [memGet]; rw [if_neg (by omega), if_pos (by omega)]
          · rw [if_neg hx]
        · next hlt hb =>
          by_cases hx : x = a
          · simp [memGet, hx]
          · rw [if_neg hx]; simp only [memGet]
            rw [if_neg (fun h => hx h.symm)]
            split
            · rw [if_neg (by omega), if_pos (by omega)]
            · rfl
      · next hne hlt =>
        simp only [memGet, ih]
        by_cases hx : x = a
        · rw [if_pos hx, if_neg (by omega), if_neg (by omega), if_pos hx]
        · simp only [if_neg hx]

/-- Reading after a byte is written: the byte at its address, and everywhere else what was there. -/
theorem memGet_memSet {m : Mem} (h : Memory.wf m = true) (a x : Nat) (b : Byte) :
    memGet (memSet m a b) x = if x = a then b else memGet m x := memGet_memSet_from a x b m 0 h

/-- Reading after a value is written: its bytes, little-endian, and everywhere else what was there. -/
theorem memGet_memPut (x : Nat) : ∀ (n : Nat) {m : Mem} (a v : Nat), Memory.wf m = true →
    memGet (memPut m a v n) x = if a ≤ x ∧ x < a + n then BitVec.ofNat 8 (v / 256 ^ (x - a)) else memGet m x
  | 0, _, a, _, _ => by rw [if_neg (by omega)]; rfl
  | n + 1, m, a, v, h => by
    unfold memPut
    rw [memGet_memPut x n (a + 1) (v / 256) (Memory.wf_memSet a _ h), memGet_memSet h]
    by_cases hx : x = a
    · subst hx
      rw [if_neg (by omega), if_pos rfl, if_pos (by omega)]
      simp
    · by_cases hr : a + 1 ≤ x ∧ x < a + 1 + n
      · rw [if_pos hr, if_pos (by omega)]
        congr 1
        rw [Nat.div_div_eq_div_mul, ← Nat.pow_succ']
        congr 2
        omega
      · rw [if_neg hr, if_neg hx, if_neg (by omega)]

/-- Reading after a masked value is written: the bytes the mask names, and everywhere else what was there. -/
theorem memGet_memPutMask (x : Nat) : ∀ (n : Nat) {m : Mem} (a k v : Nat), Memory.wf m = true →
    memGet (memPutMask m a k v n) x =
      if a ≤ x ∧ x < a + n ∧ k.testBit (x - a) = true then BitVec.ofNat 8 (v / 256 ^ (x - a)) else memGet m x
  | 0, _, a, _, _, _ => by rw [if_neg (by omega)]; rfl
  | n + 1, m, a, k, v, h => by
    unfold memPutMask
    have hw : Memory.wf (if k % 2 = 1 then memSet m a (BitVec.ofNat 8 v) else m) = true := by
      split
      · exact Memory.wf_memSet a _ h
      · exact h
    rw [memGet_memPutMask x n (a + 1) (k / 2) (v / 256) hw]
    by_cases hx : x = a
    · subst hx
      rw [if_neg (by omega)]
      simp only [Nat.sub_self, Nat.testBit_zero, decide_eq_true_eq, Nat.pow_zero, Nat.div_one, Nat.le_refl, true_and]
      split
      · next hk => rw [memGet_memSet h, if_pos rfl, if_pos ⟨by omega, hk⟩]
      · next hk => rw [if_neg (fun c => hk c.2)]
    · have hg : memGet (if k % 2 = 1 then memSet m a (BitVec.ofNat 8 v) else m) x = memGet m x := by
        split
        · rw [memGet_memSet h, if_neg hx]
        · rfl
      rw [hg]
      by_cases hr : a + 1 ≤ x ∧ x < a + 1 + n
      · have e : x - a = (x - (a + 1)) + 1 := by omega
        rw [e, Nat.testBit_succ, Nat.pow_succ', ← Nat.div_div_eq_div_mul]
        by_cases hk : (k / 2).testBit (x - (a + 1)) = true
        · rw [if_pos ⟨hr.1, hr.2, hk⟩, if_pos ⟨by omega, by omega, hk⟩]
        · rw [if_neg (fun c => hk c.2.2), if_neg (fun c => hk c.2.2)]
      · rw [if_neg (fun c => hr ⟨c.1, c.2.1⟩), if_neg (by omega)]

/-- Reset memory is in canonical form. -/
theorem reset_memOk : State.reset.memOk = true := rfl

end Sys2Proof.Machine
end

