-- ==== Sys2Proof/Tests/Slice0.lean ====
section
/-! SUPPORT. Tests of the model, each on one instruction or one state: ill-formed terms, words written out from the spec's encodings, single
steps with results worked out from the rules, and for each statement with hypotheses a state that meets them. -/

open Sys2Proof Sys2Proof.Machine

namespace Sys2Proof.Tests

/-! ### Well-formedness: each check refuses a term -/

theorem test_wf_refuses : ([.li 0 1 ⟨0x100, some 0⟩, .lih 0 1 ⟨0x2000, some 7⟩, .loop 0 1 2 ⟨1, none⟩, .loop 0 1 2 ⟨0, some 1⟩, .rdsr 0 1 0x0F,
    .wrsr 0 1 0x20, .tlbi 0 1 0 0 3, .tlbi 0 0 1 0 1, .tlbi 0 1 0 0 2, .vspill 0 60 1 4, .vfill 0 63 1 1, .vxor 0 3 3 .one, .vcopy 0 3 3 .one,
    .vaddrI32 0 3 3 .two, .vsubrI32 0 3 3 .two, .vrotl 0 3 3 .one, .vswap 0 3 3 .one, .vcswap 0 3 4 3 .one, .vcswap 0 3 4 4 .one,
    .vpermr 0 3 3 .one, .vrnsAdd 0 3 3 .one, .vrnsSub 0 3 3 .one, .vcvtRnsI32 0 3 3 .one, .vretag 0 1 0, .vretag 0 1 10] : List Instr).all
    (fun i => !i.wf) = true := by decide
theorem test_wf_accepts : ([.li 0 1 ⟨0xFF, some 0⟩, .li 0 1 ⟨0x3FFF, none⟩, .loop 0 1 0 ⟨9, some 1⟩, .loop 0 1 2 ⟨0, none⟩, .rdsr 0 1 0x1F,
    .tlbi 0 1 0 0 1, .vspill 0 60 1 3, .vcswap 0 3 4 5 .one, .vretag 0 1 9] : List Instr).all Instr.wf = true := by decide

/-! ### Words of every syllable, put together from the match, the fields and the formats of the spec -/

/-- Each word, in a position, with its literal, reads as its instruction. -/
def readsAs (pos : Fin 4) (l : List (Half × Option (BitVec 24) × Instr)) : Bool :=
  l.all fun p => decodeSyl pos p.1 p.2.1 == some p.2.2 && p.2.2.wf

theorem test_wordsS1 : readsAs 0 [
    (0x03517295, none, .add 21 42 11 37), (0x05517295, none, .sub 21 42 11 37), (0x07517295, none, .mul 21 42 11 37),
    (0x09517295, none, .mulh 21 42 11 37), (0x0B517295, none, .mulhu 21 42 11 37), (0x0D517295, none, .div 21 42 11 37),
    (0x0F517295, none, .divu 21 42 11 37), (0x11517295, none, .rem 21 42 11 37), (0x13517295, none, .remu 21 42 11 37),
    (0x15517295, none, .and 21 42 11 37), (0x17517295, none, .or 21 42 11 37), (0x19517295, none, .xor 21 42 11 37),
    (0x1B517295, none, .andn 21 42 11 37), (0x1D517295, none, .shl 21 42 11 37), (0x1F517295, none, .shr 21 42 11 37),
    (0x21517295, none, .sra 21 42 11 37), (0x23517295, none, .min 21 42 11 37), (0x25517295, none, .max 21 42 11 37),
    (0x27517295, none, .minu 21 42 11 37), (0x29517295, none, .maxu 21 42 11 37), (0x2B517295, none, .sel 21 42 11 37),
    (0x2D516015, none, .clz 21 42 11), (0x2F516015, none, .popc 21 42 11), (0x31517295, none, .lea 21 42 11 37 0),
    (0x415174B5, none, .addi 21 42 11 ⟨0xA5, none⟩), (0x435174B5, none, .andi 21 42 11 ⟨0xA5, none⟩), (0x455174B5, none, .ori 21 42 11 ⟨0xA5, none⟩),
    (0x475174B5, none, .xori 21 42 11 ⟨0xA5, none⟩), (0x495164B5, none, .shli 21 42 11 37), (0x4B5164B5, none, .shri 21 42 11 37),
    (0x4D5164B5, none, .srai 21 42 11 37), (0x4F554B75, none, .li 21 42 ⟨0x2A5B, none⟩), (0x51554B75, none, .lih 21 42 ⟨0x2A5B, none⟩),
    (0x60517295, none, .cmpeq 21 10 11 37), (0x62517295, none, .cmpne 21 10 11 37), (0x64517295, none, .cmplt 21 10 11 37)] = true := by decide
theorem test_wordsS2 : readsAs 0 [
    (0x66517295, none, .cmpltu 21 10 11 37), (0x68517295, none, .cmple 21 10 11 37), (0x6A517295, none, .cmpleu 21 10 11 37),
    (0x6C5174B5, none, .cmpeqi 21 10 11 ⟨0xA5, none⟩), (0x6E5174B5, none, .cmplti 21 10 11 ⟨0xA5, none⟩), (0x70516295, none, .pand 21 10 11 5),
    (0x72516295, none, .por 21 10 11 5), (0x74516295, none, .pxor 21 10 11 5), (0x76516295, none, .pandn 21 10 11 5),
    (0x78516015, none, .pnot 21 10 11), (0x7A5164B5, none, .pbit 21 10 11 37), (0x815174B5, none, .ldb 21 42 11 ⟨0xA5, none⟩),
    (0x835174B5, none, .ldbz 21 42 11 ⟨0xA5, none⟩), (0x855174B5, none, .ldw 21 42 11 ⟨0xA5, none⟩), (0x875174B5, none, .ldwz 21 42 11 ⟨0xA5, none⟩),
    (0x895174B5, none, .ldd 21 42 11 ⟨0xA5, none⟩), (0x8B5174B5, none, .stb 21 42 11 ⟨0xA5, none⟩), (0x8D5174B5, none, .stw 21 42 11 ⟨0xA5, none⟩),
    (0x8F5174B5, none, .std 21 42 11 ⟨0xA5, none⟩), (0xA1FFFE15, none, .br 21 0xFFFF0), (0xA3FFFE15, none, .brl 21 0xFFFF0),
    (0xA4054015, none, .jmp 21 42), (0xA6054015, none, .jmpl 21 42), (0xA95014B5, none, .loop 21 42 0 ⟨0xA5, none⟩),
    (0xABFFFE15, none, .cloop 21 0xFFFF0), (0xAC000015, none, .region 21), (0xAE001875, (some 0xABCDE), .regionc 21 0xC3 0xABCDE),
    (0xB0001875, none, .endTask 21 0xC3), (0xB2000015, none, .yield 21), (0xB4001875, none, .trap 21 0xC3), (0xB6000015, none, .calsync 21),
    (0xC15000D5, none, .rdsr 21 42 0x6), (0xC20540D5, none, .wrsr 21 42 0x6), (0xC4000015, none, .sret 21), (0xC7517295, none, .tlbi 21 42 11 37 0)] = true := by decide
theorem test_wordsV1 : readsAs 1 [
    (0x035174B5, none, .vldRaw 21 42 11 ⟨0xA5, none⟩), (0x055174B5, none, .vldI32 21 42 11 ⟨0xA5, none⟩),
    (0x075174B5, none, .vldF32 21 42 11 ⟨0xA5, none⟩), (0x095174B5, none, .vldBf16 21 42 11 ⟨0xA5, none⟩),
    (0x0B5174B5, none, .vldFp8e4 21 42 11 ⟨0xA5, none⟩), (0x0D5174B5, none, .vldFp8e5 21 42 11 ⟨0xA5, none⟩),
    (0x0F5174B5, none, .vldFp4 21 42 11 ⟨0xA5, none⟩), (0x115174B5, none, .vldInt8 21 42 11 ⟨0xA5, none⟩),
    (0x135174B5, none, .vldRns 21 42 11 ⟨0xA5, none⟩), (0x155174B5, none, .vst 21 42 11 ⟨0xA5, none⟩), (0x17517295, none, .vlds 21 42 11 37 0),
    (0x19516035, none, .vbcst 21 42 11 1), (0x1B416B95, none, .vspill 21 40 11 23), (0x1D416B95, none, .vfill 21 40 11 23),
    (0x1F516E95, none, .vmovs 21 42 11 1 52), (0x21517295, none, .vmovv 21 42 11 37), (0x29516035, none, .vxor 21 42 11 .two),
    (0x2B516035, none, .vcopy 21 42 11 .two), (0x2D516035, none, .vaddrI32 21 42 11 .two), (0x2F516035, none, .vsubrI32 21 42 11 .two),
    (0x31500075, none, .vnegrI32 21 42 .eight), (0x33516035, none, .vrotl 21 42 11 .two), (0x35516035, none, .vswap 21 42 11 .two),
    (0x37517295, none, .vcswap 21 42 11 37 .one), (0x39516035, none, .vpermr 21 42 11 .two), (0x3B516035, none, .vrnsAdd 21 42 11 .two),
    (0x3D516035, none, .vrnsSub 21 42 11 .two), (0x3F500075, none, .vrnsNeg 21 42 .eight), (0x415005B5, none, .vrnsMulc 21 42 11 .two),
    (0x49517295, none, .vaddF32 21 42 11 37), (0x4B517295, none, .vsubF32 21 42 11 37), (0x4D517295, none, .vmulF32 21 42 11 37),
    (0x4F517295, none, .vfmaF32 21 42 11 37), (0x51517295, none, .vfmsF32 21 42 11 37), (0x53517295, none, .vminF32 21 42 11 37),
    (0x55517295, none, .vmaxF32 21 42 11 37)] = true := by decide
theorem test_wordsV2 : readsAs 1 [
    (0x57516015, none, .vabsF32 21 42 11), (0x59516015, none, .vnegF32 21 42 11), (0x5B517295, none, .vaddBf16 21 42 11 37),
    (0x5D517295, none, .vmulBf16 21 42 11 37), (0x5F517295, none, .vfmaBf16 21 42 11 37), (0x61517295, none, .vaddI32 21 42 11 37),
    (0x63517295, none, .vsubI32 21 42 11 37), (0x65517295, none, .vmulI32 21 42 11 37), (0x67517295, none, .vmulhI32 21 42 11 37),
    (0x69517295, none, .vand 21 42 11 37), (0x6B517295, none, .vor 21 42 11 37), (0x6D517295, none, .vandn 21 42 11 37),
    (0x6F517295, none, .vshlI32 21 42 11 37), (0x71517295, none, .vshrI32 21 42 11 37), (0x73517295, none, .vsraI32 21 42 11 37),
    (0x75517295, none, .vminI32 21 42 11 37), (0x77517295, none, .vmaxI32 21 42 11 37), (0x79517295, none, .vsel 21 42 11 37),
    (0x7B516015, none, .vmov 21 42 11), (0x7D516035, none, .vsplat 21 42 11 1), (0x80517295, none, .vcmpeqF32 21 10 11 37),
    (0x82517295, none, .vcmpltF32 21 10 11 37), (0x84517295, none, .vcmpleF32 21 10 11 37), (0x86517295, none, .vcmpunF32 21 10 11 37),
    (0x88517295, none, .vcmpeqI32 21 10 11 37), (0x8A517295, none, .vcmpltI32 21 10 11 37), (0x8C517295, none, .vcmpltuI32 21 10 11 37),
    (0x91517295, none, .vcvtBf16F32Rne 21 42 11 37), (0x93517295, none, .vcvtBf16F32Sr 21 42 11 37), (0x95516095, none, .vcvtF32Bf16 21 42 11 1),
    (0x97517295, none, .vcvtFp8e4F32Rne 21 42 11 37 0), (0x99517295, none, .vcvtFp8e4F32Sat 21 42 11 37 0),
    (0x9B517295, none, .vcvtFp8e4F32Sr 21 42 11 37 0), (0x9D517295, none, .vcvtFp8e4F32Srsat 21 42 11 37 0),
    (0x9F517295, none, .vcvtFp8e5F32Rne 21 42 11 37 0), (0xA1517295, none, .vcvtFp8e5F32Sat 21 42 11 37 0)] = true := by decide
theorem test_wordsV3 : readsAs 1 [
    (0xA3517295, none, .vcvtFp8e5F32Sr 21 42 11 37 0), (0xA5517295, none, .vcvtFp8e5F32Srsat 21 42 11 37 0),
    (0xA7516095, none, .vcvtF32Fp8e4 21 42 11 1), (0xA9516095, none, .vcvtF32Fp8e5 21 42 11 1), (0xAB517295, none, .vcvtFp4F32Rne 21 42 11 37 0),
    (0xAD517295, none, .vcvtFp4F32Sr 21 42 11 37 0), (0xAF516295, none, .vcvtF32Fp4 21 42 11 5), (0xB1516015, none, .vcvtI32F32Rne 21 42 11),
    (0xB3516015, none, .vcvtI32F32Rtz 21 42 11), (0xB5516015, none, .vcvtF32I32 21 42 11), (0xB7516035, none, .vcvtRnsI32 21 42 11 .two),
    (0xB9516015, none, .vcvtI32Rns 21 42 11), (0xBB517295, none, .vcvtInt8I32Sat 21 42 11 37 0), (0xBD52D295, none, .vqmxFp8e4 21 42 11 37 0),
    (0xBF52D295, none, .vqmxFp4 21 42 11 37 0), (0xC9516015, none, .vrsqaF32 21 42 11), (0xCB516015, none, .vrcpaF32 21 42 11),
    (0xCD516015, none, .vexp2aF32 21 42 11), (0xCF516015, none, .vlog2aF32 21 42 11), (0xD1516015, none, .vsqrtF32 21 42 11),
    (0xD3517295, none, .vdivF32 21 42 11 37), (0xD5516015, none, .vredaddF32 21 42 11), (0xD7516015, none, .vredmaxF32 21 42 11),
    (0xD9516015, none, .vredaddI32 21 42 11), (0xDB5164B5, none, .vbcastl 21 42 11 37), (0xDD517295, none, .vperm 21 42 11 37),
    (0xE1500015, none, .verase 21 42), (0xE3500135, none, .vretag 21 42 9), (0xE5516015, none, .vtagq 21 42 11)] = true := by decide
theorem test_wordsM1 : readsAs 2 [
    (0x0205CA15, none, .wldBf16 21 0 11 37 .one), (0x0405CA15, none, .wldFp8e4 21 0 11 37 .one), (0x0605CA15, none, .wldFp8e5 21 0 11 37 .one),
    (0x0805CA15, none, .wldFp4 21 0 11 37 .one), (0x0A05CA15, none, .wldInt8 21 0 11 37 .one), (0x0C05CA35, none, .wldt 21 0 11 37 .one 1),
    (0x0E000015, none, .wclr 21 0), (0x20B2E895, none, .mmaBf16 21 2 1 37 52 .two), (0x22B2E895, none, .mmaFp8e4 21 2 1 37 52 .two),
    (0x24B2E895, none, .mmaFp8e5 21 2 1 37 52 .two), (0x26B2E895, none, .mmaFp4 21 2 1 37 52 .two), (0x28B2E895, none, .mmaI8r 21 2 1 37 52 .two),
    (0x2AB2E895, none, .mmsI8r 21 2 1 37 52 .two), (0x40800015, none, .aclr 21 2), (0x4285CA15, none, .afillF32 21 2 11 37),
    (0x4485CA15, none, .afillRns 21 2 11 37), (0x46858015, none, .astat 21 2 11), (0x6085CA15, none, .drainF32 21 2 11 37),
    (0x6285CA15, none, .drainBf16 21 2 11 37), (0x64B2E835, none, .drainAdd 21 2 1 37 52 1), (0x66B2E835, none, .drainAddc 21 2 1 37 52 1),
    (0x6885CA15, none, .drainRns 21 2 11 37), (0x6A85CA15, none, .drainI32 21 2 11 37)] = true := by decide
theorem test_wordsC1 : readsAs 3 [
    (0x03516515, none, .cpyIn 21 42 11 5 0), (0x05516515, none, .cpyInx 21 42 11 5), (0x07516515, none, .cpyOut 21 42 11 5 0),
    (0x09516515, none, .cpyPeer 21 42 11 5 0), (0x0B516515, none, .cpyMc 21 42 11 5 0), (0x0D516515, none, .cpyT 21 42 11 5 0),
    (0x0F516515, none, .cpyFab 21 42 11 5 0), (0x11516515, none, .cpyRin 21 42 11 5 0), (0x13516515, none, .cpyHost 21 42 11 5 0),
    (0x21516015, none, .twany 21 42 11), (0x22054015, none, .twall 21 42), (0x25516015, none, .tfirst 21 42 11), (0x26054015, none, .tclr 21 42),
    (0x295164B5, none, .tstat 21 42 11 37), (0x2A000155, none, .qfence 21 0xA), (0x30500175, none, .rwait 21 10 11),
    (0x32500175, none, .rfree 21 10 11), (0x34501CB5, none, .radvp 21 10 3 37), (0x36500175, none, .radvc 21 10 11),
    (0x38516015, none, .rset 21 10 11), (0x38500035, none, .rsetUnconfigure 21 10), (0x41516015, none, .tlook 21 42 11),
    (0x43517295, none, .tins 21 42 11 37), (0x45516015, none, .tdel 21 42 11), (0x50054595, none, .lstW 21 42 11), (0x52054595, none, .lstD 21 42 11),
    (0x54054595, none, .lstv 21 42 11), (0x57500B15, none, .rel 21 42 11), (0x59516515, none, .acq 21 42 11 5), (0x5B516515, none, .acqs 21 42 11 5),
    (0x5D500B15, none, .phase 21 42 11), (0x61516515, none, .synAdd 21 42 11 5), (0x63516515, none, .synCas 21 42 11 5),
    (0x65516515, none, .synMin 21 42 11 5), (0x67516515, none, .synMax 21 42 11 5), (0x69516515, none, .synXch 21 42 11 5)] = true := by decide
theorem test_wordsC2 : readsAs 3 [
    (0x6B516515, none, .synLd 21 42 11 5), (0x6D516515, none, .synPost 21 42 11 5), (0x6F516515, none, .synWait 21 42 11 5),
    (0x71516515, none, .synBar 21 42 11 5), (0x80054B15, none, .fork 21 42 11), (0x82054015, none, .grwd 21 42), (0x84000015, none, .gbar 21),
    (0x86054015, none, .gcancel 21 42), (0x88000015, none, .gquit 21), (0x8A000A15, none, .gstat 21 10), (0x91500B15, none, .publish 21 42 11),
    (0x92054B15, none, .launch 21 42 11), (0x94054015, none, .cancel 21 42)] = true := by decide

/-- The M syllable of R49's example, and the same with an unused field set; the reserved major 0 with a bit set; a literal without an
owner, and two in a row. -/
theorem test_words_refused : decodeSyl 2 0x22A51689 none = some (.mmaFp8e4 9 2 1 10 11 .two) ∧ decodeSyl 2 0x22A516A9 none = none ∧
    decodeSyl 0 1 none = none ∧ decodeBundle (0x00000000_FE000001_00000000_00000000#128) = .error 2 ∧
    decodeBundle (0x00000000_FE000001_FE000001_40000000#128) = .error 1 ∧ decodeBundle (0#128) = .ok ⟨.nop, .nop, .nop, .nop⟩ := by decide
theorem test_encode : encode (.mmaFp8e4 9 2 1 10 11 .two) = some ⟨2, 0x22A51689, none⟩ ∧
    encode (.cpyIn 0 5 12 10 1) = some ⟨3, 0x02298A20, none⟩ := by decide

/-! ### States -/

/-- Reset with core 0 as a function makes it. -/
def at0 (f : Core → Core) : State := State.reset.onCore 0 f
/-- A core with scalars. -/
def regs (l : List (SReg × Word)) (c : Core) : Core := c.onCtx fun x => l.foldl (fun x p => x.setS p.1 p.2) x
/-- A core with a vector register. -/
def vec (d : VReg) (t : Tag) (b : Line) (c : Core) : Core := c.onCtx fun x => { x with v := x.v.set d ⟨b, t⟩ }
/-- A core with predicates. -/
def preds (l : List (PReg × Word)) (c : Core) : Core := c.onCtx fun x => l.foldl (fun x p => { x with p := x.p.set p.1 p.2 }) x
/-- A core with one granted pitch. -/
def pitched (c : Core) : Core := c.onCtx fun x => { x with pitch := [0] }
/-- A region at address 0. -/
def region0 : Region := Region.fresh 0 Ctx.reset none
/-- A core that runs task 65536 in one region. -/
def runs (c : Core) : Core := ((pitched c).onSpr fun x => { x with tid := 65536 }).onRun fun r =>
  { r with phase := .running, regions := [region0], nextRegion := 1, openNext := false }
/-- A core at supervisor privilege. -/
def priv (c : Core) : Core := c.onSpr fun x => { x with priv := true }
/-- A core with tag t. -/
def tag (t : TagId) (v : CTag) (c : Core) : Core := c.onCtx fun x => { x with tags := x.tags.set t v }
/-- The state after a meaning. -/
def after (o : Out) : State :=
  match o with
  | .next t => t
  | _ => State.reset
/-- What is in flight after a meaning. -/
def flown (o : Out) : List Landing := (after o).core.run.flights.map (·.land)
/-- The trap a meaning raises. -/
def caused (o : Out) : Option (Cause × Fin 4) := (after o).core.run.trap.map fun t => (t.cause, t.pos)

/-- A launch, its task on core 0, a group of it and a log of it. -/
def launch0 : Launch := ⟨1, recOf 0, ⟨0, 0, 0, 0⟩, 0, 0, false, false, false⟩
def task0 : Task :=
  { tid := 65536, born := 1, launch := 1, core := 0, area := 0, stand := .onCore, pitches := [], horizon := 1, horizons := [], group := 0, cancel := false
    order := 0, cycle := 0, code := 0, forks := 0, seeds := [], sent := none, cmds := [], status := 0, held := [], faulted := false }
def command (k : EffKind) (a b c : Word) (image : Line) : EffCmd := ⟨0, k, some 3, a, b, c, image⟩
def group0 : Group := { newGroup 0x80000000 1 0 65536 (command .fork 0 0 0 0) with n := 2, slots := [.pending, .deposited 5], placed := true }
def log0 : Log := ⟨65536, 1, 1, some 0, 65536, 0, 0, [], 0, 0⟩
def busy : State :=
  { at0 runs with tasks := [task0], launches := [launch0], groups := [group0], logs := [log0], arg := .core 0, seq := 9 }
/-- The same with a command sent. -/
def sends (e : EffCmd) : State := busy.onCore 0 fun c => c.onRun fun r => { r with sent := some e }
/-- A copy command. -/
def copy0 : Cmd :=
  { (at0 runs).core.newCmd .cin (some 3) (some 1) 0 0 0 with
    planned := true, phase := .running, size := 32
    atoms := [{ (Walk.atom ⟨0, 0, 0⟩ 0) with role := .bytes, owned := true, moves := [(0, 0)], slips := 2, slipped := true }] }
/-- The same state with copies. -/
def copying (l : List Cmd) : State := busy.onCore 0 fun c => c.onRun fun r => { r with copies := l }
/-- A step of the device due on an argument. -/
def given (a : StepArg) : State := { busy with arg := a }
/-- A master's write while port 2 owns the device and the links are up. -/
def written (off : Nat) (v : Word) : State :=
  { State.reset with arg := .write 2 off v, ready := true, mgmt := { Mgmt.reset with owned := true, owner := 2, links := BitVec.allOnes 20 } }

/-! ### Single steps, worked out from the rules -/

theorem test_add_wraps : flown (exec (.add 0 3 1 2) (at0 (regs [(1, -1), (2, 2)]))) = [.scalar 3 1] := by decide
theorem test_div_rem : flown (exec (.div 0 3 1 2) (at0 (regs [(1, -7), (2, 2)]))) = [.scalar 3 (-3)] ∧
    flown (exec (.rem 0 3 1 2) (at0 (regs [(1, -7), (2, 2)]))) = [.scalar 3 (-1)] := by decide
theorem test_false_guard : exec (.add 1 3 1 2) (at0 id) = .next (at0 id) := by
  exact State.syl_false (by decide)
theorem test_lih : flown (exec (.lih 0 3 ⟨0x3FFF, none⟩) (at0 (regs [(3, 0xFFFFFFFF00000001)]))) = [.scalar 3 0x3FFF00000001] := by decide
theorem test_cmplt_signed : flown (exec (.cmplt 0 3 1 2) (at0 (regs [(1, -1), (2, 0)]))) = [.pred 3 0xFFFFFFFFFFFFFFFF 0xFFFFFFFFFFFFFFFF] := by
  decide
theorem test_ldw_bounds : caused (exec (.ldw 0 3 1 ⟨0, none⟩) (at0 (pitched ∘ regs [(1, 65534)]))) = some (.bounds, 0) ∧
    caused (exec (.ldw 0 3 1 ⟨0, none⟩) (at0 (pitched ∘ regs [(1, 65530)]))) = some (.align, 0) := by decide
theorem test_jmp_align : caused (exec (.jmp 0 1) (at0 (regs [(1, 8)]))) = some (.align, 0) := by decide
theorem test_trap : caused (exec (.trap 0 7) (at0 id)) = some (.trapInstr, 0) := by decide
theorem test_vxor_self_zero : flown (exec (.vtagq 0 3 5) (at0 (vec 5 .rns 0))) = [.scalar 3 9] := by decide
theorem test_priv_needed : caused (exec (.rdsr 0 3 0x10) (at0 id)) = some (.priv, 0) ∧
    caused (exec (.wrsr 0 1 0x0E) (at0 priv)) = some (.illegal, 0) := by decide
theorem test_hpat_at_once : (after (exec (.wrsr 0 1 0x1A) (at0 (priv ∘ regs [(1, 0x0D)])))).hpat[2] = 0x0D := by decide
theorem test_claim_refused : (after (exec .claim (written 0x08 0x01FF))).evcount = 1 := by decide
theorem test_handover : (after (exec .handover (written 0x10 5))).mgmt.succ = 5 := by decide
theorem test_syn_add : (after (exec .weirOperation (sends (command .synAdd 0 0 7 0)))).sync = [(0, 7)] := by decide

/-- SHAKE-256 of "abc", the message being three bytes with the first lowest: its first 64 bytes as FIPS 202 gives them, worked out outside the
model. -/
theorem test_shake : shake256 3 0x636261 =
    0xE451E70188BD06EB4F2AA162E426879FAA1F7E52C04457C786536A18EF5BA1D539578BE737EA944FEEE1F1F83045B48D4D11C40C0863681C77A8601360663348 := by
  decide +kernel

/-- The first step after reset with a placed word runs it: ADD s42, s11, s37 under p21 does nothing, under p0 it is in flight, and TICK rises. -/
theorem test_fetch : flown (step (State.reset.withFetchWord 32 0x03517295)) = [] ∧
    flown (step (State.reset.withFetchWord 32 0x03517280)) = [.scalar 42 0] ∧
    (after (step (State.reset.withFetchWord 32 0x03517280))).cores[0].ctx.x.tick = 1 := by decide

/-! ### States that meet the hypotheses of the statements, clause by clause where the clauses are the statement's own -/

/-- p0 reads all ones, so a syllable under it acts. -/
theorem wit_guard : (at0 id).core.g0 0 = true ∧ (at0 id).core.g0 1 = false := by decide
theorem wit_ScalarIntegerResults : (at0 id).core.g0 0 = true := by decide
theorem wit_DivisionResults : (let s := at0 (regs [(1, 0x8000000000000000), (2, 0xFFFFFFFFFFFFFFFF)])
    s.core.g0 0 = true ∧ s.core.s 0 = 0 ∧ s.core.s 2 ≠ 0 ∧ s.core.s 1 = 0x8000000000000000 ∧ s.core.s 2 = 0xFFFFFFFFFFFFFFFF) := by decide
theorem wit_CompareResults : (at0 id).core.g0 0 = true := by decide
theorem wit_PredicateForms : (at0 id).core.g0 0 = true := by decide
theorem wit_ScalarMemoryForms : (let c (x : Word) := (at0 (pitched ∘ regs [(1, x)])).core
    let bad := (at0 fun c => { pitched c with sram := { c.sram with poison := [255] } }).core
    (c 65535).s 1 + 1 = 65536 ∧ (c 0).granted = 65536 ∧ (c 0).g0 0 = true ∧ (c 0).poisonAt 65528 = false ∧ bad.poisonAt 65528 = true ∧
      (65528 : Nat) % 8 = 0 ∧ (65529 : Nat) % 8 ≠ 0 ∧ 65528 + 8 ≤ (c 0).granted ∧ ¬ (65529 + 8 ≤ (c 0).granted)) := by decide
theorem wit_ScalarMemoryForms_store : (let c := (at0 (pitched ∘ regs [(1, 65528)])).core
    c.g0 0 = true ∧ (c.s 1).toNat + 8 = c.granted ∧ (c.s 1).toNat % 8 = 0) := by decide
theorem wit_BranchForms : (let c := (at0 (regs [(1, 32), (2, 40)])).core
    c.g0 0 = true ∧ (c.s 1).toNat % 16 = 0 ∧ (c.s 2).toNat % 16 ≠ 0) := by decide
theorem wit_LoopForms : (let c := (at0 (runs ∘ regs [(1, 0x100000000), (2, 0x100000001)])).core
    c.g0 0 = true ∧ c.ctx.x.lstg.getLsbD 7 = false ∧ c.run.regions = [region0] ∧ region0.looped = false ∧ (c.s 1).toNat = 2 ^ 32 ∧
      (c.s 2).toNat > 2 ^ 32) := by decide
theorem wit_LoopForms_busy : (at0 fun c => (runs c).onSpr fun x => { x with lstg := 0x80 }).core.ctx.x.lstg.getLsbD 7 = true := by decide
theorem wit_LoopForms_passes : (let c (n : BitVec 32) (e : BitVec 8) := (at0 fun c => c.onSpr fun x => { x with lcnt := n, lstg := e }).core
    let d := (c 1 0x82).onRun fun r => { r with preempt := true }
    let d0 := (c 1 0x80).onRun fun r => { r with cancel := true }
    (c 0 0).run.preempt = false ∧ (c 0 0).run.cancel = false ∧ (c 0 0).g0 0 = true ∧ (c 0 0).g0 1 = false ∧ (c 1 0x80).ctx.x.lcnt ≠ 0 ∧
      (c 0 0x81).ctx.x.lstg.extractLsb' 0 6 ≠ 0 ∧ (c 0 0x80).ctx.x.lstg.extractLsb' 0 6 = 0 ∧
      (d.run.preempt = true ∧ d.run.drain = none ∧ d.ctx.x.lstg.getLsbD 7 = true ∧ d.ctx.x.lcnt ≠ 0 ∧ d.ctx.x.lstg.extractLsb' 0 6 ≠ 0) ∧
      d0.run.cancel = true ∧ d0.run.drain = none ∧ d0.ctx.x.lstg.getLsbD 7 = true ∧ d0.ctx.x.lstg.extractLsb' 0 6 = 0) := by decide
theorem wit_SpecialRegisterAccess : (let t := (at0 (regs [(1, 0x0D), (2, 0x01)])).core
    let v := (at0 (priv ∘ regs [(1, 0x0D)])).core
    t.g0 0 = true ∧ t.ctx.x.priv = false ∧ v.ctx.x.priv = true ∧ srBad 0x1F (v.s 1) = false ∧ srBad 0x19 (t.s 2) = true ∧ srBad 0x06 (t.s 1) = false ∧
      srBad 0x10 0 = false ∧ srBad 0x03 0x100000000 = true) := by decide
theorem wit_SystemForms : (let s := at0 (priv ∘ pitched)
    s.core.g0 0 = true ∧ calNext s.now s.cur = 0 ∧ calNext (1 : Nat) s.cur ≠ 0 ∧ s.core.ctx.x.priv = true ∧ s.core.inBounds 8 8 = true ∧
      s.core.poisonAt 8 = false ∧ s.core.load 8 8 = 0 ∧ (at0 id).core.ctx.x.priv = false) := by decide
/-- A head of level 0 that is ready and finds no core, since its record asks for 384 and one is busy. -/
theorem wit_SystemForms_yield : (let q : Queue := { State.reset.queues[0] with slots := State.reset.queues[0].slots.set 0 (384 <<< 64), tail := 1, ready := true }
    let s := { busy with ready := true, queues := State.reset.queues.set 0 q }
    s.core.ctx.x.lstg.getLsbD 7 = false ∧ s.core.ctx.x.grp = 0 ∧ s.core.run.cancel = false ∧
      s.wantsCore (((s.launchOn s.cur).map (·.lrec.prio)).getD 0) = true) := by decide +kernel
theorem wit_ShootdownSent : (let t := (at0 (regs [(3, 0x10000)])).core
    t.g0 0 = true ∧ tlbiBad 0 0 0 0 = true ∧ tlbiBad 0 (t.s 0) (t.s 0) (t.s 3) = false ∧ tlbiBad 2 0 0 0 = false ∧ t.ctx.x.priv = false ∧
      (at0 priv).core.ctx.x.priv = true) := by decide
theorem wit_PartialWriteTags : Tag.i32 ≠ .poison ∧ Tag.f32 ≠ .clean ∧ Tag.f32 ≠ .i32 ∧ Tag.f32 ≠ .poison := by decide
/-- The guards and the tags that the clauses of vecLands and of revLands divide by. -/
theorem wit_vecLands : (let c := (at0 (vec 5 .f32 1 ∘ preds [(1, 1)])).core
    c.pr 0 ≠ 0 ∧ c.pr 2 = 0 ∧ c.pr 1 = 1 ∧ writeTag (c.vr 5).tag .i32 (laneMask (c.pr 1) == allBits) false = none ∧
      writeTag (c.vr 5).tag .i32 true false = some .i32) := by decide
theorem wit_VectorMoveResults : (let c := (at0 (vec 5 .poison 1)).core
    (c.pr 0).getLsbD 0 = true ∧ (c.pr 1).getLsbD 0 = false ∧ (c.vr 5).tag = .poison ∧ (c.vr 6).tag ≠ .poison) := by decide
theorem wit_VectorMoveResults_erase : (let c := (at0 (vec 5 .poison 1 ∘ vec 6 .i32 1)).core
    c.pr 0 ≠ 0 ∧ c.pr 1 = 0 ∧ (c.vr 7).tag = .clean ∧ (c.vr 5).tag = .poison ∧ (c.vr 6).tag = .i32) := by decide
theorem wit_TagQuery : (let c (t : Tag) := (at0 (vec 5 t 1)).core
    (c .i32).pr 0 ≠ 0 ∧ (c .i32).pr 1 = 0 ∧ ∀ t ∈ [Tag.clean, .raw, .i32, .f32, .bf16, .fp8e4, .fp8e5, .fp4, .int8, .rns, .poison],
      ((c t).vr 5).tag = t) := by decide
theorem wit_VectorCompares : (let c := (at0 (vec 5 .poison 1 ∘ vec 6 .i32 1 ∘ vec 7 .f32 1)).core
    c.pr 0 ≠ 0 ∧ c.pr 1 = 0 ∧ (c.vr 5).tag = .poison ∧ (c.vr 6).tag = .i32 ∧ (c.vr 7).tag = .f32 ∧ (c.vr 8).tag = .clean) := by decide
theorem wit_StochasticConversions : (let c := (at0 (vec 6 .i32 1 ∘ vec 7 .f32 1)).core
    c.run.trap = none ∧ c.pr 0 ≠ 0 ∧ (c.vr 7).tag = .f32 ∧ (c.vr 6).tag = .i32 ∧ writeTag .clean .fp4 false false ≠ none ∧
      writeTag .i32 .fp4 false false = none) := by decide
theorem wit_BlockQuantisation : (let c := (at0 (vec 6 .f32 1)).core
    c.run.trap = none ∧ c.pr 0 &&& 0xFFFFFFFF00000000 ≠ 0 ∧ (c.vr 6).tag = .f32 ∧ (c.vr 7).tag = .clean ∧
      (at0 (preds [(1, 1)])).core.pr 1 &&& 0xFFFFFFFF00000000 = 0) := by decide
theorem wit_ReversibleForms : (let c := (at0 (vec 5 .rns 1 ∘ vec 6 .i32 1 ∘ vec 7 .raw 1)).core
    (c.vr 5).tag = .rns ∧ (c.vr 6).tag = .i32 ∧ (c.vr 7).tag = .raw ∧ (c.vr 8).tag = .clean ∧ c.pr 0 = allLanes ∧ c.pr 1 = 0 ∧
      (∀ i ∈ [0, 1, 63], rnsCanon (lane (c.vr 5).bits i) = true) ∧ mulcOk ((toRns 1).setWidth 64) = true ∧ isPermutation (ofLanes fun i => BitVec.ofNat 32 i) = true) := by
  decide +kernel
theorem wit_ExchangeAndCopyForms : (let c := (at0 (vec 5 .rns 1 ∘ vec 6 .rns 2 ∘ vec 7 .i32 1 ∘ vec 9 .poison 0 ∘ preds [(2, 5)])).core
    c.pr 0 ≠ 0 ∧ c.pr 1 = 0 ∧ c.pr 2 ≠ 0 ∧ c.pr 2 ≠ allLanes ∧ c.pr 0 = allLanes ∧ (c.vr 5).tag = (c.vr 6).tag ∧ (c.vr 5).tag ≠ .clean ∧
      (c.vr 8).tag = .clean ∧ (c.vr 7).tag = .i32 ∧ (c.vr 9).tag = .poison ∧ c.pr 0 &&& nonZeroLanes (c.vr 7).bits ≠ 0 ∧
      c.pr 0 &&& nonZeroLanes (c.vr 8).bits = 0) := by decide +kernel
theorem wit_VectorLoads : (let c := (at0 pitched).core
    let l := (execLanes (c.pr 0)).map fun k => 65280 + 4 * k
    (∀ e ∈ l, e < 0x400000 ∧ e + 4 ≤ c.granted ∧ e % 4 = 0) ∧ 65532 + 4 ≤ c.granted ∧ ¬ (65533 + 4 ≤ c.granted) ∧ 65533 % 4 ≠ 0) := by decide
theorem wit_VectorStoresAndSpills : (let c := (at0 (pitched ∘ regs [(1, 65280), (2, 0xFFFFFFFFFF00), (3, 1 <<< 48), (4, 255)])).core
    c.pr 0 ≠ 0 ∧ c.pr 1 = 0 ∧ (∀ e ∈ (execLanes (c.pr 0)).map fun k => (c.s 1).toNat + 4 * k, e < 0x400000 ∧ e + 4 ≤ c.granted) ∧
      (c.s 2).toNat % 256 = 0 ∧ (c.s 2).extractLsb' 48 16 = 0 ∧ (c.s 3).extractLsb' 48 16 ≠ 0 ∧ (c.s 4).toNat % 256 ≠ 0) := by decide
/-- Operands of the M forms on the matrix unit at rest: 128 rows at line 0, no scales; and what holds the unit. -/
theorem wit_matrixForms : (let c := (at0 (runs ∘ regs [(1, 0), (2, 128)])).core
    let d := descOf (c.s 2)
    c.g0 0 = true ∧ d.rows = 128 ∧ d.off = 0 ∧ d.swz = 0 ∧ d.high = false ∧ (c.msrc (c.s 1)).ring = false ∧ (c.msrc (c.s 1)).illegal = false ∧
      (c.msrc (c.s 1)).outside = false ∧ (∀ i ∈ tilesOf 0 128, c.ctx.a[i].tag = .clean) ∧ (c.mheld fun _ _ => true) = false) := by decide
theorem wit_matrixForms_held : ((after (exec (.aclr 0 0) (at0 runs))).core.mheld fun o n => o.pendsTile n 0) = true := by decide
theorem wit_DrainAddForms : (let s := (at0 (runs ∘ regs [(2, 1)]))
    let two := s.onCore 0 fun c => c.onRun fun r => { r with regions := [{ region0 with drainAdd := true }], drainBuf := some ⟨0, false, 0, 1, 1, 0, 1, [], 0⟩ }
    s.core.run.trap = none ∧ s.core.run.frozen = [] ∧ s.core.run.drainBuf = none ∧ s.core.run.regions = [region0] ∧ region0.drainAdd = false ∧
      s.cores[0].run.phase = .running ∧ s.cores[0].inBounds 0 512 = true ∧ (descOf (s.core.s 2)).rows = 1 ∧
      two.core.run.drainBuf ≠ none ∧ ∃ r l, two.core.run.regions = r :: l ∧ r.drainAdd = true) := by
  exact ⟨by decide, by decide, by decide, by decide, by decide, by decide, by decide, by decide, by decide, _, _, rfl, rfl⟩
/-- Operands of the C forms: a pair of scratchpad addresses with a tag that is idle, one that is pending and one that is complete. -/
theorem wit_CopyForms : (let c := (at0 (pitched ∘ tag 3 ⟨.pending, 0x8000⟩ ∘ regs [(1, 0x3FFF00), (4, 0), (6, 0x8000000000000005)])).core
    c.g0 0 = true ∧ (c.s 1).toNat < 0x400000 ∧ (c.s 1).toNat % 256 = 0 ∧ (c.s 5).extractLsb' 32 32 = 0 ∧ c.ctx.tags[3].st = .pending ∧
      c.ctx.tags[4].st = .idle ∧ (c.s 6).getLsbD 63 = true ∧ (c.s 6).extractLsb' 4 59 = 0 ∧ c.ctx.h[5] = none) := by decide
theorem wit_CopyForms_rin : (let r := ringOf 0
    let c := (at0 fun c => c.onCtx fun x => { x with h := x.h.set 5 (some r) }).core
    c.ctx.h[5] = some r ∧ r.free ≠ 0) := by decide
/-- An operation of each kind on the matrix unit, at the clock at which it samples or lands. -/
theorem wit_MatrixLandings : (let c := (at0 runs).core
    let o (k : MKind) (rows : Nat) : MOp := { c.mop k 2 rows with dlines := 1, live := [true], lines := [(0, false)], out := [(0, 0)] }
    c.run.mcycle = 0 ∧ (o (.mma .i8add 0 0) 8).start + 2 * (0 + 130) = 260 ∧ (o (.wld 0 .int8) 1).live.getD 0 false = true ∧
      (o (.wld 0 .int8) 1).start + 2 * (127 + 1) - 1 = 255 ∧ (o (.afill true 0) 129).start + 128 + 5 = 133 ∧
      (o (.wldt 0 .int8) 1).last ≠ 0 ∧ (o (.wclr 0) 0).last ≠ 0 ∧ (o (.aclr 0) 0).last ≠ 0 ∧ (o (.astat 3 0) 0).last ≠ 0 ∧
      (o (.drain .rns 0 0) 1).start + 0 + 5 = 5 ∧ c.ctx.a[0].tag ≠ .poison ∧ c.run.drainBuf = none ∧
      c.run.regions = [region0] ∧ region0.id = (o (.mma .bf16 0 0) 8).region ∧ MmaFmt.bf16.isI8 = false) := by decide
/-- A poisoned line met when one of two rows of an MMA has landed, with a second operation in the unit. -/
theorem wit_MatrixLandings_late : (let c := (at0 runs).core
    let o : MOp := { c.mop (.mma .i8add 0 0) 2 2 with dlines := 2, live := [true, true] }
    let x : Core := c.onRun fun r => { r with mops := [o, c.mop (.aclr 1) 1 0] }
    0 < o.ramp ∧ o.poison = false ∧ ({ o with poison := true } : MOp).poison = true ∧ 0 < o.rows ∧ o.start + o.ramp * (0 + 130) < 261 ∧
      (tileRow 0 0).1 = (0 : TileId) ∧ (tileRow 0 0).1 ≠ (1 : TileId) ∧ x.run.mops[1]? = some (c.mop (.aclr 1) 1 0)) := by decide
theorem wit_TagForms : (let c := (at0 (tag 3 ⟨.pending, 0x8000⟩ ∘ tag 4 ⟨.complete, 0⟩ ∘ regs [(1, 8), (2, 16), (3, 24), (4, 32)])).core
    c.g0 0 = true ∧ c.ctx.ctb = 16 ∧ c.ctx.ctb &&& c.s 1 = 0 ∧ c.ctx.ctb &&& c.s 2 = c.s 2 ∧ c.ctx.ctb &&& c.s 3 ≠ c.s 3 ∧
      c.ctx.tags[5].st = .idle ∧ (c.s 4).getLsbD 5 = true ∧ c.ctx.tags[3].st = .pending ∧ (c.s 1).getLsbD 3 = true) := by decide
theorem wit_TagForms_fence : (let c := (copying [copy0]).core
    (c.run.copies.filter fun k => (k.queue.map fun q => (2#4).getLsbD q.val).getD false).map (·.id) = [0]) := by decide
theorem wit_RingForms : (let r : Ring := ⟨0, 1, 4, 2, 0, 2, 3, 1, [0, 0, 0, 0], [false, false, false, false]⟩
    let c := (at0 fun c => (pitched c).onCtx fun x => { x with h := x.h.set 5 (some r) }).core
    c.g0 0 = true ∧ c.ctx.h[5] = some r ∧ c.ctx.h[4] = none ∧ r.count < 5 ∧ 2 ≤ r.fill ∧ r.fill < 3 ∧ 2 ≤ r.free ∧ r.free < 3 ∧ r.reserved = 0 ∧
      r.stamps.length = r.count ∧ 256 * 256 ≤ c.granted) := by decide
theorem wit_TagTableForms : (let c := (at0 fun c => (runs c).onRun fun r => { r with tagTable := [(0, 0x8000000000000000)] }).core
    c.g0 0 = true ∧ wayGet c.tagView 0 = 0x8000000000000000 ∧ wayGet c.tagView 1 = 0 ∧ (0xFFF#64).extractLsb' 12 52 = 0 ∧
      (0x1000#64).extractLsb' 12 52 ≠ 0) := by decide
theorem wit_LoggedStoreForms : (let s := busy
    let full := { s with logs := [{ log0 with size := 0 }] }
    s.core.g0 0 = true ∧ log0.fits s.core.pendingRecs ⟨2, 0, 0⟩ = true ∧ full.logOf s.core.ctx.x.tid = some { log0 with size := 0 } ∧
      Log.fits { log0 with size := 0 } s.core.pendingRecs ⟨2, 0, 0⟩ = false ∧ (at0 (vec 5 .poison 1)).core.vr 5 = ⟨1, .poison⟩) := by decide +kernel
theorem wit_SyncForms : (let c := (at0 (runs ∘ regs [(1, 7), (4, 65528), (5, 1)])).core
    c.g0 0 = true ∧ c.run.effects.length < 32 ∧ (c.s 1).extractLsb' 32 32 = 0 ∧ c.inBounds (c.s 4).toNat 8 = true ∧ (c.s 4).toNat % 8 = 0 ∧
      c.s 5 ≠ 0 ∧ c.ctx.tags[3].st = .idle) := by decide
theorem wit_SyncForms_full : (let e := command .synLd 0 0 0 0
    let c := (at0 fun c => c.onRun fun r => { r with
      effects := List.replicate 32 e }).core
    32 ≤ c.run.effects.length) := by decide
/-- A result word's address in a granted pitch that is not aligned raises ALIGN, though its last bytes lie outside (R243). -/
theorem test_result_word_align : caused (exec (.synLd 0 3 1 2) (at0 (runs ∘ regs [(1, 7), (4, 65532)]))) = some (.align, 3) ∧
    caused (exec (.synLd 0 3 1 2) (at0 (runs ∘ regs [(1, 7), (4, 65536)]))) = some (.bounds, 3) := by decide
/-- A launch word's address is bounded alone, and aligned after that (R264). -/
theorem test_launch_align : caused (exec (.launch 0 4 3) (at0 (runs ∘ regs [(4, 65532)]))) = some (.align, 3) ∧
    caused (exec (.launch 0 4 3) (at0 (runs ∘ regs [(4, 65536)]))) = some (.bounds, 3) := by decide
/-- A multiplication behind a copy into its register stays done where the copy is undone; with an exchange between the two it is taken
back, since the exchange gives its register what it wrote (R104, R105). -/
theorem test_taken_back : (let w (t : Tag) (fj : Option Nat) : Landed := ⟨.vreg 40 (BitVec.allOnes 2048) 0 t, fj⟩
    (takenBack [] [w .clean (some 1), w .clean none]).length = 1 ∧
      (takenBack [] [w .clean (some 1), w .f32 (some 1), w .clean none]).length = 3) := by decide
theorem wit_GroupForms : (let c := (at0 fun c => { runs c with sram := { c.sram with bytes := [(8, 2)] } }).core
    c.g0 0 = true ∧ c.ctx.x.grp = 0 ∧ c.ctx.groupFlag = .none ∧ c.inBounds 0 64 = true ∧ c.inBounds 0 520 = true ∧ forkBad (c.forkImage 0) = false) ∧
    (at0 fun c => c.onSpr fun x => { x with grp := 1 }).core.ctx.x.grp ≠ 0 ∧
    (at0 fun c => c.onCtx fun x => { x with groupFlag := .opened }).core.ctx.groupFlag = .opened := by decide +kernel

theorem wit_FalseGuards : (∀ i ∈ ([.add 1 2 3 4, .aclr 1 2, .twall 1 2, .rel 1 2 3] : List Instr), i.wf = true ∧
      ((encode i).map fun w => (w.pos != 1, Fin.ofNat 32 w.syl.toNat)) = some (true, (1 : PReg))) ∧ (at0 id).core.g0 1 = false := by decide

/-! ### The steps of the device -/

/-- A memory in which space 0 maps its first GiB, writable and exposed to the host. -/
def mapped (s : State) : State :=
  { s with
    hbm := [(0x1001, 0x20), (0x1007, 0x80), (0x2001, 0x30), (0x2007, 0x80), (0x3006, 0x40), (0x3007, 0xE0)]
    mgmt := { s.mgmt with astbase := 0x1000, spbase := 0x100000, spctl := 8 } }

theorem wit_CoreClockSteps : (given (.fetch 0 0)).cores[0].run.phase ≠ .idle ∧
    (let s := mapped busy
     let sp : Space := ⟨0, 0x2000, 0, 0⟩
     s.spaceOf 0 = some sp ∧ (s.resolve sp true .read 0x3FFFFFFF).toOption.map (·.dpa) = some 0x3FFFFFFF ∧
      (s.resolve sp true .read 0x40000000).toOption = none ∧ (2 : Nat) ^ 48 ≤ 2 ^ 48 ∧ (2 : Nat) ^ 48 - 16 < 2 ^ 48) ∧
    (let x : Shoot := ⟨4, 0, 0, none, 0, 1, []⟩
     ({ busy with shoots := [x] } : State).shoots.find? (·.id == 4) = some x ∧ busy.shoots.find? (·.id == 4) = none ∧
      ({ x with waits := [(1, 2)] } : Shoot).waits ≠ [] ∧ ∃ y ∈ [(⟨0, 0, [4], 0, 0, 1, 0, 3⟩ : Inbound)], 4 ∈ y.shoots) ∧
    (busy.cores[0].clk.period + (busy.now - busy.cores[0].clk.edge)) ∉ busy.cores[0].clk.ctl ∧
    busy.isles[50].asked.getLast?.or busy.isles[50].old.getLast? ≠ some (busy.now - busy.isles[50].taken) := by decide +kernel
theorem wit_CommitSteps : (let r := { region0 with closed := true }
    let s := busy.onCore 0 fun c => c.onRun fun x => { x with regions := [r] }
    let b : DrainBuf := ⟨5, false, 0, 1, 65536, 0, 1, [(0, 0, false)], 0⟩
    let t := busy.onCore 0 fun c => c.onRun fun x => { x with effects := [command .launch 0 1 0 0], drainBuf := some b }
    s.arg = .core 0 ∧ s.cores[0].run.regions = [r] ∧ s.cores[0].pendingOf r = false ∧ s.cores[0].run.phase = .running ∧ s.cores[0].run.trap = none ∧
      r.checked = none ∧ (0xFFFFFFFF#32) ≠ r.observed ∧ busy.cores[0].run.regions.getLast? = some region0 ∧ region0.closed = false ∧
      t.cores[0].run.sent = none ∧ t.cores[0].addsDue = true ∧ busy.cores[0].addsDue = false ∧ t.queues[1].count ≠ 63) := by decide +kernel
/-- A LAUNCH and a CANCEL at the distributor, with room in the queue and without. -/
theorem wit_CommitSteps_arrive : (let s (k : EffKind) : State := { sends (command k 0 1 0 0) with arg := .arrive 65536 1 }
    let full : State := { s .launch with queues := State.reset.queues.set 1 { State.reset.queues[1] with tail := 63 } }
    (s .launch).taskOf 65536 = some task0 ∧ (s .launch).sentOf task0 = some (command .launch 0 1 0 0) ∧ (s .cancel).sentOf task0 = some (command .cancel 0 1 0 0) ∧
      (∀ x ∈ (s .launch).agenda, x.2.bare ≠ .dev .effectCommandSend (s .launch).arg) ∧ (s .launch).queues[1].count ≠ 63 ∧ full.queues[1].count = 63) := by
  decide +kernel
theorem wit_TrapSteps : (let z : Trap := ⟨.bounds, 0, 0, some 0, none, 0, 0, 0, .normal⟩
    let s (f : Spr → Spr) := busy.onCore 0 fun c => ((c.onSpr f).onRun fun r => { r with phase := .trapping, trap := some z })
    let t := s fun x => { x with tvec := 0x100, trec := 0xFFC0 }
    t.cores[0].run.phase = .trapping ∧ t.cores[0].run.trap = some z ∧ z.region = some region0.id ∧ t.cores[0].run.regions = [] ++ [region0] ∧
      (t.cores[0].run.regions.map (·.id)).Nodup ∧ t.cores[0].run.regions.flatMap (·.landed) = [] ∧ t.cores[0].run.regions.flatMap (·.rings) = [] ∧
      t.cores[0].run.copies = [] ∧ t.cores[0].run.sent = none ∧ t.cores[0].run.cancel = false ∧
      t.cores[0].ctx.x.tvec ≠ 0 ∧ t.cores[0].inBounds t.cores[0].ctx.x.trec.toNat 64 = true ∧ (s id).cores[0].ctx.x.tvec = 0) := by decide +kernel
theorem wit_TrapSteps_waits : ((copying [copy0]).cores[0].run.copies.any fun m => m.phase == .running) = true := by decide
/-- A later region, steps of each kind of storage, tags cleared and claimed, and a ring of two slots. -/
theorem wit_TrapSteps_steps : (let q : Ring := ⟨0, 1, 2, 1, 1, 0, 0, 0, [0, 0], [false, false]⟩
    let undo (u : Undo) : Region := { region0 with landed := [⟨u, some 16⟩], tclrs := [(4, ⟨.complete, 0⟩)], claims := [(3, ⟨.idle, 0⟩)] }
    let later := { undo (.buf 0 WBuf.cleared) with id := 1, landed := [], rings := [.rin 2 0] }
    region0.id < later.id ∧ ([later, region0].map (·.id)).Nodup ∧ region0.resumed = false ∧
      (∀ u : Undo, [later, undo u].flatMap (·.landed) = [⟨u, some 16⟩]) ∧
      ([later, region0].flatMap fun g => g.tclrs ++ g.claims) = [] ++ (4, ⟨.complete, 0⟩) :: [(3, ⟨.idle, 0⟩)] ∧
      [later, region0].flatMap (·.rings) = [.rin 2 0] ∧ (0 + q.count - q.prod) % q.count < q.reserved ∧
      ({ q with reserved := 0 } : Ring).reserved ≤ (0 + q.count - q.prod) % q.count ∧ Memory.wf Core.reset.sram.bytes = true) := by
  refine ⟨by decide, by decide, rfl, fun _ => rfl, rfl, rfl, by decide, by decide, by decide⟩
/-- A register erased and then copied into is CLEAN after a trap: the copy returns it to CLEAN (R104). -/
theorem test_unwind_copy_over_erase : (let r := { region0 with landed := [⟨.vreg 5 allBits 0 .clean, some 16⟩, ⟨.vreg 5 allBits 7 .i32, none⟩] }
    let c := ((at0 (vec 5 .i32 9)).core.onRun fun x => { x with regions := [r] }).rewind 0 0
    c.1.ctx.v[5] = ⟨0, .clean⟩ ∧ c.1.ctx.x.emet = 16) := by decide +kernel
theorem wit_TrapSteps_undo : (let r := { region0 with landed := [⟨.vreg 5 1 0 .clean, some 16⟩] }
    r.landed = [⟨.vreg 5 1 0 .clean, some 16⟩] ∧ region0.landed = [] ∧
      ∀ u ∈ r.landed, ∀ a m o cl p, u.what = .bytes a m o cl p → a / 256 ≠ 255) := by
  refine ⟨rfl, rfl, ?_⟩
  intro u hu a m o cl p h
  rw [List.mem_singleton.1 hu] at h
  cases h
theorem wit_WeirSteps : (let e := command .synWait 0x7FFFF 0 3 0
    let s := sends e
    s.sender (.core 0) = some (task0, e) ∧ s.taskOf task0.tid = some task0 ∧ e.tag = some 3 ∧ s.syncAt 0x7FFFF = some none ∧
      s.syncAt 0x80000 = none ∧ s.sems = [] ∧ (s.syncGet 0x7FFFF).toInt < 3 ∧ (0 : Int) ≤ (s.syncGet 0).toInt ∧ (0 + 1) % 2 ^ 32 < 2 ∧
      1 ≤ (0 + 1) % 2 ^ 32) ∧
    (let u := { task0 with stand := .parked, cancel := true, sent := some (command .synWait 0 0 3 0) }
     let s := { busy with tasks := [u] }
     s.sender (.task 65536) = some (u, command .synWait 0 0 3 0) ∧ s.taskOf u.tid = some u ∧ u.stand ≠ .onCore ∧ s.syncAt 0 ≠ none) ∧
    busy.sender (.core 0) = none := by decide +kernel
/-- A wait in front of the queue of variable 0, and another behind it. -/
theorem wit_WeirSteps_queue : (let x : Waiter := ⟨0, 65536, 4, 8, 2⟩
    let e := command .synPost 0 0 3 0
    let s := { sends e with sems := [x, { x with var := 1 }] }
    s.sender (.core 0) = some (task0, e) ∧ s.syncAt 0 = some none ∧ task0.stand = .onCore ∧
      e.kind.major ∈ [0x30, 0x31, 0x32, 0x33, 0x34, 0x35, 0x36, 0x37] ∧ s.sems.filter (·.var == 0) = [x]) := by decide +kernel
theorem test_post_grants_one : (let x : Waiter := ⟨0, 65536, 4, 8, 2⟩
    let s := { sends (command .synPost 0 0 3 0) with sems := [x, x, { x with var := 1 }], arg := .core 0 }
    (after (exec .weirOperation s)).sems = [x, { x with var := 1 }] ∧ (after (exec .weirOperation s)).sync = [(0, 1)]) := by decide +kernel
/-- An answer for the task that holds the TID and for an earlier one; and a variable of an overflow area whose page is poisoned. -/
theorem wit_WeirSteps_reply : (let s (born : Nat) := given (.reply 65536 born 3 0 none 0 .none)
    (s 1).taskOf 65536 = some task0 ∧ task0.born = 1 ∧ task0.stand = .onCore ∧ (s 1).sender (s 1).arg = none ∧ (∀ u ∈ busy.tasks, u.born ≠ 2)) ∧
    (let s := { busy with mgmt := { Mgmt.reset with ovf := #v[0x10000000000, 0, 0, 0] }, pagePoison := [0] }
     s.syncAt 0x80000 = some (some 0) ∧ (s.checkSync 0x80000).syncLost 0x80000 = true) := by
  refine ⟨by decide +kernel, by decide +kernel, ?_⟩
  exact (State.checks_checkSync _ _).syncLost (by decide +kernel)
theorem wit_ReleaseSteps : (let s := sends (command .rel 65536 0 0 0)
    s.sender (.core 0) = some (task0, command .rel 65536 0 0 0) ∧ s.launchOf task0.launch = some launch0 ∧ s.logOf 65536 = some log0 ∧
      tidOfLaunch launch0 131072 = false ∧ tidOfLaunch { launch0 with lrec := { launch0.lrec with cores := 1 } } 65536 = true ∧
      s.launchOf 1 = some launch0 ∧ task0.stand = .onCore ∧ ({ s with logs := [] } : State).logOf 65536 = none) ∧
    (let s := { busy with mgmt := { Mgmt.reset with hostWin := Vector.replicate 16 (0x1000000000000000, 0x1000000000000) } }
     (s.hostAddr 0x1000000000000000 8).toOption = some 0x1000000000000000 ∧ (busy.hostAddr 0x1000000000000000 8).toOption = none) := by decide +kernel
/-- The answer to an acquire of one log and of every log. -/
theorem test_acquire_completes : (let s (up : Raise) := given (.reply 65536 1 3 0 none 0 up)
    ((after (exec .sequencerNumbering (s (.logs [2, 3] 9)))).taskOf 65536).map (·.horizons) = some [(3, 9), (2, 9)] ∧
      ((after (exec .sequencerNumbering (s (.all 9)))).taskOf 65536).map (fun t => (t.horizon, t.horizons)) = some (9, [])) := by decide +kernel
/-- A log whose one record is released under number 1, and one whose record is not, with their writer frozen for it. -/
theorem wit_ReleaseSteps_timeout : (let rec_ (n : Option Nat) : Joined := ⟨0, 16, 0, 1, some ⟨1, 0, 5⟩, n⟩
    let s (n : Option Nat) : State := { (busy.onCore 0 fun c => c.onRun fun r => { r with fullSince := some 0 }) with
      logs := [{ log0 with recs := [rec_ n], count := 1 }], now := 4096000, tasks := [{ task0 with horizon := 0 }] }
    (s none).cores[0].run.fullSince = some 0 ∧ (s none).launchOn 0 = some launch0 ∧
      (s none).logOf (s none).cores[0].ctx.x.tid = some { log0 with recs := [rec_ none], count := 1 } ∧
      ((s none).tasks.map (·.tid)).Nodup ∧ 0 + 4096 * 1000 ≤ (s none).now ∧ busy.now < 0 + 4096 * 1000 ∧
      [rec_ (some 1)].findSome? (·.release) = some 1 ∧ (s (some 1)).leastOf { task0 with horizon := 0 } < 1 ∧ 1 ≤ (s (some 1)).leastOf task0 ∧
      (s (some 1)).floor 1 = 0 ∧ ({ busy with logs := [{ log0 with recs := [rec_ (some 1)] }] } : State).floor 1 = 1) := by decide +kernel
/-- A table, a leaf at each end of the levels that may hold one, and an entry that is neither; and a walk in each state. -/
theorem wit_AddressTranslation : (seenAt 0 0x8000000000002000 = .table 0x2000 ∧ seenAt 1 0xE040000000000000 = .leaf ∧
      seenAt 3 0xE040000000010000 = .leaf ∧ seenAt 3 0xE040000000008000 = .bad ∧ seenAt 0 0xE040000000000000 = .bad) ∧
    (let s := mapped busy
     let sp : Space := ⟨0, 0x2000, 0, 0⟩
     s.poisoned 0x2000 = false ∧ ({ s with pagePoison := [2] } : State).poisoned 0x2000 = true ∧
      (s.walk sp 0x1000).toOption.map (·.1) = some 1 ∧ (s.walk sp (2 ^ 47)).toOption = none ∧
      (let t := s.sites[0].hold sp ⟨0x1000, 1, 0⟩ 0xE040000000000000
       t.held sp 0x1000 = some (1, 0xE040000000000000) ∧ t.held { sp with root := 0x3000 } 0x1000 = none ∧ s.sites[0].entry sp 0x1000 0 = none) ∧
      (let w : Walk := ⟨0x1000, 0, 0x2000⟩
       let m := { copy0 with walk := some w, atoms := [w.atom 0] }
       let t := { copying [m] with arg := .atom 0 0 0 }
       let x := { t with sites := t.sites.set 0 { t.sites[0] with dropped := [(0, 0)] } }
       t.cores[0].cmdOf 0 = some m ∧ m.atoms[0]? = some (w.atom 0) ∧ (w.atom 0).role = .entry ∧ (w.atom 0).bad = false ∧
        ({ (w.atom 0) with bad := true } : Atom).bad = true ∧ m.kind.moves = false ∧ ({ m with kind := .fill } : Cmd).kind.moves = true ∧
        t.isDropped (0, m.id) = false ∧ x.isDropped (0, m.id) = true)) := by decide +kernel
/-- A record of four INT8 elements in two rows of which one is present, with scales; row 1 is padding. -/
theorem wit_ShapesAndChannels : (let h : Shape := { shapeOf 0 with
        sound := true, base := 0x1000, fmt := 5, scales := 0x2000, e0 := 4, e1 := 2, e2 := 1, e3 := 1, t1 := 256, p0 := 3, p1 := 1, p2 := 1, p3 := 1 }
    (∀ a ∈ copy0.atoms, a.pads = []) ∧ h.rows = 2 ∧ h.sound = true ∧ 1 % h.e1 < 2 ∧ (0 % h.e1 < h.p1 ∧ 2 < (h.p0 * h.nibbles + 1) / 2) ∧ ¬ (1 % h.e1 < h.p1) ∧
      32 * 0 < h.p0 ∧ 0 < (h.e0 + 31) / 32) ∧
    hpatBad 0x0D = false ∧ (0x1FE0 : Nat) / 2 ^ 13 = 0 ∧ hashChan 0x0D 0x2000 ≠ hashChan 0 0x2000 ∧ (0x2000 : Nat) < 2 ^ 36 := by decide +kernel
/-- The copies that COPY_START takes: of no shape table, of a record not held, held in its generation, and of another one; and a fill. -/
theorem wit_CopyStarts : (let w := { copy0 with phase := .waiting, atoms := [], planned := false }
    let s := copying [w]
    let l := { launch0 with lrec := { launch0.lrec with shapes := 0x3000 } }
    let line (bits : BitVec 512) : ShapeLine := ⟨0, 0, 0x3000, 0x3000, bits⟩
    let holds (bits : BitVec 512) : State := { s with
      launches := [l], sites := s.sites.set 0 { s.sites[0] with records := [line bits] } }
    let fill := { w with kind := .fill, tag := none, queue := none }
    s.cores[0].run.copies.find? s.cores[0].mayStart = some w ∧ ((s.launchOn 0).map (·.lrec.shapes)).getD 0 = 0 ∧
      ((holds 0).launchOn 0).map (·.lrec.shapes) = some 0x3000 ∧
      (holds 0).sites[0].records.find? (fun r => r.tag == ((holds 0).spaceOn 0).tag && r.root == ((holds 0).spaceOn 0).root && r.va == 0x3000) =
        some (line 0) ∧
      busy.sites[0].records.find? (fun r => r.tag == 0 && r.root == 0 && r.va == 0x3000) = none ∧
      (shapeOf 0).gen = (w.handle.extractLsb' 20 12).toNat ∧ (shapeOf (1 <<< 112)).gen ≠ (w.handle.extractLsb' 20 12).toNat ∧
      (shapeOf 0).unfit = true ∧
      (copying [fill]).cores[0].run.copies.find? (copying [fill]).cores[0].mayStart = some fill ∧ fill.kind.moves = true ∧
      busy.cores[0].run.copies.find? busy.cores[0].mayStart = none) := by decide +kernel
/-- A unit of padding that an earlier command of its queue has yet to write a byte of. -/
theorem wit_CopySteps_padding : (let pad : Atom := { (Walk.atom ⟨0, 0, 0⟩ 0) with role := .fill, moves := [], pads := [(0, 0)], started := false }
    let first : Cmd := { copy0 with atoms := [{ pad with role := .bytes, moves := [(0, 0)], pads := [], started := true }] }
    let m : Cmd := { copy0 with id := 1, atoms := [pad] }
    (copying [first, m]).cores[0].cmdOf 1 = some m ∧ (copying [first, m]).cores[0].ahead m = [first] ∧ first.starting = false ∧
      m.phase = .running ∧ m.halted = false ∧ m.walk = none ∧ m.kind ≠ .tr ∧ m.atoms.find? (!·.started) = some pad ∧
      first.kind = .cin ∧ (∃ p ∈ pad.pads, p.1 = 0) ∧ ∃ x ∈ first.atoms, x.done = false ∧ x.served = false ∧ ∃ p ∈ x.moves, p.2 = 0) := by
  decide +kernel
theorem wit_CopySteps : (let s := copying [copy0]
     let done : Cmd := { copy0 with atoms := copy0.atoms.map fun a : Atom => { a with done := true } }
     s.cores[0].cmdOf 0 = some copy0 ∧ copy0.settled = false ∧ done.settled = true ∧ s.cores[0].ahead copy0 = [] ∧
      copy0.atoms[0]?.map (·.role) = some .bytes ∧ copy0.stale = false ∧ ({ copy0 with stale := true } : Cmd).stale = true ∧
      s.cores[0].run.phase = .running ∧ (s.cores[0].run.regions.any (·.id == copy0.region)) = true ∧
      (copying [copy0, { copy0 with id := 1 }]).cores[0].ahead { copy0 with id := 1 } = [copy0] ∧
      ({ copy0 with kind := .fab } : Cmd).atoms.zipIdx.find? (!·.1.done) = (copy0.atoms.map (·, 0)).head? ∧
      ({ done with kind := .inx } : Cmd).settled = true ∧ failRank (5 &&& 0xF) > 0 ∧ ¬ (failRank ((0 : Word) &&& 0xF) > 0)) ∧
    (let m := { copy0 with kind := .fill, tag := none, queue := none, atoms := [], regs := [(5, ⟨0, .clean⟩)], guard := 1 }
     let s := copying [m]
     m.settled = true ∧ m.kind.moves = true ∧ s.cores[0].doomed m.region = false ∧ s.cores[0].run.trap = none ∧
      (s.cores[0].onRun fun r => { r with
        phase := .trapping, trap := some ⟨.bounds, 0, 0, some 0, none, 0, 0, 0, .normal⟩ }).doomed m.region = true) ∧
    (let a : Atom := { (Walk.atom ⟨0, 0, 0⟩ 0) with role := .bytes, dpa := 65536, moves := [(0, 0)] }
     let m := { copy0 with kind := .peer, source := 65536, atoms := [a] }
     (m.atoms.zipIdx.filter (!·.1.done)) = [(a, 0)] ∧ m.atoms[0]? = some a ∧ (∀ b ∈ m.atoms.eraseIdx 0, b.done = true) ∧ busy.taskOf m.source = some task0 ∧
      busy.taskOf (BitVec.ofNat 64 a.dpa) = some task0 ∧ task0.stand = .onCore) := by decide +kernel
theorem wit_ChannelSteps : (let s := { copying [copy0] with now := 400 }
    s.claims 0 0 400 = [⟨0, 0, 0, copy0.atoms[0], false, 1⟩] ∧ busy.claims 0 0 399 = [] ∧ (∀ e ∈ [1, 2, 3], s.claims (Fin.ofNat 384 (96 * e)) 0 400 = []) ∧
      s.asleep.contains 0 = false ∧ s.queueHolds ⟨0, 0, 0, copy0.atoms[0], false, 1⟩ = false ∧ s.cores[0].cmdOf 0 = some copy0 ∧
      ({ s with asleep := [0] } : State).asleep.contains 0 = true) ∧
    (let s := { busy with dram := [⟨0, [], [], [], [7]⟩], writeback := [(0, 0)] }
     (s.dramOf 0).queue = [7] ∧ s.writeback.find? (·.1 == 0) = some (0, 0) ∧ (busy.dramOf 0).queue = []) := by decide +kernel
/-- A peer's atom that waits for a channel that no core's atom asks for: its bank is idle, and held. -/
theorem wit_ChannelSteps_inbound : (let x : Inbound := ⟨0, 0x40, [], 0, 0x40, 1, 0, 3⟩
    let s := { busy with inbox := [x], arg := .service 0 0 }
    (∀ e, e < 4 → s.claims (Fin.ofNat 384 (96 * e)) 0 s.now = []) ∧ s.inbox.find? (·.chan == (0 : ChanId)) = some x ∧
      (∀ x ∈ busy.inbox, x.chan ≠ 0) ∧ s.bankHeld 0 x.dpa = false ∧ s.asleep.contains 0 = false) := by decide +kernel
theorem wit_ChannelSteps_sleep : (let s := { busy with now := 32001 }
    s.awaited 0 = false ∧ (pairGet s.quiet 0).getD 0 + 32000 < s.now ∧ busy.now ≤ (pairGet busy.quiet 0).getD 0 + 32000 ∧
      ({ copying [copy0] with now := 400 } : State).awaited 0 = true) := by decide +kernel
theorem wit_TaskSteps : (let s := given (.born 65536 1)
    s.taskOf 65536 = some task0 ∧ s.taskOf 1 = none ∧ task0.born = 1 ∧ task0.stand = .onCore ∧ s.cores[0].run.phase = .running ∧
      s.cores[0].run.cancel = false ∧ s.cores[0].run.frozen = []) ∧
    (let c := (busy.onCore 0 fun c => c.onRun fun r => { r with preempt := true, openNext := true }).cores[0]
     c.run.preempt = true ∧ c.run.openNext = true ∧ c.run.drain = none ∧ c.ctx.x.armed = false ∧ (c.onRun fun r => { r with atHead := true }).run.atHead = true) ∧
    (let c := (busy.onCore 0 fun c => c.onRun fun r => { r with preempt := true, frozen := [2] }).cores[0]
     c.run.preempt = true ∧ c.run.frozen ≠ [] ∧ c.run.openNext = false ∧ c.ctx.x.armed = false ∧ ¬ (c.run.drain ≠ none ∧ c.ctx.x.armed = false) ∧
      (c.onSpr fun x => { x with lstg := 0x80 }).ctx.x.armed = true) ∧
    (let c := (busy.onCore 0 fun c => c.onRun fun r => { r with preempt := true, drain := some 4 }).cores[0]
     c.run.drain ≠ none ∧ c.ctx.x.armed = false) ∧
    (let s := copying [{ copy0 with phase := .waiting }]
     s.cores[0].run.escalated = none ∧ (s.cores[0].run.copies.map (·.id)).Nodup) ∧
    (let u := { task0 with stand := .parked }
     u.sent = none ∧ u.cmds = [] ∧ u.held = [] ∧
      ({ busy with tasks := [u, { task0 with tid := 98304, group := 0x80000000 }] } : State).hasSiblings 65536 = true ∧
      ({ busy with tasks := [u], groups := [] } : State).hasSiblings 65536 = false) ∧
    (busy.tasksOf 1 ≠ [] ∧ ({ busy with tasks := [], groups := [] } : State).tasksOf 1 = []) := by decide +kernel
/-- The areas, where no check finds an uncorrectable error: what the memory holds is the spec's, what a check finds is free. -/
theorem wit_TaskSteps_saved (h : ∀ d, Config.freeNat d 0 % 3 ≠ 2) :
    (let s := (mapped busy).onCore 0 fun c => c.onRun fun r => { r with phase := .preempting, regions := [] }
     let e := (mapped busy).onCore 0 fun c => c.onRun fun r => { r with phase := .ended, regions := [] }
     s.maySave s.cores[0] = true ∧ (savePages 0).all (fun o => (s.checkStores 0 (savePages 0)).areaAllows .write 0 o) = true ∧
      e.cores[0].retires = true ∧ e.hasSiblings 65536 = false ∧ busy.poolSpace = none ∧
      ∀ o ∈ [areaPitch 63, areaBits 63, 0], (s.checkStores 0 [areaPitch 63, areaBits 63, 0]).areaAllows .write 0 o = true) := by
  dsimp only
  refine ⟨by decide +kernel, ?_, by decide +kernel, by decide +kernel, by decide +kernel, fun o ho => ?_⟩
  · simp only [(State.checks_checkStores _ 0 (savePages 0)).areaAllows h]
    decide +kernel
  · rw [(State.checks_checkStores _ 0 _).areaAllows h]
    revert o
    decide +kernel
theorem wit_TaskSteps_resumed (h : ∀ d, Config.freeNat d 0 % 3 ≠ 2) :
    (let u := { task0 with stand := .suspended, pitches := [.resident 0 0] }
     let s := { mapped (at0 id) with tasks := [u], launches := [launch0], arg := .place 65536 0 }
     s.taskOf 65536 = some u ∧ s.cores[0].run.phase = .idle ∧ s.cores[0].accepts 0 = true ∧ u.core = 0 ∧ u.held = [] ∧
      (savePages 0).all (fun o => (s.checkArea 0 (savePages 0)).areaAllows .read 0 o) = true) := by
  dsimp only
  refine ⟨by decide +kernel, by decide +kernel, by decide +kernel, rfl, rfl, ?_⟩
  simp only [(State.checks_checkArea _ 0 (savePages 0)).areaAllows h]
  decide +kernel
theorem wit_LaunchSteps : (let q : Queue := { State.reset.queues[0] with tail := 1, ready := true, checked := some 1 }
    let s := { mapped State.reset with ready := true, arg := .queue 0, queues := State.reset.queues.set 0 q }
    s.ready? = [.head 0] ∧ State.reset.ready? = [] ∧ s.tasks = [] ∧ q.cand.level < 3 ∧ q.cand.reserving = false ∧
      (s.need (.head 0)).n ≤ s.freeAreas.length ∧
      s.coresFor (.head 0) = some [] ∧ s.queues[0].head ≠ s.queues[0].tail ∧ s.recordBad q.record q.binding = true) := by decide +kernel
/-- A head that asks for every core has reserved for the one that task 65536, of lower priority, runs on. -/
theorem wit_LaunchSteps_reserves : (let q : Queue := { State.reset.queues[0] with
      slots := State.reset.queues[0].slots.set 0 ((384 <<< 64) ||| (3 <<< 84)), tail := 1, ready := true, checked := some 2, cand := ⟨3, some 0, false⟩ }
    let s := { busy with ready := true, now := 2 ^ 22, queues := State.reset.queues.set 0 q }
    s.ready? = [.head 0] ∧ s.coresFor (.head 0) = none ∧ (s.askFor (.head 0)).map (·.tid) = [65536] ∧
      ((s.launchOf task0.launch).map (·.lrec.prio)).getD 0 < (s.need (.head 0)).prio) := by decide +kernel
theorem wit_GroupSteps : (let e := command .gcancel 1 0 0 0
    let s := sends e
    s.sender (.core 0) = some (task0, e) ∧ s.latestGroup task0.tid = some group0 ∧ s.groupOf 0x80000000 = some group0 ∧ s.launchOn 0 = some launch0 ∧
      s.freeEntry 0 = some 1 ∧ s.groupActive group0 = true ∧ group0.slots.length = group0.n ∧ s.taskOf group0.parent = some task0 ∧
      (∃ i ∈ group0.slots, i = .pending) ∧ group0.slots[1]? = some (.deposited 5)) := by decide +kernel
theorem wit_GroupSteps_sibling : (let g := { group0 with handle := 7 }
    let u := { task0 with group := 7 }
    let s := { sends (command .grwd 5 0 0 0) with groups := [g], tasks := [u] }
    s.sender (.core 0) = some (u, command .grwd 5 0 0 0) ∧ s.groupOf u.group = some g ∧ g.slots[0]? = some .pending ∧ g.done = false ∧
      g.slots[1]? ≠ some .pending ∧ s.taskOf 65536 = some u) := by decide +kernel
theorem wit_GroupSteps_barrier : (let g := { group0 with slots := [.deposited 5, .withdrawn], barrier := true }
    let s := { busy with groups := [g], arg := .status 0x80000000 65536 }
    s.groupOf 0x80000000 = some g ∧ g.parent = task0.tid ∧ g.done = false ∧ (∀ i ∈ g.slots, i ≠ .pending) ∧ s.taskOf 65536 = some task0 ∧
      task0.stand = .onCore ∧ group0.barrier = false) := by decide +kernel
theorem wit_ManagementSteps : (let s (m : PortId) (off : Nat) (v : Word) := { written off v with arg := .write m off v }
    (s 2 0 0).hears 2 = true ∧ (s 2 0 0).mgmt.owner.toNat = 2 ∧ (s 19 0 0).hears 19 = true ∧
      ({ State.reset with mgmt := { Mgmt.reset with links := 4, frozen := 4 } } : State).hears 2 = false ∧
      ({ State.reset with mgmt := { Mgmt.reset with links := 4 } } : State).mgmt.owned = false) ∧
    (let g : Mgmt := { Mgmt.reset with open_ := some 5, claims := [(2, 1)], fwBusy := true, atBusy := true }
     g.open_ = some 5 ∧ g.fwBusy = true ∧ g.atBusy = true ∧ g.claims = [(2, 1)]) := by decide +kernel
/-- The registers and windows at the edges of their ranges, and the offsets beside them that name none. -/
theorem test_registers_edges : (let w (off : Nat) (v : Word) : Mgmt := (after (exec .mgmtRegisterWrite (written off v))).mgmt
    (w 0x30 0xB000000000).astbase = 0xB000000000 ∧ (w 0x30 0xC000000000).astbase = 0 ∧ (w 0x38 0xFFFFFFFF0000).spbase = 0xFFFFFFFF0000 ∧
      (w 0x38 0x8000).spbase = 0 ∧ (w 0x40 0xFFFFFFFF).spctl = 0xFFFFFFFF ∧ (w 0x40 0x100000000).spctl = 0 ∧
      (w 0x48 0x12000000000).ovf[0] = 0x12000000000 ∧ (w 0x60 0x19000000000).ovf[3] = 0x19000000000 ∧ (w 0x60 0x18000000000).ovf[3] = 0) := by
  decide +kernel
theorem test_windows_edges : (let w (off : Nat) (v : Word) : Mgmt := (after (exec .mgmtRegisterWrite (written off v))).mgmt
    (w 0x200 5).hostWin[0] = (5, 0) ∧ (w 0x2F8 5).hostWin[15] = (0, 5) ∧ (w 0x300 0x8000000010000000).cxlWin[0][0] = 0x8000000010000000 ∧
      (w 0x3F8 0xFFFF).cxlWin[7][3] = 0xFFFF ∧ (w 0x3F8 0x10000).cxlWin[7][3] = 0 ∧ (w 0x308 1).cxlWin[0][1] = 0) := by decide +kernel
theorem test_offsets_unlisted : ∀ off ∈ [0x00, 0x20, 0x31, 0x68, 0x90, 0xC8, 0x1A0, 0x1F8, 0x400, 0x10008, 0x10200, 0x7FFF8, 0x88000, 0xFFFF8, 0x140000],
    (after (exec .mgmtRegisterWrite (written off 5))).evcount = 1 := by decide +kernel
/-- A host's access, where no check finds an uncorrectable error: inside the window, outside it, and in a poisoned page. -/
theorem wit_ManagementSteps_host (h : ∀ d, Config.freeNat d 0 % 3 ≠ 2) :
    (let w : Vector Word 4 := #v[0x8000000000000000, 0x10000000, 0, 0]
     let s := mapped State.reset
     let t := { s with powered := true, mgmt := { s.mgmt with links := 1, cxlWin := s.mgmt.cxlWin.set 0 w } }
     t.powered = true ∧ t.mgmt.links.getLsbD 0 = true ∧ ((t.hostCheck 0x0FFFFFE0).hostPlace true 0x0FFFFFE0).map (·.1.dpa) = some 0x0FFFFFE0 ∧
      ((t.hostCheck 0x0FFFFFE0).hostPlace true 0x0FFFFFE0).map (·.2.2.2) = some false ∧
      (t.hostCheck 0x10000000).hostPlace true 0x10000000 = none ∧ (t.hostCheck 0x0FFFFFE0).poisoned 0x0FFFFFE0 = false) := by
  dsimp only
  rw [(State.checks_hostCheck _ _).hostPlace h, (State.checks_hostCheck _ _).hostPlace h, (State.checks_hostCheck _ _).poisoned_eq h]
  decide +kernel
theorem wit_ManagementSteps_image : (⟨4, 0xFFFFFFFF⟩ : Image).len = 4 ∧
    ({ State.reset with mgmt := { Mgmt.reset with running := some ⟨4, 0xFFFFFFFF⟩ } } : State).mgmt.running = some ⟨4, 0xFFFFFFFF⟩ := ⟨rfl, rfl⟩
theorem wit_LanternSteps : (let s (f : Wear → Wear) := at0 fun c => { c with wear := f c.wear }
    (s id).cores[0].wear.st = .healthy ∧ (s fun w => { w with st := .draining }).emptyCore 0 = true ∧
      350000000000 ≤ (s fun w => { w with lifetime := 350000000000 }).cores[0].wear.lifetime ∧
      (s fun w => { w with st := .derated, drift := 25000 }).cores[0].wear.drift = 25000 ∧ busy.emptyCore 0 = false ∧
      (s fun w => { w with st := .retired }).cores[0].wear.st = .retired ∧ CoreSt.healthy.code < CoreSt.draining.code ∧
      busy.cores[0].busy = true ∧ busy.taskOf busy.cores[0].ctx.x.tid = some task0 ∧ task0.group = 0) ∧
    (({ State.reset with powered := false } : State).powered = false ∧ State.reset.brought = 0 ∧
      ({ State.reset with mgmt := { Mgmt.reset with store := #v[none, none] } } : State).authenticate = none ∧
      State.reset.powered = true) ∧
    ((State.reset.cores.toList.map (·.wear)).length = 384 ∧ (2 : Nat) ^ 64 - 1 < 2 ^ 64) := by decide +kernel
/-- The states between the steps of bring-up. -/
theorem wit_LanternSteps_bring : ∀ n, 2 ≤ n → n ≤ 6 → (let s : State := { State.reset with brought := n - 1, arg := .bring n }
    s.powered = true ∧ s.arg = .bring n ∧ s.brought = n - 1) := fun _ _ _ => ⟨rfl, rfl, rfl⟩
/-- A pair of copies whose checks pass, one newer or neither, a pair of which one passes, and one of which none does. -/
theorem wit_LanternSteps_record : (∃ a b : LifeCopy, a.sound = true ∧ b.sound = true ∧ b.generation ≤ a.generation) ∧
    (∃ a b : LifeCopy, b.sound = true ∧ a.sound = true ∧ a.generation < b.generation) ∧
    (∃ a b : LifeCopy, a.sound = true ∧ b.sound = false) ∧ ∃ a b : LifeCopy, a.sound = false ∧ b.sound = false := by
  let x (g : Nat) : LifeCopy := ⟨recordImage g 0 []⟩
  have sound (g : Nat) : (x g).sound = true := recordImage_sound g 0 []
  have gen (g : Nat) : (x g).generation = g % 2 ^ 64 := recordImage_generation g 0 []
  obtain ⟨y, hy⟩ := LifeCopy.unsound
  exact ⟨⟨x 1, x 1, sound 1, sound 1, Nat.le_refl _⟩, ⟨x 1, x 2, sound 2, sound 1, by rw [gen, gen]; decide⟩, ⟨x 1, y, sound 1, hy⟩, y, y, hy, hy⟩
/-- Where the signature of an image holds, which the spec leaves to the device, an image of enough version is taken. -/
theorem wit_LanternSteps_signed (h : Config.fwSigned 4 0xFFFFFFFF = true) :
    (let s : State := { State.reset with mgmt := { Mgmt.reset with store := #v[some ⟨4, 0xFFFFFFFF⟩, none] } }
     s.authenticate = some ⟨4, 0xFFFFFFFF⟩ ∧ s.powered = true ∧ s.brought = 0) := by
  refine ⟨?_, rfl, rfl⟩
  have hv : ∀ m : BitVec 32, m.toNat ≤ (⟨4, 0xFFFFFFFF⟩ : Image).version.toNat := fun m => Nat.le_of_lt_succ m.isLt
  simp [State.authenticate, Mgmt.reset, hv, h]

/-! ### The machine as a whole -/

theorem wit_EncodeDecode : (Instr.vcswap 31 3 4 5 .eight).wf = true ∧ (encode (.vcswap 31 3 4 5 .eight)).isSome = true := by decide
theorem wit_StepRunsBundle : (let s := State.reset.withFetchWord 32 0x03517280
    let l := (s.fetched 0).bind (·.data)
    s.todo = [.core 0] ∧ s.cores[0].run.phase = .running ∧ s.cores[0].lateCauses = [] ∧ s.cores[0].clk.turn.late = false ∧
      s.cores[0].run.bubbles = 0 ∧ s.cores[0].run.held = [] ∧ s.cores[0].run.preempt = false ∧ s.cores[0].run.cancel = false ∧ s.cores[0].run.yielded = none ∧
      l = some 0x03517280 ∧ decodeIn 0 false 0x03517280 = .ok ⟨.add 0 42 11 37, .nop, .nop, .nop⟩) := by decide +kernel
/-- Core 0 with a bundle placed at its pc and its run changed. -/
def placed (w : Nat) (f : Core → Core) : State := (State.reset.withFetchWord 32 w).onCore 0 f
/-- Inside a region whose head is h. -/
def inside (h : Word) (c : Core) : Core := (c.openRegion none).onRun fun r =>
  { r with openNext := false, regions := r.regions.map fun g => { g with head := h } }
theorem wit_StepRunsBundle_clauses : (let b (i : Instr) : Bundle := ⟨i, .nop, .nop, .nop⟩
    let held (s : State) (w : Nat) (i : Instr) : Prop :=
      (s.fetched 0).map (·.data) = some (some (BitVec.ofNat 128 w)) ∧ decodeIn 0 false (BitVec.ofNat 128 w) = .ok (b i)
    (held (placed 0xAC000000 (inside 0)) 0xAC000000 (.region 0) ∧ (b (.region 0)).s.opens = true ∧
      (placed 0xAC000000 (inside 0)).core.run.openNext = false) ∧
    (held (placed 0x03517280 (inside 65536)) 0x03517280 (.add 0 42 11 37) ∧ (placed 0x03517280 (inside 65536)).core.outOfExtent = true ∧
      (placed 0x03517280 (inside 0)).core.outOfExtent = false) ∧
    (held (placed 0xB6000000 id) 0xB6000000 (.calsync 0) ∧ ({ placed 0xB6000000 id with now := 1 } : State).prepared.waits (b (.calsync 0)) = [8]) ∧
    (held (placed 0xB4000000 id) 0xB4000000 (.trap 0 0) ∧ (placed 0xB4000000 id).prepared.waits (b (.trap 0 0)) = [] ∧
      ((placed 0xB4000000 id).prepared.trapped (b (.trap 0 0))).isSome = true)) := by decide +kernel
theorem wit_IssueFrame : (encode (.add 0 1 2 3)).isSome = true := by decide
theorem wit_LandedResults : (let c := (at0 (pitched ∘ vec 6 .i32 1 ∘ vec 7 .poison 0)).core
    let w : VWrite := ⟨5, 1, 1, some .i32, false, none, false, .clean⟩
    let x : VWrite := { w with d := 6, needClean := true }
    Memory.wf c.sram.bytes = true ∧ c.ctx.v[5].tag = .clean ∧ c.ctx.v[6].tag = .i32 ∧ c.ctx.v[7].tag = .poison ∧ c.run.trap = none ∧
      w.wins [] = 1 ∧ w.wins [⟨0, 1, 0, 1, 0, .vec w⟩] = 0 ∧ w.d ≠ x.d ∧ w.needClean = false ∧ x.needClean = true ∧ w.mask ≠ 0) := by
  decide +kernel
theorem wit_StepKeepsInvariant : State.reset.memOk = true ∧ State.reset.hpatOk = true ∧
    (∀ k : CoreId, Memory.wf State.reset.cores[k].sram.bytes = true) ∧ (match step State.reset with
    | .next _ => True
    | _ => False) := by
  refine ⟨rfl, by decide, by decide +kernel, ?_⟩
  exact trivial

end Sys2Proof.Tests
end

section
/-! SUPPORT. Operations that leave the scratchpad of a core as it is, by the part of the model they stand in. -/

namespace Sys2Proof.Machine

/-- Of a choice between two cores. -/
@[simp] theorem Core.sram_ite (p : Prop) [Decidable p] (a b : Core) : (if p then a else b).sram = if p then a.sram else b.sram :=
  apply_ite Core.sram p a b
/-- A chain of changes that leave the scratchpad as it is. -/
@[simp] theorem Core.sram_foldl {α : Type} {f : Core → α → Core} (hf : ∀ c x, (f c x).sram = c.sram) (l : List α) (c : Core) :
    (l.foldl f c).sram = c.sram := by
  induction l generalizing c with
  | nil => rfl
  | cons x l ih => exact (ih (f c x)).trans (hf c x)

/-! ### Operations of a core -/

@[simp] theorem Core.sram_checked (c : Core) (pos l) (f : Core → Core) :
    (c.checked pos l f).sram = if (firstFault l).isSome then c.sram else (f c).sram := by
  unfold Core.checked
  split <;> simp [*]
@[simp] theorem Core.sram_onRegionId (c : Core) (id f) : (c.onRegionId id f).sram = c.sram := rfl
@[simp] theorem Core.sram_flyS (c : Core) (lat slot d v) : (c.flyS lat slot d v).sram = c.sram := rfl
@[simp] theorem Core.sram_landS (c : Core) (region d v) : (c.landS region d v).sram = c.sram := rfl
@[simp] theorem Core.sram_landFault (c : Core) (region slot bundle cause detail status) :
    (c.landFault region slot bundle cause detail status).sram = c.sram := by
  unfold Core.landFault
  dsimp only
  split
  · rfl
  · split
    · rfl
    · simp
@[simp] theorem Core.sram_keep (c : Core) (region u fj) : (c.keep region u fj).sram = c.sram := rfl
@[simp] theorem Core.sram_landV (c : Core) (f w mask) : (c.landV f w mask).sram = c.sram := by
  unfold Core.landV
  dsimp only
  split
  · exact c.sram_landFault ..
  · split <;> rfl
@[simp] theorem Core.sram_openRegion (c : Core) (checked) : (c.openRegion checked).sram = c.sram := by
  unfold Core.openRegion
  split <;> simp
@[simp] theorem Core.sram_enqueue (c : Core) (m) : (c.enqueue m).sram = c.sram := rfl

/-! ### Vector operations -/

@[simp] theorem Core.sram_dissip (c : Core) (lat gm elems d rt pois bad faults extra bits) :
    (c.dissip lat gm elems d rt pois bad faults extra bits).sram = c.sram := by
  simp [Core.dissip]
@[simp] theorem Core.sram_lanes2 (c : Core) (lat g d a b src rt f) : (c.lanes2 lat g d a b src rt f).sram = c.sram := by simp [Core.lanes2]
@[simp] theorem Core.sram_lanes1 (c : Core) (lat g d a src rt f) : (c.lanes1 lat g d a src rt f).sram = c.sram := by simp [Core.lanes1]
@[simp] theorem Core.sram_lanes3 (c : Core) (lat g d a b t f) : (c.lanes3 lat g d a b t f).sram = c.sram := by simp [Core.lanes3]
@[simp] theorem Core.sram_bitwise (c : Core) (g d a b f) : (c.bitwise g d a b f).sram = c.sram := by simp [Core.bitwise]
@[simp] theorem Core.sram_cmpV (c : Core) (g d a b src f) : (c.cmpV g d a b src f).sram = c.sram := by simp [Core.cmpV]
@[simp] theorem Core.sram_flyRev (c : Core) (r ex d bits t needClean fj zero) : (c.flyRev r ex d bits t needClean fj zero).sram = c.sram :=
  rfl
@[simp] theorem Core.sram_inPlace (c : Core) (r g d t pois faults bits) : (c.inPlace r g d t pois faults bits).sram = c.sram := by
  unfold Core.inPlace
  dsimp only
  split <;> simp

/-! ### Vector arithmetic -/

@[simp] theorem Core.sram_reduce (c : Core) (g d a t f) : (c.reduce g d a t f).sram = c.sram := by simp [Core.reduce]

/-! ### The C slot -/

@[simp] theorem Core.sram_completeTag (c : Core) (t status) : (c.completeTag t status).sram = c.sram := rfl
@[simp] theorem Core.sram_effect (c : Core) (g faults) (f : Core → Core) : (c.effect g faults f).sram =
    if c.g0 g && !c.effectsFull && (firstFault faults).isNone then (f c).sram else c.sram := by
  cases hg : c.g0 g <;> cases hu : c.effectsFull <;> cases hf : firstFault faults <;> simp [Core.effect, hg, hu, hf]
@[simp] theorem Core.sram_flyC (c : Core) (d v) : (c.flyC d v).sram = c.sram := rfl

/-! ### Control and management instructions -/

@[simp] theorem Core.sram_jump (c : Core) (t) : (c.jump t).sram = c.sram := rfl
@[simp] theorem Core.sram_link (c : Core) : (c.link).sram = c.sram := rfl
@[simp] theorem Core.sram_returnsTo (c : Core) (t) : (c.returnsTo t).sram = c.sram := rfl

/-! ### Stores to a log -/

@[simp] theorem Core.sram_append (c : Core) (g r) : (c.append g r).sram = c.sram := by
  unfold Core.append
  split <;> simp

/-! ### Vector memory -/

@[simp] theorem Core.sram_gather (c : Core) (g d t addr bits) : (c.gather g d t addr bits).sram = c.sram := by simp [Core.gather]
@[simp] theorem Core.sram_vld (c : Core) (g d a i t) : (c.vld g d a i t).sram = c.sram := by simp [Core.vld]
@[simp] theorem Core.sram_vstPart (c : Core) (a mask data eff) : (c.vstPart a mask data eff).sram = c.sram := by
  unfold Core.vstPart
  split <;> rfl
@[simp] theorem Core.sram_spillIssue (c : Core) (g d a b k) : (c.spillIssue g d a b k).sram = c.sram := by
  unfold Core.spillIssue
  dsimp only
  split <;> simp

/-! ### Rings -/

@[simp] theorem Core.sram_setRing (c : Core) (h r) : (c.setRing h r).sram = c.sram := rfl
@[simp] theorem Core.sram_ringUndo (c : Core) (u) : (c.ringUndo u).sram = c.sram := rfl
@[simp] theorem Core.sram_ringWait (c : Core) (h n have_) : (c.ringWait h n have_).sram = c.sram := by simp [Core.ringWait]

/-! ### Copy engines -/

@[simp] theorem Core.sram_onCmd (c : Core) (id f) : (c.onCmd id f).sram = c.sram := rfl
@[simp] theorem Core.sram_asyncFault (c : Core) (t) : (c.asyncFault t).sram = c.sram := by
  unfold Core.asyncFault
  dsimp only
  split
  · rfl
  · split
    · rfl
    · split <;> simp
@[simp] theorem Core.sram_takeHeld (c : Core) (t rest) : (c.takeHeld t rest).sram = c.sram := by unfold Core.takeHeld; split <;> simp
@[simp] theorem Core.sram_staleHandle (c : Core) (m) : (c.staleHandle m).sram = c.sram := by simp [Core.staleHandle]

/-! ### Conversions -/

@[simp] theorem Core.sram_narrow (c : Core) (g d a b w x src rt f) : (c.narrow g d a b w x src rt f).sram = c.sram := by simp [Core.narrow]
@[simp] theorem Core.sram_narrowSr (c : Core) (g d a b w x rt f) : (c.narrowSr g d a b w x rt f).sram = c.sram := by
  unfold Core.narrowSr
  dsimp only
  split <;> simp
@[simp] theorem Core.sram_widen (c : Core) (g d a f src k) : (c.widen g d a f src k).sram = c.sram := by simp [Core.widen]
@[simp] theorem Core.sram_vqmx (c : Core) (g d a b x f emax rt) : (c.vqmx g d a b x f emax rt).sram = c.sram := by
  unfold Core.vqmx
  dsimp only
  split <;> simp

/-! ### Copies at issue -/

@[simp] theorem Core.sram_queueCopy (c : Core) (t m) : (c.queueCopy t m).sram = c.sram := rfl

/-! ### The tag table -/

@[simp] theorem Core.sram_tagChange (c : Core) (way e) : (c.tagChange way e).sram = c.sram := rfl

/-! ### Groups -/

@[simp] theorem Core.sram_barrierDone (c : Core) : (c.barrierDone).sram = c.sram := by unfold Core.barrierDone; dsimp only; split <;> simp

/-! ### The matrix unit at issue -/

@[simp] theorem Core.sram_msyl (c : Core) (held faults) (f : Core → Core) :
    (c.msyl held faults f).sram = if held || (firstFault faults).isSome then c.sram else (f c).sram := by
  cases held <;> simp [Core.msyl]
@[simp] theorem Core.sram_mstart (c : Core) (o) : (c.mstart o).sram = c.sram := rfl
@[simp] theorem Core.sram_wload (c : Core) (r w k x rowsOk scales) : (c.wload r w k x rowsOk scales).sram = c.sram := by simp [Core.wload]
@[simp] theorem Core.sram_wld (c : Core) (w a b r t nb) : (c.wld w a b r t nb).sram = c.sram := by simp [Core.wld]
@[simp] theorem Core.sram_mma (c : Core) (f acc w a b r) : (c.mma f acc w a b r).sram = c.sram := by simp [Core.mma]
@[simp] theorem Core.sram_afill (c : Core) (t a b rns) : (c.afill t a b rns).sram = c.sram := by simp [Core.afill]
@[simp] theorem Core.sram_drain (c : Core) (k t a b target add fits) : (c.drain k t a b target add fits).sram = c.sram := by
  simp [Core.drain]
@[simp] theorem Core.sram_drainAdd (c : Core) (self k t w a b v tid fits) : (c.drainAdd self k t w a b v tid fits).sram = c.sram := by
  unfold Core.drainAdd
  dsimp only
  split <;> simp

/-! ### The matrix unit -/

@[simp] theorem Core.sram_setTile (c : Core) (t x) : (c.setTile t x).sram = c.sram := rfl
@[simp] theorem Core.sram_latePoison (c : Core) (t before after) : (c.latePoison t before after).sram = c.sram := by
  unfold Core.latePoison
  split
  · split
    · rfl
    · exact Core.sram_foldl (fun _ _ => by simp) _ _
  · rfl
@[simp] theorem Core.sram_landMma (c : Core) (o f w acc i fresh) : (c.landMma o f w acc i fresh).sram = c.sram := by simp [Core.landMma]
@[simp] theorem Core.sram_landLine (c : Core) (o w j x) : (c.landLine o w j x).sram = c.sram := rfl
@[simp] theorem Core.sram_landReady (c : Core) (o w t) : (c.landReady o w t).sram = c.sram := rfl
@[simp] theorem Core.sram_landWld (c : Core) (o w tag t) : (c.landWld o w tag t).sram = c.sram := by
  unfold Core.landWld
  dsimp only
  split
  · rfl
  · split <;> rfl
@[simp] theorem Core.sram_landWldt (c : Core) (o w tag) : (c.landWldt o w tag).sram = c.sram := by
  unfold Core.landWldt
  rw [Core.sram_landReady, Core.sram_foldl fun _ _ => Core.sram_landLine _ _ _ _ _]

/-! ### Stopping and resuming a task -/

@[simp] theorem Core.sram_endRegion (c : Core) : (c.endRegion).sram = c.sram := by unfold Core.endRegion; split <;> rfl
@[simp] theorem Core.sram_splitRegion (c : Core) : (c.splitRegion).sram = c.sram := by unfold Core.splitRegion; split <;> rfl
@[simp] theorem Core.sram_returnHead (c : Core) : (c.returnHead).sram = c.sram := rfl
/-- A task that stands still leaves the scratchpad as it is. -/
theorem Core.sram_standStill (c : Core) (head) : (c.standStill head).1.sram = c.sram := by
  unfold Core.standStill
  split
  · exact c.sram_endRegion
  · split
    · exact c.sram_returnHead
    · exact c.sram_splitRegion

/-! ### Traps -/

@[simp] theorem Core.sram_undoRing (c : Core) (u) : (c.undoRing u).sram = c.sram := by unfold Core.undoRing; split <;> rfl
@[simp] theorem Core.sram_undoNames (c : Core) (r) : (c.undoNames r).sram = c.sram := by
  unfold Core.undoNames
  rw [Core.sram_foldl fun _ _ => Core.sram_onCtx _ _, Core.sram_foldl Core.sram_undoRing]
@[simp] theorem Core.sram_restartAt (c : Core) (pc) : (c.restartAt pc).sram = c.sram := rfl

/-! ### Wear, budgets and bring-up -/

@[simp] theorem Core.sram_interval (c : Core) (now f drift amps) : (c.interval now f drift amps).sram = c.sram := by
  unfold Core.interval
  split <;> rfl

/-! ### Scalar operations -/

@[simp] theorem Core.sram_aluRR (c : Core) (lat d a b f) : (c.aluRR lat d a b f).sram = c.sram := rfl
@[simp] theorem Core.sram_aluRI (c : Core) (d a i f) : (c.aluRI d a i f).sram = c.sram := rfl
@[simp] theorem Core.sram_cmpRR (c : Core) (d a b f) : (c.cmpRR d a b f).sram = c.sram := rfl
@[simp] theorem Core.sram_predRR (c : Core) (d a b f) : (c.predRR d a b f).sram = c.sram := rfl
@[simp] theorem Core.sram_loadS (c : Core) (d a i n ext) : (c.loadS d a i n ext).sram = c.sram := by simp [Core.loadS]
@[simp] theorem Core.sram_storeS (c : Core) (d a i n) : (c.storeS d a i n).sram = c.sram := by simp [Core.storeS]

/-! ### Tag waits -/

@[simp] theorem Core.sram_tagWait (c : Core) (bad ok) (f : Core → Core) :
    (c.tagWait bad ok f).sram = if !bad && ok then (f c).sram else c.sram := by
  cases bad <;> cases ok <;> simp [Core.tagWait, firstFault]
@[simp] theorem Core.sram_clearTag (c : Core) (t) : (c.clearTag t).sram = c.sram := rfl

/-! ### Reversible vector operations -/

@[simp] theorem Core.sram_revI32 (c : Core) (r g d a f) : (c.revI32 r g d a f).sram = c.sram := by simp [Core.revI32]
@[simp] theorem Core.sram_exchange (c : Core) (r gm ex d a td ta pois) : (c.exchange r gm ex d a td ta pois).sram = c.sram := rfl
@[simp] theorem Core.sram_revRns (c : Core) (r g d a f) : (c.revRns r g d a f).sram = c.sram := by simp [Core.revRns]
@[simp] theorem Core.sram_copyClean (c : Core) (r g d t pois bad bits) : (c.copyClean r g d t pois bad bits).sram = c.sram := by
  unfold Core.copyClean
  dsimp only
  split <;> simp

/-! ### Issue -/

@[simp] theorem Core.sram_current (c : Core) : (c.current).sram = c.sram := by unfold Core.current; split <;> simp
@[simp] theorem Core.sram_issued (c : Core) (b raw) : (c.issued b raw).sram = c.sram := rfl

end Sys2Proof.Machine
end

section
/-! SUPPORT. The canonical form of a scratchpad, kept by whatever writes its bytes (R12). -/

namespace Sys2Proof.Machine

@[simp] theorem Sram.bytes_ite (p : Prop) [Decidable p] (a b : Sram) : (if p then a else b).bytes = if p then a.bytes else b.bytes :=
  apply_ite Sram.bytes p a b
@[simp] theorem Memory.wf_ite (p : Prop) [Decidable p] (a b : Mem) :
    Memory.wf (if p then a else b) = if p then Memory.wf a else Memory.wf b := apply_ite Memory.wf p a b

@[simp] theorem Sram.bytes_mark (m : Sram) (line eff) : (m.mark line eff).bytes = m.bytes := by cases eff <;> rfl
@[simp] theorem Sram.wf_store {m : Sram} (a mask data eff) (h : Memory.wf m.bytes = true) :
    Memory.wf (m.store a mask data eff).bytes = true := by
  simp [Sram.store, h, Memory.wf_memPutMask]
@[simp] theorem Sram.wf_poke {m : Sram} (a b) (h : Memory.wf m.bytes = true) : Memory.wf (m.poke a b).bytes = true :=
  Memory.wf_memSet a b h
@[simp] theorem Sram.wf_zeroPitch {m : Sram} (p) (h : Memory.wf m.bytes = true) : Memory.wf (m.zeroPitch p).bytes = true := by
  unfold Sram.zeroPitch
  generalize 65536 = n
  exact Memory.wf_memPut _ _ _ h

theorem Core.wf_foldl {α : Type} {f : Core → α → Core} (hf : ∀ c x, Memory.wf c.sram.bytes = true → Memory.wf (f c x).sram.bytes = true)
    (l : List α) {c : Core} (h : Memory.wf c.sram.bytes = true) : Memory.wf (l.foldl f c).sram.bytes = true := by
  induction l generalizing c with
  | nil => exact h
  | cons x l ih => exact ih (hf c x h)
theorem Core.bytes_foldl {α : Type} {f : Core → α → Core} (hf : ∀ c x, (f c x).sram.bytes = c.sram.bytes) (l : List α) (c : Core) :
    (l.foldl f c).sram.bytes = c.sram.bytes := by
  induction l generalizing c with
  | nil => rfl
  | cons x l ih => exact (ih (f c x)).trans (hf c x)

@[simp] theorem Core.bytes_putPoison (c : Core) (l v) : (c.putPoison l v).sram.bytes = c.sram.bytes := by
  unfold Core.putPoison
  apply Core.bytes_foldl
  exact fun _ _ => rfl
@[simp] theorem Cmd.bytes_markLines (m : Cmd) (c : Core) (bad l) : (m.markLines c bad l).sram.bytes = c.sram.bytes := by
  simp [Cmd.markLines]
@[simp] theorem Core.bytes_ringDone (c : Core) (m) : (c.ringDone m).sram.bytes = c.sram.bytes := by
  unfold Core.ringDone
  split <;> simp
@[simp] theorem Core.bytes_softError (c : Core) (line double) : (c.softError line double).sram.bytes = c.sram.bytes := by
  unfold Core.softError
  split
  · rfl
  · split <;> rfl

@[simp] theorem Core.sram_landAfill (c : Core) (o rns acc j) : (c.landAfill o rns acc j).1.sram = c.sram := rfl

section
variable {c : Core} (h : Memory.wf c.sram.bytes = true)
include h

/-- Of the results that land only a store writes the scratchpad. -/
@[simp] theorem Core.wf_land (f later) : Memory.wf (c.land f later).sram.bytes = true := by
  unfold Core.land
  split
  case h_3 => rwa [Core.sram_landV]
  case h_4 => rwa [Core.sram_landV, Core.sram_landV]
  case h_5 =>
    dsimp only
    split <;> exact h
  case h_6 => exact Sram.wf_store _ _ _ _ h
  all_goals exact h
@[simp] theorem Core.wf_landAll (l) : Memory.wf (c.landAll l).sram.bytes = true := by
  induction l generalizing c with
  | nil => exact h
  | cons f r ih => exact ih (Core.wf_land h f r)
@[simp] theorem Core.wf_landCycle : Memory.wf c.landCycle.sram.bytes = true := by
  unfold Core.landCycle
  exact Core.wf_landAll (by simpa using h) _

@[simp] theorem Core.wf_putBytes (l) : Memory.wf (c.putBytes l).sram.bytes = true :=
  Core.wf_foldl (fun _ _ => Sram.wf_poke _ _) l h
@[simp] theorem Core.wf_putChunk (a x) : Memory.wf (c.putChunk a x).sram.bytes = true := by
  have hc := Core.wf_foldl (f := fun c i => { c with sram := c.sram.poke (c.ctx.phys (a + i)) (BitVec.ofNat 8 (x.value / 256 ^ i)) })
    (fun _ _ => Sram.wf_poke _ _) (List.range x.n) h
  unfold Core.putChunk
  split
  · rwa [Core.bytes_putPoison]
  · exact hc

@[simp] theorem Core.wf_drainLine (o a data pois fj) : Memory.wf (c.drainLine o a data pois fj).sram.bytes = true := by
  unfold Core.drainLine
  simp [h]
@[simp] theorem Core.wf_landDrain (o k acc j) : Memory.wf (c.landDrain o k acc j).sram.bytes = true := by
  unfold Core.landDrain
  simp [h]
@[simp] theorem Core.wf_mland (t fresh hold o) : Memory.wf (c.mland t fresh hold o).1.sram.bytes = true := by
  unfold Core.mland
  split
  case h_1 => simp [h]
  case h_2 => simp [h]
  case h_3 => split <;> exact h
  case h_4 =>
    split
    · split
      · simp [h]
      · exact h
    · exact h
  case h_5 =>
    split
    · rw [Core.sram_onRegionId, Core.sram_foldl fun _ _ => Core.sram_keep _ _ _ _]
      exact h
    · exact h
  case h_6 =>
    split
    · rwa [Core.sram_landAfill]
    · exact h
  case h_7 => simp [apply_ite Prod.fst, h]
  case h_8 => simp [apply_ite Prod.fst, h]
/-- Operations that land one after another; whatever the rest of a pair, its core keeps the canonical form. -/
theorem Core.wf_foldl_fst {α β : Type} {f : Core × β → α → Core × β}
    (hf : ∀ p x, Memory.wf p.1.sram.bytes = true → Memory.wf (f p x).1.sram.bytes = true)
    (l : List α) {b : β} : Memory.wf (l.foldl f (c, b)).1.sram.bytes = true := by
  suffices ∀ p : Core × β, Memory.wf p.1.sram.bytes = true → Memory.wf (l.foldl f p).1.sram.bytes = true from this _ h
  intro p hp
  induction l generalizing p with
  | nil => exact hp
  | cons x l ih => exact ih _ (hf p x hp)
@[simp] theorem Core.wf_matrixCycle (fresh hold) : Memory.wf (c.matrixCycle fresh hold).sram.bytes = true := by
  unfold Core.matrixCycle
  rw [Core.sram_onRun]
  apply Core.wf_foldl_fst
  case hf => exact fun p o hp => Core.wf_mland hp _ _ _ o
  rwa [Core.sram_foldl fun _ _ => Core.sram_latePoison _ _ _ _]

/-- Of the steps taken back only that of a store writes the scratchpad. -/
@[simp] theorem Core.wf_undoStep (u) : Memory.wf (c.undoStep u).sram.bytes = true := by
  unfold Core.undoStep
  split
  case h_6 =>
    dsimp only
    exact Memory.wf_memPutMask _ _ _ _ h
  all_goals exact h
@[simp] theorem Core.wf_unwindRegion (r) : Memory.wf (c.unwindRegion r).sram.bytes = true := by
  simpa [Core.unwindRegion] using Core.wf_foldl (fun _ u hc => Core.wf_undoStep hc u.what) _ h
@[simp] theorem Core.wf_scatter (all draw l i) : Memory.wf (c.scatter all draw l i).sram.bytes = true := by
  unfold Core.scatter
  dsimp only
  split
  case h_2 => split <;> exact h
  case h_6 => split <;> exact Sram.wf_store _ _ _ _ h
  all_goals exact h
@[simp] theorem Core.wf_scatterAll (l draw) : Memory.wf (c.scatterAll l draw).sram.bytes = true :=
  Core.wf_foldl (fun _ p hc => Core.wf_scatter hc l draw p.1 p.2) _ h
@[simp] theorem Core.wf_trapClear (id) : Memory.wf (c.trapClear id).sram.bytes = true := by
  unfold Core.trapClear
  rw [Core.sram_onRun]
  exact Core.wf_foldl (fun _ r hc => Core.wf_unwindRegion hc r) _ h
@[simp] theorem Core.wf_rewind (id draw) : Memory.wf (c.rewind id draw).1.sram.bytes = true := by
  have hc : ∀ u, Memory.wf (((c.run.regions.filter (id ≤ ·.id)).foldl Core.unwindRegion c).scatterAll u draw).sram.bytes = true :=
    fun u => Core.wf_scatterAll (Core.wf_foldl (fun _ r hc => Core.wf_unwindRegion hc r) _ h) u draw
  unfold Core.rewind
  dsimp only
  split
  · exact hc _
  · rw [Core.sram_onRun, Core.sram_foldl Core.sram_undoNames, Core.sram_onCtx]
    exact hc _
@[simp] theorem Core.wf_discard : Memory.wf c.discard.sram.bytes = true := by
  unfold Core.discard
  split
  · exact Core.wf_trapClear h _
  · exact h
@[simp] theorem Core.wf_enterHandler (t restart) : Memory.wf (c.enterHandler t restart).sram.bytes = true := by
  unfold Core.enterHandler
  simp [h]
end

end Sys2Proof.Machine
end

section
/-! SUPPORT. The invariant of the machine (R12, R187) and the rules by which a change of the state keeps it. A lemma ok_f says
that f keeps the invariant; what f does is then not looked at again. -/

namespace Sys2Proof.Machine

/-- What the invariant says of the memories, the HPAT registers and the cores of a state (R12, R187). -/
structure Invariant (hbm host : Mem) (hpat : Vector Word 8) (cores : Vector Core 384) : Prop where
  hbm : Memory.wf hbm = true
  host : Memory.wf host = true
  hpat : (hpat[0] == 0 && hpat.toList.all fun v => !hpatBad v) = true
  sram : ∀ k : CoreId, Memory.wf cores[k].sram.bytes = true
/-- A state that meets the invariant. -/
def State.Ok (s : State) : Prop := Invariant s.hbm s.host s.hpat s.cores
/-- The invariant is the three conditions of the statement. -/
theorem State.ok_iff (s : State) :
    s.Ok ↔ s.memOk = true ∧ s.hpatOk = true ∧ ∀ k : CoreId, Memory.wf s.cores[k].sram.bytes = true := by
  constructor
  · intro h
    exact ⟨by simp [State.memOk, h.hbm, h.host], h.hpat, h.sram⟩
  · rintro ⟨hm, hp, hs⟩
    obtain ⟨hb, ho⟩ := Bool.and_eq_true_iff.1 hm
    exact ⟨hb, ho, hp, hs⟩
/-- A step that goes on does so to a state that meets the invariant. -/
def OkOut : Out → Prop
  | .next t => t.Ok
  | _ => True
@[simp] theorem okOut_next (t : State) : OkOut (.next t) = t.Ok := rfl
/-- What changes neither the memories outside the cores, nor the HPAT registers, nor a core, keeps the invariant. -/
@[simp] theorem State.ok_mk (s : State) (now cur arg todo agenda free powered ready pagePoison dram quiet asleep writeback inbox isles
    sites shoots sync sems bars seq logs tasks launches groups nextLaunch queues lastQueue orders events evcount mgmt life reply
    answers brought sentFab) :
    State.Ok ⟨now, cur, arg, todo, agenda, free, powered, ready, s.cores, s.hbm, pagePoison, s.host, s.hpat, dram, quiet, asleep,
      writeback, inbox, isles, sites, shoots, sync, sems, bars, seq, logs, tasks, launches, groups, nextLaunch, queues, lastQueue,
      orders, events, evcount, mgmt, life, reply, answers, brought, sentFab⟩ = s.Ok := by
  unfold State.Ok
  rfl
/-- The scratchpad of a core of a state that meets the invariant. -/
@[simp] theorem State.ok_sram {s : State} (hs : s.Ok) (n : Nat) (hn : n < 384) : Memory.wf s.cores[n].sram.bytes = true :=
  hs.sram ⟨n, hn⟩
/-- A change of one core keeps the invariant where it keeps the core's scratchpad canonical. -/
@[simp] theorem State.ok_onCore {s : State} (hs : s.Ok) (k : CoreId) (f : Core → Core) :
    (s.onCore k f).Ok = (Memory.wf (f s.cores[k]).sram.bytes = true) := by
  refine propext ⟨fun g => ?_, fun hf => ⟨hs.hbm, hs.host, hs.hpat, fun j => ?_⟩⟩
  · simpa [State.onCore] using g.sram k
  · by_cases e : k = j
    · subst e
      simpa [State.onCore] using hf
    · have e' : (k : Nat) ≠ j := fun x => e (Fin.ext x)
      simpa [State.onCore, e'] using hs.sram j
@[simp] theorem State.ok_onCur {s : State} (hs : s.Ok) (f : Core → Core) :
    (s.onCur f).Ok = (Memory.wf (f s.cores[s.cur]).sram.bytes = true) := State.ok_onCore hs s.cur f
/-- Of a choice between two states, for simp; `State.ok_if` is the same as a rule. -/
@[simp] theorem State.ok_ite (p : Prop) [Decidable p] (a b : State) : (if p then a else b).Ok = if p then a.Ok else b.Ok :=
  apply_ite State.Ok p a b
/-- A chain of changes, each of which keeps the invariant. -/
theorem State.ok_foldl {α : Type} {f : State → α → State} (hf : ∀ s x, s.Ok → (f s x).Ok) (l : List α) {s : State} (hs : s.Ok) :
    (l.foldl f s).Ok := by
  induction l generalizing s with
  | nil => exact hs
  | cons x l ih => exact ih (hf s x hs)
/-- The rule for a change of a core that keeps any canonical scratchpad canonical. -/
theorem State.ok_onCore_of {s : State} {k : CoreId} {f : Core → Core}
    (hf : ∀ c, Memory.wf c.sram.bytes = true → Memory.wf (f c).sram.bytes = true) (hs : s.Ok) : (s.onCore k f).Ok := by
  rw [State.ok_onCore hs]
  exact hf _ (hs.sram k)
theorem State.ok_onCur_of {s : State} {f : Core → Core}
    (hf : ∀ c, Memory.wf c.sram.bytes = true → Memory.wf (f c).sram.bytes = true) (hs : s.Ok) : (s.onCur f).Ok := State.ok_onCore_of hf hs
theorem State.ok_if {p : Prop} [Decidable p] {a b : State} (ha : a.Ok) (hb : b.Ok) : (if p then a else b).Ok := by
  split
  · exact ha
  · exact hb
theorem okOut_if {p : Prop} [Decidable p] {a b : Out} (ha : OkOut a) (hb : OkOut b) : OkOut (if p then a else b) := by
  split
  · exact ha
  · exact hb
theorem State.ok_setHbm {s : State} (hs : s.Ok) {m : Mem} (hm : Memory.wf m = true) : ({ s with hbm := m } : State).Ok :=
  ⟨hm, hs.host, hs.hpat, hs.sram⟩
theorem State.ok_setHost {s : State} (hs : s.Ok) (a v n : Nat) : ({ s with host := memPut s.host a v n } : State).Ok :=
  ⟨hs.hbm, Memory.wf_memPut _ _ _ hs.host, hs.hpat, hs.sram⟩
/-- A core given another content with the same scratchpad. -/
theorem State.ok_setCore {s : State} {k : CoreId} {c : Core} (hs : s.Ok) (h : c.sram = s.cores[k].sram) : (s.onCore k fun _ => c).Ok := by
  rw [State.ok_onCore hs, h]
  exact hs.sram k
/-- Scratchpad pitches filled with zeros keep the canonical form. -/
theorem Sram.wf_zeroPitches (ps : List (Fin 64)) {m : Sram} (h : Memory.wf m.bytes = true) :
    Memory.wf (ps.foldl Sram.zeroPitch m).bytes = true := by
  induction ps generalizing m with
  | nil => exact h
  | cons p ps ih =>
    rw [List.foldl_cons]
    exact ih (Sram.wf_zeroPitch p h)
/-- Bytes written one by one keep the canonical form. -/
theorem Memory.wf_foldl_memSet (l : List (Nat × Byte)) (n : Nat) {m : Mem} (h : Memory.wf m = true) :
    Memory.wf (l.foldl (fun m p => memSet m (n + p.1) p.2) m) = true := by
  induction l generalizing m with
  | nil => exact h
  | cons p l ih => exact ih (Memory.wf_memSet _ _ h)
/-- Every core of the reset state is a core at reset. -/
theorem reset_core (k : CoreId) : State.reset.cores[k] = Core.reset := by simp [State.reset]
/-- The state at reset meets the invariant. -/
theorem reset_ok : State.reset.Ok := by
  refine ⟨rfl, rfl, by decide, fun k => ?_⟩
  rw [reset_core]
  rfl

end Sys2Proof.Machine
end

section
/-! SUPPORT. The invariant is kept by translation, by the engines and by the channels. -/

namespace Sys2Proof.Machine

/-- The checks of what is read touch neither a memory outside the cores, nor an HPAT register, nor a core. -/
theorem State.Checks.ok {s t : State} (h : s.Checks t) (hs : s.Ok) : t.Ok := by
  obtain ⟨f, w, p, e, n, c, rfl, -⟩ := h
  exact hs
/-! ### Control and management instructions -/

@[simp] theorem State.ok_setDropped {s : State} (x v) (hs : s.Ok) : (s.setDropped x v).Ok := hs
@[simp] theorem State.ok_dropCached {s : State} (k) (hs : s.Ok) : (s.dropCached k).Ok :=
  State.ok_foldl (fun _ x hs => State.ok_setDropped x true hs) _ ⟨hs.hbm, hs.host, hs.hpat, fun k => by simpa using hs.sram k⟩

/-! ### Translation and what it keeps -/

@[simp] theorem State.ok_onTask {s : State} (tid f) (hs : s.Ok) : (s.onTask tid f).Ok := hs
theorem State.ok_writeVa {s : State} (sp va n v) (hs : s.Ok) : ∀ t, s.writeVa sp va n v = .ok t → t.Ok := by
  intro t ht
  unfold State.writeVa at ht
  split at ht
  · cases ht
  · cases ht
    exact ⟨Memory.wf_hbmPut _ _ _ _ hs.hbm, hs.host, hs.hpat, hs.sram⟩

/-! ### Vector memory -/

@[simp] theorem State.ok_draw {s : State} (hs : s.Ok) : (s.draw).Ok := hs

/-! ### The agenda, events and what is read and written by the device -/

@[simp] theorem State.ok_soon {s : State} (l) (hs : s.Ok) : (s.soon l).Ok := hs
@[simp] theorem State.ok_first {s : State} (l) (hs : s.Ok) : (s.first l).Ok := hs
@[simp] theorem State.ok_atClock {s : State} (t d) (hs : s.Ok) : (s.atClock t d).Ok := hs
@[simp] theorem State.ok_later {s : State} (d) (hs : s.Ok) : (s.later d).Ok := hs
@[simp] theorem State.ok_cross {s : State} (k j d) (hs : s.Ok) : (s.cross k j d).Ok := State.ok_atClock _ _ (by simp [hs])
theorem State.ok_crossIf {s : State} {p : Prop} [Decidable p] (k j d) (hs : s.Ok) : (if p then s.cross k j d else s).Ok :=
  State.ok_if (State.ok_cross k j d hs) hs
@[simp] theorem State.ok_wake {s : State} (k) (hs : s.Ok) : (s.wake k).Ok := hs
@[simp] theorem State.ok_respond {s : State} (m a) (hs : s.Ok) : (s.respond m a).Ok := hs
@[simp] theorem State.ok_number {s : State} (hs : s.Ok) : (s.number).2.Ok := hs
@[simp] theorem State.ok_event {s : State} (code kind source d0 d1) (hs : s.Ok) : (s.event code kind source d0 d1).Ok := hs
@[simp] theorem State.ok_eventOpen {s : State} (code kind source) (hs : s.Ok) : (s.eventOpen code kind source).Ok := hs
@[simp] theorem State.ok_poisonPage {s : State} (dpa) (hs : s.Ok) : (s.poisonPage dpa).Ok := by simp [State.poisonPage, hs]
@[simp] theorem State.ok_checkAtom {s : State} (chan dpa) (hs : s.Ok) : (s.checkAtom chan dpa).Ok := (State.checks_checkAtom ..).ok hs
@[simp] theorem State.ok_checkWalk {s : State} (sp va) (hs : s.Ok) : (s.checkWalk sp va).Ok := (State.checks_checkWalk ..).ok hs
@[simp] theorem State.ok_checkSpace {s : State} (tag) (hs : s.Ok) : (s.checkSpace tag).Ok := (State.checks_checkSpace ..).ok hs
@[simp] theorem State.ok_checkVa {s : State} (sp va n) (hs : s.Ok) : (s.checkVa sp va n).Ok := (State.checks_checkVa ..).ok hs
@[simp] theorem State.ok_areaPut {s : State} (i off n v) (hs : s.Ok) : (s.areaPut i off n v).Ok := by
  unfold State.areaPut
  split
  · exact hs
  · split
    · exact State.ok_writeVa _ _ _ _ hs _ ‹_›
    · exact hs
@[simp] theorem State.ok_checkBytes {s : State} (i off n) (hs : s.Ok) : (s.checkBytes i off n).Ok := (State.checks_checkBytes ..).ok hs
@[simp] theorem State.ok_checkArea {s : State} (i l) (hs : s.Ok) : (s.checkArea i l).Ok := (State.checks_checkArea ..).ok hs
@[simp] theorem State.ok_checkStores {s : State} (i l) (hs : s.Ok) : (s.checkStores i l).Ok := (State.checks_checkStores ..).ok hs
@[simp] theorem State.ok_checkTask {s : State} (t a n) (hs : s.Ok) : (s.checkTask t a n).Ok := (State.checks_checkTask ..).ok hs
@[simp] theorem State.ok_checkLines {s : State} (t a n) (hs : s.Ok) : (s.checkLines t a n).Ok := (State.checks_checkLines ..).ok hs
@[simp] theorem State.ok_checkTags {s : State} (t) (hs : s.Ok) : (s.checkTags t).Ok := (State.checks_checkTags ..).ok hs
@[simp] theorem State.ok_taskPoke {s : State} (t a b) (hs : s.Ok) : (s.taskPoke t a b).Ok := by unfold State.taskPoke; split <;> simp [hs]
@[simp] theorem State.ok_taskPut {s : State} (t a v n) (hs : s.Ok) : (s.taskPut t a v n).Ok := by
  induction n generalizing s a v with
  | zero => exact hs
  | succ n ih => exact ih (a + 1) (v / 256) (State.ok_taskPoke t a _ hs)
@[simp] theorem State.ok_taskPoisonPut {s : State} (t a v) (hs : s.Ok) : (s.taskPoisonPut t a v).Ok := by
  unfold State.taskPoisonPut
  split <;> simp [hs]
@[simp] theorem State.ok_taskTag {s : State} (t tag status) (hs : s.Ok) : (s.taskTag t tag status).Ok := by
  unfold State.taskTag
  split
  · simp [hs]
  · exact State.ok_areaPut _ _ _ _ (State.ok_areaPut _ _ _ _ (State.ok_areaPut _ _ _ _ hs))
@[simp] theorem State.ok_accept {s : State} (t) (hs : s.Ok) : (s.accept t).Ok := by simp [State.accept, hs]

/-! ### Copy engines -/

@[simp] theorem State.ok_setCmd {s : State} (k m) (hs : s.Ok) : (s.setCmd k m).Ok := by simp [State.setCmd, hs]
@[simp] theorem State.ok_dropRecords {s : State} (dpa n) (hs : s.Ok) : (s.dropRecords dpa n).Ok :=
  State.ok_foldl (fun _ x hs => State.ok_setDropped x true hs) _ hs
@[simp] theorem State.ok_completes {s : State} (k m) (hs : s.Ok) : (s.completes k m).Ok := by simp [State.completes, hs]
@[simp] theorem State.ok_goOn {s : State} (k m) (hs : s.Ok) : (s.goOn k m).Ok := by simp [State.goOn, hs]
@[simp] theorem State.ok_halt {s : State} (k m status) (hs : s.Ok) : (s.halt k m status).Ok := by simp [State.halt, hs]
@[simp] theorem State.ok_runCmd {s : State} (k m) (hs : s.Ok) : (s.runCmd k m).Ok := by
  have hf : ∀ l : List (Nat), ∀ i, (l.foldl (fun (s : State) x => s.later (.dev .readAtomWrite (.atom k i x))) s).Ok :=
    fun l i => State.ok_foldl (fun _ _ hs => State.ok_later _ hs) l hs
  unfold State.runCmd
  dsimp only
  refine State.ok_if (State.ok_setCmd k m hs) ?_
  split
  · exact State.ok_goOn _ _ (State.ok_setCmd _ _ (hf _ _))
  · exact State.ok_setCmd _ _ (hf _ _)
  · exact State.ok_atClock _ _ (State.ok_setCmd _ _ (hf _ _))
  · exact State.ok_setCmd _ _ (hf _ _)
  · exact State.ok_halt _ _ _ (hf _ _)
@[simp] theorem State.ok_launchCmd {s : State} (k m held) (hs : s.Ok) : (s.launchCmd k m held).Ok := by
  have hm := State.ok_setCmd k m hs
  unfold State.launchCmd
  dsimp only
  split <;> simp [hm]
@[simp] theorem State.ok_planCmd {s : State} (k m bits held) (hs : s.Ok) : (s.planCmd k m bits held).Ok := by
  unfold State.planCmd
  dsimp only
  (repeat' split) <;> simp [hs]
@[simp] theorem State.ok_startCmd {s : State} (k m) (hs : s.Ok) : (s.startCmd k m).Ok := by
  have hc : (s.soon [devCore .copyStart k]).Ok := hs
  unfold State.startCmd
  dsimp only
  split
  · exact State.ok_runCmd _ _ hc
  · split
    · exact State.ok_goOn _ _ (State.ok_setCmd _ _ hc)
    · split
      · exact State.ok_planCmd _ _ _ _ hs
      · exact State.ok_runCmd _ _ hc
@[simp] theorem State.ok_bring {s : State} (k m a) (hs : s.Ok) : (s.bring k m a).Ok := by
  unfold State.bring
  split
  · exact State.ok_setCmd _ _ (by simp [hs])
  · exact State.ok_setCmd _ _ (by simp [hs])
  · exact State.ok_setCmd _ _ hs
  · exact State.ok_setCmd _ _ hs
@[simp] theorem State.ok_walked {s : State} (k m a i) (hs : s.Ok) : (s.walked k m a i).Ok := by
  unfold State.walked
  dsimp only
  (repeat' split) <;> simp [hs]
@[simp] theorem State.ok_recorded {s : State} (k m) (hs : s.Ok) : (s.recorded k m).Ok := by
  unfold State.recorded
  (repeat' split) <;> simp [hs]
@[simp] theorem State.ok_shootFree {s : State} (k id) (hs : s.Ok) : (s.shootFree k id).Ok := hs
@[simp] theorem State.ok_leaveEngine {s : State} (k m) (hs : s.Ok) : (s.leaveEngine k m).Ok := by
  unfold State.leaveEngine
  dsimp only
  refine State.ok_wake k (State.ok_foldl (fun _ q hs => State.ok_completes k q hs) _ ?_)
  refine State.ok_first _ (State.ok_setDropped _ _ (State.ok_shootFree _ _ ?_))
  rw [State.ok_onCore hs]
  split <;> simp [hs]
@[simp] theorem State.ok_finishCopy {s : State} (k m) (hs : s.Ok) : (s.finishCopy k m).Ok := by
  refine State.ok_leaveEngine k _ (State.ok_foldl (fun s p hs => ?_) _ hs)
  exact State.ok_event _ _ _ _ _ hs
@[simp] theorem State.ok_endStale {s : State} (k m) (hs : s.Ok) : (s.endStale k m).Ok := by simp [State.endStale, hs]
@[simp] theorem State.ok_put {s : State} (m va b) (hs : s.Ok) : (s.put m va b).Ok := by
  unfold State.put
  split
  · exact hs
  · split
    · exact ⟨hs.hbm, Memory.wf_memSet _ _ hs.host, hs.hpat, hs.sram⟩
    · exact hs
@[simp] theorem State.ok_sendAtom {s : State} (k m i a) (hs : s.Ok) : (s.sendAtom k m i a).Ok := by
  have hd := State.ok_draw hs
  unfold State.sendAtom
  refine State.ok_if ?_ (State.ok_if (State.ok_halt _ _ _ hd) (State.ok_if (State.ok_halt _ _ _ hd) ?_))
  · exact State.ok_halt _ _ _ (State.ok_foldl (fun s x hs => State.ok_if (State.ok_put _ _ _ hs) hs) _ hd)
  · have ht := fun m' => State.ok_setCmd k m' (State.ok_foldl (fun d (p : Nat × Nat) hd => State.ok_put m (a.va + p.1)
      (memGet s.cores[k].sram.bytes (s.cores[k].ctx.phys p.2)) hd) a.moves hd)
    exact State.ok_if (State.ok_completes _ _ (ht _)) (State.ok_later _ (ht _))
@[simp] theorem State.ok_moveUnit {s : State} (k m i a) (hs : s.Ok) : (s.moveUnit k m i a).Ok := by
  have check : ∀ {s : State}, s.Ok → ∀ (o : Option Task) x, ((o.map fun t => s.checkTask t x 32).getD s).Ok := by
    intro s hs o x
    cases o <;> simp [hs]
  unfold State.moveUnit
  dsimp only
  refine State.ok_setCmd _ _ (State.ok_draw ?_)
  split
  · exact check (check hs _ _) _ _
  · refine State.ok_foldl (fun _ _ hs => by simp [hs]) _ (State.ok_foldl (fun _ _ hs => by simp [hs]) _ ?_)
    exact check (check hs _ _) _ _
@[simp] theorem State.ok_towards {s : State} (a d) (hs : s.Ok) : (s.towards a d).Ok := by unfold State.towards; split <;> simp [hs]

/-! ### HBM channels -/

@[simp] theorem State.ok_setDram {s : State} (d) (hs : s.Ok) : (s.setDram d).Ok := hs
@[simp] theorem State.ok_activate {s : State} (ch dpa) (hs : s.Ok) : (s.activate ch dpa).Ok := by
  unfold State.activate
  dsimp only
  split
  · split
    · exact hs
    · split
      · exact State.ok_eventOpen _ _ _ hs
      · exact hs
  · exact hs
@[simp] theorem State.ok_slip {s : State} (x counted) (hs : s.Ok) : (s.slip x counted).Ok := by simp [State.slip, hs]
@[simp] theorem State.ok_serveRead {s : State} (x m) (hs : s.Ok) : (s.serveRead x m).Ok := by
  unfold State.serveRead
  exact State.ok_atClock _ _ (State.ok_soon _ (State.ok_foldl (fun _ _ hs => State.ok_bring _ _ _ hs) _
    (State.ok_setCmd _ _ (State.ok_checkAtom _ _ hs))))
@[simp] theorem State.ok_serveWrite {s : State} (x m) (hs : s.Ok) : (s.serveWrite x m).Ok := by
  have hb := State.ok_setHbm hs (Memory.wf_foldl_memSet (m.writeBytes s.cores[x.core] x.atom) x.atom.cell hs.hbm)
  have hd := fun (u : State) m' (hu : u.Ok) => State.ok_dropRecords x.atom.dpa 32 (State.ok_setCmd x.core m' hu)
  unfold State.serveWrite
  exact State.ok_if (State.ok_first _ (hd _ _ (State.ok_if hb hb))) (hd _ _ (State.ok_if hb hb))
@[simp] theorem State.ok_serve {s : State} (x) (hs : s.Ok) : (s.serve x).Ok := by unfold State.serve; split <;> simp [hs]
@[simp] theorem State.ok_serveFirst {s : State} (behind n) (hs : s.Ok) : (s.serveFirst behind n).Ok := by
  induction n generalizing s with
  | nil => exact State.ok_foldl (fun _ x hs => State.ok_slip x true hs) _ hs
  | cons x rest ih =>
    unfold State.serveFirst
    dsimp only
    split
    · exact ih (State.ok_slip x true (State.ok_draw hs))
    · exact State.ok_serve x (State.ok_draw hs)
@[simp] theorem State.ok_serveInbound {s : State} (x) (hs : s.Ok) : (s.serveInbound x).Ok := by
  have ha := State.ok_activate x.chan x.dpa hs
  unfold State.serveInbound
  exact State.ok_respond _ _ (State.ok_dropRecords _ _ ⟨Memory.wf_memPutMask _ _ _ _ ha.hbm, ha.host, ha.hpat, ha.sram⟩)
@[simp] theorem State.ok_serveInbox {s : State} (ch) (hs : s.Ok) : (s.serveInbox ch).Ok := by unfold State.serveInbox; split <;> simp [hs]
@[simp] theorem State.ok_closeBank {s : State} (ch bank) (hs : s.Ok) : (s.closeBank ch bank).Ok := by
  unfold State.closeBank
  dsimp only
  split
  · exact hs
  · split
    · exact State.ok_eventOpen _ _ _ hs
    · exact hs

end Sys2Proof.Machine
end

section
/-! SUPPORT. The invariant is kept by logs, Weirs, groups and regions. -/

namespace Sys2Proof.Machine

/-! ### Logs -/

@[simp] theorem State.ok_onLog {s : State} (tid f) (hs : s.Ok) : (s.onLog tid f).Ok := hs
theorem State.ok_logPut {s : State} (sp va v n) (hs : s.Ok) : ∀ t, s.logPut sp va v n = .ok t → t.Ok := by
  intro t ht
  induction n generalizing s va v with
  | zero => cases ht; exact hs
  | succ n ih =>
    unfold State.logPut at ht
    split at ht
    · cases ht
    · exact ih _ _ (State.ok_writeVa _ _ _ _ hs _ ‹_›) ht
theorem State.ok_joinRec {s : State} (sp base born l r) (hs : s.Ok) : ∀ t, s.joinRec sp base born l r = .ok t → t.1.Ok := by
  intro t ht
  unfold State.joinRec at ht
  dsimp only at ht
  split at ht
  · cases ht
  · split at ht
    · cases ht
    · cases ht
      exact State.ok_logPut _ _ _ _ (State.ok_logPut _ _ _ _ hs _ ‹_›) _ ‹_›
theorem State.ok_joinRecs {s : State} (sp base born l n) (hs : s.Ok) : ∀ t, s.joinRecs sp base born l n = .ok t → t.1.Ok := by
  intro t ht
  induction n generalizing s l with
  | nil => cases ht; exact hs
  | cons r rest ih =>
    unfold State.joinRecs at ht
    split at ht
    · cases ht
    · next hr => exact ih _ (State.ok_joinRec _ _ _ _ _ hs _ hr) ht
@[simp] theorem State.ok_checkSpan {s : State} (sp va n) (hs : s.Ok) : (s.checkSpan sp va n).Ok := by simp [State.checkSpan, hs]
@[simp] theorem State.ok_checkSegment {s : State} (sp l seg) (hs : s.Ok) : (s.checkSegment sp l seg).Ok := by
  unfold State.checkSegment
  split
  · exact hs
  · exact State.ok_foldl (fun _ _ hs => State.ok_checkSpan _ _ _ hs) _ (State.ok_foldl (fun _ _ hs => State.ok_checkWalk _ _ hs) _ hs)
@[simp] theorem State.ok_joinSegment {s : State} (sp tid priv seg) (hs : s.Ok) : (s.joinSegment sp tid priv seg).Ok := by
  unfold State.joinSegment
  split
  · exact hs
  · split
    · exact hs
    · next l _ =>
      have hc := State.ok_checkSegment sp l seg hs
      dsimp only
      split
      · exact hc
      · exact hc
      · split
        · exact hc
        · next t _ ht =>
          have hj : (t, _).1.Ok := State.ok_joinRecs _ _ _ _ _ hc _ ht
          refine State.ok_foldl (fun s r hs => ?_) _ hj
          split <;> simp [hs]
@[simp] theorem State.ok_release {s : State} (tid n) (hs : s.Ok) : (s.release tid n).1.Ok := by unfold State.release; split <;> simp [hs]
@[simp] theorem State.ok_foldRec {s : State} (sp n r) (hs : s.Ok) : (s.foldRec sp n r).Ok := by
  have hc := State.ok_checkWalk sp r.addr.toNat hs
  unfold State.foldRec
  dsimp only
  split
  · exact hc
  · refine State.ok_setHbm (State.ok_foldl (fun u t hu => ?_) _ hc) (Memory.wf_hbmPut _ _ _ _ hc.hbm)
    exact State.ok_if (State.ok_onCore_of (fun _ hc => hc) hu) hu
@[simp] theorem State.ok_compact {s : State} (n) (hs : s.Ok) : (s.compact n).Ok := by
  unfold State.compact
  split
  · exact hs
  · exact State.ok_foldl (fun _ r hs => State.ok_foldRec _ n r hs) _ hs
@[simp] theorem State.ok_stale {s : State} (t detail) (hs : s.Ok) : (s.stale t detail).Ok := by
  unfold State.stale
  split
  · simp [hs, State.number]
  · simp [hs]
  · exact hs

/-! ### Weirs -/

@[simp] theorem State.ok_checkSync {s : State} (var) (hs : s.Ok) : (s.checkSync var).Ok := (State.checks_checkSync ..).ok hs
@[simp] theorem State.ok_syncPut {s : State} (var v) (hs : s.Ok) : (s.syncPut var v).Ok := by
  unfold State.syncPut
  split
  · exact ⟨Memory.wf_memPut _ _ _ hs.hbm, hs.host, hs.hpat, hs.sram⟩
  · exact hs
  · exact hs
@[simp] theorem State.ok_raise {s : State} (t up) (hs : s.Ok) : (s.raise t up).Ok := by simp [State.raise, hs]
@[simp] theorem State.ok_complete {s : State} (t tag addr word status up) (hs : s.Ok) : (s.complete t tag addr word status up).Ok := by
  have hr := State.ok_raise t up hs
  unfold State.complete
  refine State.ok_accept t (State.ok_taskTag t _ _ (State.ok_checkTags t ?_))
  have hw : (match word with
      | some w => ((s.raise t up).checkTask t addr 8).taskPut t addr w.toNat 8
      | none => s.raise t up : State).Ok := by
    cases word
    · exact hr
    · exact State.ok_taskPut _ _ _ _ (State.ok_checkTask _ _ _ hr)
  exact State.ok_if (State.ok_onCore_of (fun _ hc => hc) hw) hw
@[simp] theorem State.ok_answerBy {s : State} (j i t tag addr word status up) (hs : s.Ok) :
    (s.answerBy j i t tag addr word status up).Ok := by
  simp [State.answerBy, hs]
@[simp] theorem State.ok_answer {s : State} (t tag addr word status) (hs : s.Ok) : (s.answer t tag addr word status).Ok := by
  simp [State.answer, hs]
@[simp] theorem State.ok_grant {s : State} (var n) (hs : s.Ok) : (s.grant var n).Ok := by
  induction n generalizing s with
  | zero => exact hs
  | succ n ih =>
    unfold State.grant
    split
    · exact hs
    · dsimp only
      split
      · exact hs
      · apply ih
        split <;> simp [hs]
@[simp] theorem State.ok_failWaits {s : State} (var status) (hs : s.Ok) : (s.failWaits var status).Ok :=
  State.ok_foldl (fun s x hs => by split <;> simp [hs]) _ hs
@[simp] theorem State.ok_grants {s : State} (var) (hs : s.Ok) : (s.grants var).Ok := by simp [State.grants, hs]
@[simp] theorem State.ok_arrive {s : State} (w n) (hs : s.Ok) : (s.arrive w n).Ok := by
  unfold State.arrive
  dsimp only
  split
  · simp [hs]
  · refine State.ok_foldl (fun s x hs => ?_) _ (by simp [hs])
    split <;> simp [hs]
@[simp] theorem State.ok_withdraw {s : State} (tid status) (hs : s.Ok) : (s.withdraw tid status).Ok := by
  refine State.ok_foldl (fun _ v hs => State.ok_grants v hs) _ (State.ok_foldl (fun s w hs => ?_) _ hs)
  split <;> simp [hs]

/-! ### Groups -/

@[simp] theorem State.ok_sendCancel {s : State} (tid) (hs : s.Ok) : (s.sendCancel tid).Ok := by unfold State.sendCancel; split <;> simp [hs]
@[simp] theorem State.ok_onGroup {s : State} (h f) (hs : s.Ok) : (s.onGroup h f).Ok := hs
@[simp] theorem State.ok_putStatus {s : State} (t w) (hs : s.Ok) : (s.putStatus t w).Ok := by simp [State.putStatus, hs]
@[simp] theorem State.ok_mirror {s : State} (h tid) (hs : s.Ok) : (s.mirror h tid).Ok := by unfold State.mirror; split <;> simp [hs]
@[simp] theorem State.ok_sendStatus {s : State} (h l) (hs : s.Ok) : (s.sendStatus h l).Ok :=
  State.ok_foldl (fun s w hs => by dsimp only; split <;> simp [hs]) _ hs
@[simp] theorem State.ok_mirrors {s : State} (h) (hs : s.Ok) : (s.mirrors h).Ok := by unfold State.mirrors; split <;> simp [hs]
@[simp] theorem State.ok_emptyLogs {s : State} (g never) (hs : s.Ok) : (s.emptyLogs g never).Ok :=
  State.ok_foldl (fun _ _ hs => State.ok_onLog _ _ hs) _ hs
@[simp] theorem State.ok_setSlot {s : State} (h k v) (hs : s.Ok) : (s.setSlot h k v).Ok := by
  have hm := State.ok_mirrors h (State.ok_onGroup h (fun g => ({ g with slots := g.slots.set k v } : Group).settle) hs)
  unfold State.setSlot
  dsimp only
  split
  · have hl := fun g => State.ok_if (p := (s.groupOf h).any (·.placed) = true) hm (State.ok_emptyLogs g [k] hm)
    exact State.ok_if (State.ok_soon _ (State.ok_if (State.ok_soon _ (hl _)) (hl _))) (State.ok_if (State.ok_soon _ (hl _)) (hl _))
  · exact hm
@[simp] theorem State.ok_decideSlot {s : State} (h k v) (hs : s.Ok) : (s.decideSlot h k v).Ok := by
  unfold State.decideSlot
  split <;> simp [hs]
@[simp] theorem State.ok_cancelSibling {s : State} (h k) (hs : s.Ok) : (s.cancelSibling h k).Ok := by
  unfold State.cancelSibling
  split <;> simp [hs]
@[simp] theorem State.ok_cancelGroup {s : State} (h pendingOnly) (hs : s.Ok) : (s.cancelGroup h pendingOnly).Ok := by
  unfold State.cancelGroup
  split
  · exact hs
  · exact State.ok_foldl (fun s x hs => by simp [hs]) _ hs
@[simp] theorem State.ok_freeGroups {s : State} (hs : s.Ok) : (s.freeGroups).Ok := hs
@[simp] theorem State.ok_taskWords {s : State} (t a n) (hs : s.Ok) : (s.taskWords t a n).Ok := by
  induction n generalizing s a with
  | nil => exact hs
  | cons w r ih => exact ih (a + 4) (State.ok_taskPut t a w 4 hs)
@[simp] theorem State.ok_passBarrier {s : State} (g t) (hs : s.Ok) : (s.passBarrier g t).Ok := by
  unfold State.passBarrier
  refine State.ok_freeGroups (State.ok_sendStatus _ _ (State.ok_accept t ?_))
  refine State.ok_if (State.ok_onCore_of (fun c hc => by simpa using hc) ?_) ?_
  all_goals exact State.ok_mirror _ _ (State.ok_onGroup _ _ (State.ok_taskPut _ _ _ _ (State.ok_taskWords _ _ _
    (State.ok_checkLines _ _ _ hs))))

/-! ### Regions, records and commands -/

@[simp] theorem State.ok_writeLife {s : State} (minimum) (hs : s.Ok) : (s.writeLife minimum).Ok := hs
@[simp] theorem State.ok_suspect {s : State} (k) (hs : s.Ok) : (s.suspect k).Ok := by
  refine State.ok_event _ _ _ _ _ (State.ok_writeLife _ ?_)
  simp [hs]
@[simp] theorem State.ok_commitRegion {s : State} (k r) (hs : s.Ok) : (s.commitRegion k r).Ok := by
  have hj := State.ok_joinSegment (s.spaceOn k) s.cores[k].ctx.x.tid r.priv r.segment hs
  unfold State.commitRegion
  dsimp only
  split
  · split
    · exact State.ok_cancelGroup _ _ (State.ok_crossIf _ _ _ (State.ok_onCore_of (fun _ hc => hc) hj))
    · exact State.ok_crossIf _ _ _ (State.ok_onCore_of (fun _ hc => hc) hj)
  · exact State.ok_crossIf _ _ _ (State.ok_onCore_of (fun _ hc => hc) hj)
@[simp] theorem State.ok_mismatch {s : State} (k r) (hs : s.Ok) : (s.mismatch k r).Ok := by
  have hc := State.ok_onCore_of (s := s) (k := k) (f := fun c => (c.landFault r.id 0 (r.head.setWidth 48) .machineCheck 0
    (r.observed.setWidth 64)).onRun fun x => { x with trap := x.trap.map fun t =>
      { t with kind := if s.cores[k].ctx.retry then .normal else .retry } }) (fun c hc => by simpa using hc) hs
  exact State.ok_event _ _ _ _ _ (State.ok_if (State.ok_suspect k hc) hc)
@[simp] theorem State.ok_commitAll {s : State} (k n) (hs : s.Ok) : (s.commitAll k n).Ok := by
  induction n generalizing s with
  | zero => exact hs
  | succ n ih =>
    unfold State.commitAll
    dsimp only
    split
    · exact hs
    · split
      · exact hs
      · split
        · exact State.ok_mismatch k _ hs
        · exact ih (State.ok_commitRegion k _ hs)
@[simp] theorem State.ok_addRow {s : State} (t a clamp x pois) (hs : s.Ok) : (s.addRow t a clamp x pois).1.Ok := by
  have hp := State.ok_taskPut t a (ofElems (((List.range 128).map fun j =>
    drainAddElem clamp (elem (BitVec.ofNat 4096 ((s.checkLines t a 512).taskGet t a 512)) j) (elem x j)).map (·.1))).toNat 512
      (State.ok_checkLines t a 512 hs)
  exact State.ok_if (State.ok_taskPoisonPut _ _ _ (State.ok_taskPoisonPut _ _ _ hp)) hp
@[simp] theorem State.ok_onQueue {s : State} (q f) (hs : s.Ok) : (s.onQueue q f).Ok := hs
@[simp] theorem State.ok_rereadHeads {s : State} (hs : s.Ok) : (s.rereadHeads).Ok := hs
@[simp] theorem State.ok_slotFreed {s : State} (hs : s.Ok) : (s.slotFreed).Ok := hs
@[simp] theorem State.ok_putDone {s : State} (sp done state status code wear) (hs : s.Ok) :
    (s.putDone sp done state status code wear).Ok := by
  have hw := fun sp => State.ok_checkWalk sp done hs
  unfold State.putDone
  dsimp only
  split
  · exact hs
  · split
    · exact hs
    · split
      · exact State.ok_writeVa _ _ _ _ (hw _) _ ‹_›
      · exact hw _
@[simp] theorem State.ok_cancelLaunch {s : State} (n wear) (hs : s.Ok) : (s.cancelLaunch n wear).Ok :=
  State.ok_foldl (fun _ h hs => State.ok_cancelGroup h false hs) _ (State.ok_foldl (fun _ t hs => State.ok_sendCancel t.tid hs) _ hs)
@[simp] theorem State.ok_cancelBy {s : State} (tag addr) (hs : s.Ok) : (s.cancelBy tag addr).Ok := by
  have hl : ∀ {u : State}, u.Ok → ∀ l : List Nat, (l.foldl (fun s n => s.cancelLaunch n false) u).Ok :=
    fun hu l => State.ok_foldl (fun _ n hs => State.ok_cancelLaunch n false hs) l hu
  have hq : ∀ {u : State}, u.Ok → ∀ l : List (Fin 16), (l.foldl (fun s q =>
      (s.queues[q].named tag addr).foldl (fun s i => (s.onQueue q (·.free i)).putDone (s.spaceOf tag) addr.toNat 2 2 0 0) s) u).Ok := by
    intro u hu l
    refine State.ok_foldl (fun s q hs => State.ok_foldl (fun s i hs => ?_) _ hs) l hu
    exact State.ok_putDone _ _ _ _ _ _ hs
  unfold State.cancelBy
  refine State.ok_if (State.ok_slotFreed (State.ok_rereadHeads (hl (hq ?_ _) _))) (hl (hq ?_ _) _)
  all_goals exact State.ok_if (State.ok_checkSpace tag hs) hs
@[simp] theorem State.ok_setUnsent {s : State} (rest sent n) (hs : s.Ok) : (s.setUnsent rest sent n).Ok := by
  unfold State.setUnsent
  split <;> simp [hs]
@[simp] theorem State.ok_sendOver {s : State} (j a d) (hs : s.Ok) : (s.sendOver j a d).Ok := by unfold State.sendOver; split <;> simp [hs]
@[simp] theorem State.ok_dispatchCmd {s : State} (a tid e) (hs : s.Ok) : (s.dispatchCmd a tid e).Ok := by
  unfold State.dispatchCmd
  split <;> simp [hs]
@[simp] theorem State.ok_receive {s : State} (t e) (hs : s.Ok) : (s.receive t e).Ok := by
  unfold State.receive
  dsimp only
  split
  · split
    · exact hs
    · exact State.ok_accept t hs
  · exact State.ok_accept t (State.ok_cancelBy _ _ hs)
  · exact hs

end Sys2Proof.Machine
end

section
/-! SUPPORT. The invariant is kept by saving, stopping and resuming a task, and by traps. -/

namespace Sys2Proof.Machine

/-! ### Saving a context -/

@[simp] theorem State.ok_areaWrite {s : State} (i l) (hs : s.Ok) : (s.areaWrite i l).Ok :=
  State.ok_foldl (fun _ _ hs => State.ok_areaPut _ _ _ _ hs) _ hs
@[simp] theorem State.ok_leaveCore {s : State} (k) (hs : s.Ok) : (s.leaveCore k).Ok := by simp [State.leaveCore, hs]
@[simp] theorem State.ok_escalation {s : State} (k t tid) (hs : s.Ok) : (s.escalation k t tid).Ok := hs
@[simp] theorem State.ok_retire {s : State} (t wuc code faulted) (hs : s.Ok) : (s.retire t wuc code faulted).Ok := by
  have hr := State.ok_release t.tid s.number.1 (State.ok_number hs)
  have hw : ∀ {u : State}, u.Ok → (if t.group = 0 then u else match u.taskOf (parentOf t.tid) with
      | some p => if p.stand == .parked && !u.hasSiblings p.tid then u.soon [.dev .taskRetirement (.task p.tid)] else u
      | none => u : State).Ok := by
    intro u hu
    refine State.ok_if hu ?_
    split
    · exact State.ok_if (State.ok_soon _ hu) hu
    · exact hu
  unfold State.retire
  refine State.ok_if (State.ok_later _ (State.ok_later _ (hw ?_))) (State.ok_later _ (hw ?_))
  all_goals
    refine State.ok_if ?_ ?_
    all_goals exact State.ok_freeGroups (State.ok_if hr (State.ok_decideSlot _ _ _ hr))
@[simp] theorem State.ok_endSaved {s : State} (t wuc code faulted) (hs : s.Ok) : (s.endSaved t wuc code faulted).Ok := by
  simp [State.endSaved, hs]
@[simp] theorem State.ok_readWuc {s : State} (t) (hs : s.Ok) : (s.readWuc t).2.Ok := by simp [State.readWuc, hs]
@[simp] theorem State.ok_saveFault {s : State} (t wuc) (hs : s.Ok) : (s.saveFault t wuc).Ok := by
  have he := fun p => State.ok_escalation t.core (s := (s.eventOpen 0x30 1 (coreNumber t.core)).draw) p t.tid hs
  unfold State.saveFault
  exact State.ok_if (State.ok_onTask _ _ (State.ok_withdraw _ _ (he _))) (State.ok_endSaved _ _ _ _ (he _))
@[simp] theorem State.ok_areaFault {s : State} (t) (hs : s.Ok) : (s.areaFault t).Ok := by simp [State.areaFault, hs]
@[simp] theorem State.ok_writeOut {s : State} (tid i) (hs : s.Ok) : (s.writeOut tid i).Ok := by
  unfold State.writeOut
  split
  · exact hs
  · next t _ =>
    have hc := State.ok_checkStores t.area [areaPitch i, areaBits i, 0] hs
    split
    · simp [hc]
    · exact hs
@[simp] theorem State.ok_claimPitches {s : State} (k tid n) (hs : s.Ok) : (s.claimPitches k tid n).1.Ok :=
  State.ok_foldl (fun _ _ hs => State.ok_writeOut _ _ hs) _ hs
@[simp] theorem State.ok_loadPitch {s : State} (k area i p) (hs : s.Ok) : (s.loadPitch k area i p).Ok := by
  unfold State.loadPitch
  rw [State.ok_onCore hs]
  generalize 65536 = n
  exact Memory.wf_memPut _ _ _ (hs.sram k)

/-! ### Stopping and resuming a task -/

@[simp] theorem State.ok_stopCommands {s : State} (k) (hs : s.Ok) : (s.stopCommands k).Ok := by
  unfold State.stopCommands
  dsimp only
  refine State.ok_withdraw _ _ ?_
  split
  · exact hs
  · exact State.ok_foldl (fun _ _ hs => State.ok_halt _ _ _ hs) _ hs
@[simp] theorem State.ok_cancelSaved {s : State} (t) (hs : s.Ok) : (s.cancelSaved t).Ok := by
  have hc := State.ok_checkArea t.area [0x97000] hs
  unfold State.cancelSaved
  exact State.ok_soon _ (State.ok_withdraw _ _ hc)
@[simp] theorem State.ok_requestPreempt {s : State} (tid) (hs : s.Ok) : (s.requestPreempt tid).Ok := by
  unfold State.requestPreempt
  split
  · exact hs
  · exact State.ok_foldl (fun _ _ hs => State.ok_cross _ _ _ hs) _ hs
theorem State.ok_saveCtx {s : State} (k t kind rem stages restart) (hs : s.Ok) :
    ∀ u ∈ s.saveCtx k t kind rem stages restart, u.Ok := by
  intro u hu
  unfold State.saveCtx at hu
  dsimp only at hu
  split at hu
  · rw [Option.mem_some.1 hu.symm]
    exact State.ok_areaWrite _ _ hs
  · cases hu
@[simp] theorem State.ok_putAway {s : State} (k tid stand) (hs : s.Ok) : (s.putAway k tid stand).Ok := by simp [State.putAway, hs]
@[simp] theorem State.ok_park {s : State} (k t faulted) (hs : s.Ok) : (s.park k t faulted).Ok := by
  unfold State.park
  dsimp only
  have hc := State.ok_checkStores t.area (s.saveStores t) hs
  split
  · next u hu => exact State.ok_onTask _ _ (State.ok_putAway _ _ _ (State.ok_saveCtx _ _ _ _ _ _ hc u hu))
  · simp [hc]
@[simp] theorem State.ok_startCore {s : State} (k ctx run) (hs : s.Ok) : (s.startCore k ctx run).Ok := by simp [State.startCore, hs]
@[simp] theorem State.ok_bringPitches {s : State} (k t) (hs : s.Ok) : (s.bringPitches k t).1.Ok := by
  have hl : ∀ (l : List (PitchAt × Nat)) (x : State × List (Fin 64) × List (Fin 64)), x.1.Ok → (l.foldl (fun x p =>
      match p.1 with
      | .resident _ f => (x.1, x.2.1 ++ [f], x.2.2)
      | .saved => (x.1.loadPitch k t.area p.2 (x.2.2.headD 0), x.2.1 ++ [x.2.2.headD 0], x.2.2.drop 1)) x).1.Ok := by
    intro l x hx
    induction l generalizing x with
    | nil => exact hx
    | cons p l ih =>
      obtain ⟨p | p, i⟩ := p
      · exact ih _ hx
      · exact ih _ (State.ok_loadPitch _ _ _ _ hx)
  exact hl _ _ (State.ok_claimPitches _ _ _ hs)

/-! ### Traps -/

@[simp] theorem State.ok_afterUnwind {s : State} (k t head) (hs : s.Ok) : (s.afterUnwind k t head).Ok := by
  have hw : ∀ {f : Core → Core} {u : State}, (∀ c, (f c).sram = c.sram) → u.Ok → ((u.onCore k f).stopCommands k).Ok :=
    fun hf hu => State.ok_stopCommands k (State.ok_onCore_of (fun c hc => by rwa [hf c]) hu)
  unfold State.afterUnwind
  dsimp only
  refine State.ok_if (hw (fun c => by simp) hs) ?_
  split
  · simp [hs]
  · simp [hs]
  · exact State.ok_if (hw (fun c => by simp) (State.ok_escalation _ _ _ hs)) (by simp [hs])
@[simp] theorem State.ok_reloadTiles {s : State} (k resumed) (hs : s.Ok) : (s.reloadTiles k resumed).Ok := by
  unfold State.reloadTiles
  split <;> simp [hs]

end Sys2Proof.Machine
end

section
/-! SUPPORT. The invariant is kept by the host's port, the queues, the distributor and the management of the device. -/

namespace Sys2Proof.Machine

/-! ### Rights of a port -/

@[simp] theorem State.ok_portEvent {s : State} (code m) (hs : s.Ok) : (s.portEvent code m).Ok := hs
@[simp] theorem State.ok_openWindow {s : State} (hs : s.Ok) : (s.openWindow).Ok := hs
@[simp] theorem State.ok_lapse {s : State} (hs : s.Ok) : (s.lapse).Ok := hs
@[simp] theorem State.ok_freezePort {s : State} (m) (hs : s.Ok) : (s.freezePort m).Ok := by simp [State.freezePort, hs]
@[simp] theorem State.ok_manage {s : State} (m anyone granted fits) {f : State → State} (hs : s.Ok) (hf :
    (f s).Ok) : (s.manage m anyone granted fits f).Ok := by
  unfold State.manage
  split <;> simp [hs, hf]
@[simp] theorem State.ok_freezePeer {s : State} (peer port) (hs : s.Ok) : (s.freezePeer peer port).Ok := by simp [State.freezePeer, hs]
@[simp] theorem State.ok_fromPeer {s : State} (peer port permits) (hs : s.Ok) {f :
    Word → State} (hf : ∀ w, (f w).Ok) : (s.fromPeer peer port permits f).Ok := by
  unfold State.fromPeer
  simp [hs, hf]

/-! ### Queue heads -/

@[simp] theorem State.ok_applyImage {s : State} (k sp p) (hs : s.Ok) : (s.applyImage k sp p).Ok := by
  cases h : s.imageHead sp p with
  | none =>
    rw [State.applyImage, h]
    exact hs
  | some x =>
    rw [State.applyImage, h]
    exact State.ok_onCore_of (fun c hc => Core.wf_foldl (fun _ x hc => Core.wf_putChunk hc _ x) _ hc)
      (State.ok_draw (State.ok_foldl (fun _ _ hs => State.ok_if (State.ok_checkVa _ _ _ hs) hs) _ hs))
@[simp] theorem State.ok_dropHead {s : State} (q status) (hs : s.Ok) : (s.dropHead q status).Ok := by
  have hc := State.ok_checkSpace (recOf s.queues[q].record).owner hs
  exact State.ok_slotFreed (State.ok_rereadHeads (State.ok_putDone _ _ _ _ _ _ hc))
@[simp] theorem State.ok_checkImages {s : State} (sp r) (hs : s.Ok) : (s.checkImages sp r).Ok := by
  refine State.ok_foldl (fun s p hs => ?_) _ hs
  dsimp only
  split
  · split
    · exact State.ok_foldl (fun _ _ hs => State.ok_checkWalk sp _ hs) _ (State.ok_checkVa sp _ _ hs)
    · exact State.ok_checkVa sp _ _ hs
  · exact State.ok_checkVa sp _ _ hs
@[simp] theorem State.ok_checkHeads {s : State} (r) (hs : s.Ok) : (s.checkHeads r).Ok := by
  unfold State.checkHeads
  dsimp only
  have hc := State.ok_checkSpace r.owner hs
  split
  · exact hc
  · exact State.ok_checkImages _ _ (State.ok_foldl (fun _ _ hs => State.ok_checkWalk _ _ hs) _ hc)
@[simp] theorem State.ok_readWaits {s : State} (q) (hs : s.Ok) : (s.readWaits q).Ok := by
  unfold State.readWaits
  dsimp only
  have hc := State.ok_checkSpace (recOf s.queues[q].record).owner hs
  split
  · exact State.ok_dropHead q 1 hc
  · next sp _ =>
    have hw := State.ok_foldl (fun _ a hs => State.ok_checkVa sp a 8 hs) (recOf s.queues[q].record).waits hc
    split
    · exact State.ok_dropHead q 1 hw
    · exact hw

/-! ### The distributor -/

@[simp] theorem State.ok_onCand {s : State} (x f) (hs : s.Ok) : (s.onCand x f).Ok := by unfold State.onCand; split <;> simp [hs]
@[simp] theorem State.ok_openLog {s : State} (l tid n) (hs : s.Ok) : (s.openLog l tid n).Ok := by simp [State.openLog, hs]
@[simp] theorem State.ok_startTask {s : State} (k area l ctx) (hs : s.Ok) : (s.startTask k area l ctx).Ok := by
  unfold State.startTask
  refine State.ok_foldl (fun _ p hs => State.ok_applyImage k _ p hs) _ (State.ok_startCore _ _ _ ?_)
  refine State.ok_onCore_of (fun c hc => Sram.wf_zeroPitches _ hc) (State.ok_openLog _ _ _ ?_)
  exact State.ok_claimPitches k ctx.x.tid l.lrec.pitches (State.ok_number hs)
@[simp] theorem State.ok_startAll {s : State} (l n) (hs : s.Ok) : (s.startAll l n).Ok := by
  induction n generalizing s with
  | nil => exact hs
  | cons x r ih => exact ih (State.ok_startTask _ _ _ _ hs)
@[simp] theorem State.ok_placeHead {s : State} (q ks) (hs : s.Ok) : (s.placeHead q ks).Ok := by
  have hc := State.ok_checkHeads (s := { s with lastQueue := q }) (recOf s.queues[q].record) hs
  unfold State.placeHead
  dsimp only
  split
  · next sp n _ _ =>
    split
    · exact State.ok_dropHead _ _ hc
    · exact State.ok_slotFreed (State.ok_soon _ (State.ok_startAll _ _ (State.ok_putDone _ _ _ _ _ _ hc)))
  · exact State.ok_dropHead _ _ hc
@[simp] theorem State.ok_failGroup {s : State} (h) (hs : s.Ok) : (s.failGroup h).Ok := by
  unfold State.failGroup
  dsimp only
  refine State.ok_soon _ (State.ok_mirrors _ (State.ok_onGroup _ _ ?_))
  split <;> simp [hs]
@[simp] theorem State.ok_placeGroup {s : State} (h ks) (hs : s.Ok) : (s.placeGroup h ks).Ok := by
  unfold State.placeGroup
  split
  · exact hs
  · split
    · exact hs
    · next l _ =>
      have hc := State.ok_checkImages l.space l.lrec hs
      dsimp only
      split
      · exact State.ok_failGroup _ hc
      · exact State.ok_mirrors _ (State.ok_startAll _ _ (State.ok_emptyLogs _ _ hc))
theorem State.ok_tryPlace {s : State} (x held) (hs : s.Ok) : ∀ t ∈ s.tryPlace x held, t.Ok := by
  intro u hu
  unfold State.tryPlace at hu
  split at hu
  · cases hu
  · obtain ⟨ks, -, rfl⟩ := Option.map_eq_some_iff.1 hu
    split <;> simp [hs]
theorem State.ok_tryResume {s : State} (t) (hs : s.Ok) : ∀ u ∈ s.tryResume t, u.2.Ok := by
  intro u hu
  unfold State.tryResume at hu
  dsimp only at hu
  split at hu
  · cases hu
  · split at hu
    · cases hu
    · obtain ⟨p, -, rfl⟩ := Option.map_eq_some_iff.1 hu
      exact hs
theorem State.ok_firstPlace {s : State} (draw l n) (hs : s.Ok) : ∀ u ∈ s.firstPlace draw l n, u.2.Ok := by
  induction l generalizing n with
  | nil => exact fun u hu => by cases hu
  | cons x r ih =>
    intro u hu
    unfold State.firstPlace at hu
    split at hu
    · next t ht =>
      rw [← Option.mem_some.1 hu]
      exact State.ok_tryPlace _ _ hs t ht
    · exact ih _ u hu
@[simp] theorem State.ok_askOnce {s : State} (t) (hs : s.Ok) : (s.askOnce t).Ok := by simp [State.askOnce, hs]

/-! ### Management -/

@[simp] theorem State.ok_elect {s : State} (m prio code) (hs : s.Ok) : (s.elect m prio code).Ok := hs
@[simp] theorem State.ok_thawPort {s : State} (m) (hs : s.Ok) : (s.thawPort m).Ok := by simp [State.thawPort, hs]
@[simp] theorem State.ok_onMgmt {s : State} (f) (hs : s.Ok) : (s.onMgmt f).Ok := hs
@[simp] theorem State.ok_thawPeer {s : State} (peer) (hs : s.Ok) : (s.thawPeer peer).Ok := hs
@[simp] theorem State.ok_train {s : State} (m) (hs : s.Ok) : (s.train m).Ok := hs
@[simp] theorem State.ok_hostCheck {s : State} (a) (hs : s.Ok) : (s.hostCheck a).Ok := (State.checks_hostCheck ..).ok hs

/-! ### Wear, budgets and bring-up -/

@[simp] theorem State.ok_chargeTask {s : State} (born n) (hs : s.Ok) : (s.chargeTask born n).Ok := by
  unfold State.chargeTask
  split <;> simp [hs]
@[simp] theorem State.ok_budgetEvent {s : State} (kind source island old l) (hs : s.Ok) : (s.budgetEvent kind source island old l).Ok := by
  simp [State.budgetEvent, hs]
@[simp] theorem State.ok_coreBudget {s : State} (k) (hs : s.Ok) : (s.coreBudget k).Ok := by simp [State.coreBudget, hs]
@[simp] theorem State.ok_isleBudgets {s : State} (hs : s.Ok) : (s.isleBudgets).Ok := by
  unfold State.isleBudgets
  generalize List.range 256 = l
  exact State.ok_foldl (fun s n hs => State.ok_budgetEvent _ _ _ _ _ hs) _ hs
@[simp] theorem State.ok_coreInterval {s : State} (k temp drift amps) (hs : s.Ok) : (s.coreInterval k temp drift amps).Ok := by
  have hb := State.ok_coreBudget k hs
  unfold State.coreInterval
  dsimp only
  split
  · exact hb
  · split
    · simp [hb]
    · split
      · exact State.ok_chargeTask _ _ (by simp [hb])
      · simp [hb]
@[simp] theorem State.ok_checkWear {s : State} (l) (hs : s.Ok) : (s.checkWear l).Ok :=
  State.ok_foldl (fun s t hs => by simp [hs]) _ hs
@[simp] theorem State.ok_budget {s : State} (l) (hs : s.Ok) : (s.budget l).Ok := by
  have hc := State.ok_if (p := (l.lrec.wear != 0 && !l.overWear) = true) (State.ok_checkWear l hs) hs
  exact State.ok_if (State.ok_event _ _ _ _ _ (State.ok_cancelLaunch _ _ hc)) hc
@[simp] theorem State.ok_stateEvent {s : State} (k st) (hs : s.Ok) : (s.stateEvent k st).Ok := hs
@[simp] theorem State.ok_setCoreState {s : State} (k st) (hs : s.Ok) : (s.setCoreState k st).Ok := by
  refine State.ok_stateEvent _ _ (State.ok_writeLife _ ?_)
  simp [hs]
@[simp] theorem State.ok_spoilCopy {s : State} (i) (hs : s.Ok) : (s.spoilCopy i).Ok := hs
@[simp] theorem State.ok_bringFail {s : State} (n what) (hs : s.Ok) : (s.bringFail n what).Ok := hs
@[simp] theorem State.ok_calibrate {s : State} (draw) (hs : s.Ok) : (s.calibrate draw).1.Ok := by
  unfold State.calibrate
  dsimp only
  refine State.ok_foldl (fun _ n hs => State.ok_bringFail 3 n hs) _ (State.ok_foldl (fun s k hs => ?_) _ ?_)
  · split
    · exact State.ok_bringFail _ _ (by simp [hs])
    · exact hs
  · exact ⟨hs.hbm, hs.host, hs.hpat, fun k => by simpa using hs.sram k⟩
@[simp] theorem State.ok_checkCopy {s : State} (i decayed) (hs : s.Ok) : (s.checkCopy i decayed).Ok := by simp [State.checkCopy, hs]
@[simp] theorem State.ok_readLife {s : State} (x) (hs : s.Ok) : (s.readLife x).Ok := by
  unfold State.readLife
  dsimp only
  refine State.ok_foldl (fun _ k hs => State.ok_stateEvent k .retired hs) _ ?_
  have hc : ∀ f : Nat → Core → Core, (∀ i c, (f i c).sram.bytes = c.sram.bytes) → ({ s with cores := s.cores.mapIdx f } : State).Ok :=
    fun f hf => ⟨hs.hbm, hs.host, hs.hpat, fun k => by simpa [hf] using hs.sram k⟩
  split
  · exact hc _ fun _ _ => rfl
  · exact State.ok_writeLife _ (hc _ fun _ _ => rfl)
@[simp] theorem State.ok_unpowered {s : State} (hs : s.Ok) : (s.unpowered).Ok := by
  have hr := reset_ok
  exact ⟨hr.hbm, hs.host, hr.hpat, hr.sram⟩
@[simp] theorem State.ok_passed {s : State} (n) (hs : s.Ok) : (s.passed n).Ok := hs

end Sys2Proof.Machine
end

section
/-! SUPPORT. The invariant is kept by the parts of a clock. -/

namespace Sys2Proof.Machine

/-! ### Issue -/

@[simp] theorem State.ok_advance {s : State} (k) (hs : s.Ok) : (s.advance k).Ok := by simp [State.advance, hs]
@[simp] theorem State.ok_drainCycle {s : State} (k) (hs : s.Ok) : (s.drainCycle k).Ok := by
  unfold State.drainCycle
  exact State.ok_soon _ (State.ok_advance _ (by simp [hs]))
@[simp] theorem State.ok_takeHead {s : State} (k) (hs : s.Ok) : (s.takeHead k).Ok :=
  State.ok_onCore_of (fun _ hc => hc) (State.ok_advance k (State.ok_soon _ hs))
@[simp] theorem State.ok_freezeBy {s : State} (k l head) (hs : s.Ok) : (s.freezeBy k l head).Ok := by
  have hc := State.ok_onCore_of (s := s) (k := k) (f := fun c => c.onRun fun r => { r with
    frozen := l, fullSince := if l.contains 3 then (r.fullSince.or (some s.now)) else if l.all unjudged then r.fullSince else none })
    (fun _ hc => hc) hs
  exact State.ok_if (State.ok_soon _ (State.ok_if (State.ok_soon _ hc) hc)) (State.ok_if (State.ok_soon _ hc) hc)
@[simp] theorem State.ok_fetchMiss {s : State} (k) (hs : s.Ok) : (s.fetchMiss k).Ok := by simp [State.fetchMiss, hs]
@[simp] theorem State.ok_fetchTrap {s : State} (k l) (hs : s.Ok) : (s.fetchTrap k l).Ok := by simp [State.fetchTrap, hs]
@[simp] theorem State.ok_prepared {s : State} (hs : s.Ok) : (s.prepared).Ok := by
  refine State.ok_onCur_of (fun c hc => ?_) hs
  dsimp only
  split <;> simpa using hc
@[simp] theorem State.ok_closeBefore {s : State} (k head) (hs : s.Ok) : (s.closeBefore k head).Ok := by simp [State.closeBefore, hs]
@[simp] theorem State.ok_endBefore {s : State} (k) (hs : s.Ok) : (s.endBefore k).Ok :=
  State.ok_freezeBy _ _ _ (State.ok_soon _ (State.ok_closeBefore _ _ hs))
@[simp] theorem State.ok_headAgain {s : State} (b) (hs : s.Ok) : (s.headAgain b).Ok := by simp [State.headAgain, hs]
@[simp] theorem State.ok_deliverYield {s : State} (hs : s.Ok) : (s.deliverYield).Ok := by simp [State.deliverYield, hs]
@[simp] theorem State.ok_bubble {s : State} (k) (hs : s.Ok) : (s.bubble k).Ok := by simp [State.bubble, hs]

/-! ### The next clock -/

@[simp] theorem State.ok_nextClock {s : State} (hs : s.Ok) : (s.nextClock).Ok := hs

end Sys2Proof.Machine
end

section
/-! SUPPORT. The invariant is kept by the instructions: by each form, and by those that have a form of their own. -/

namespace Sys2Proof.Machine

/-! ### The forms of an instruction -/

/-- An operation of the core whose clock it is. -/
theorem State.ok_act {s : State} {f : Core → Core} (hs : s.Ok) (hf : ∀ c, (f c).sram = c.sram) : OkOut (s.act f) :=
  State.ok_onCur_of (fun c hc => by rw [hf c]; exact hc) hs
/-- The same under a guard (R106). -/
theorem State.ok_syl {s : State} {g : PReg} {f : Core → Core} (hs : s.Ok) (hf : ∀ c, (f c).sram = c.sram) : OkOut (s.syl g f) :=
  State.ok_act hs fun c => by rw [Core.sram_ite, hf c, ite_self]
/-- The same after the checks of the C slot. -/
theorem State.ok_csyl {s : State} {g : PReg} {faults} {f : Core → Core} (hs : s.Ok) (hf : ∀ c, (f c).sram = c.sram) :
    OkOut (s.csyl g faults f) :=
  State.ok_syl hs fun c => by rw [Core.sram_checked, hf c, ite_self]
theorem State.ok_logStore {s : State} (g a n kind pois data) (hs : s.Ok) : OkOut (s.logStore g a n kind pois data) :=
  State.ok_csyl hs fun c => c.sram_append ..
theorem State.ok_groupEffect {s : State} {f : Core → Core} (g k a b image faults) (hs : s.Ok) (hf : ∀ c, (f c).sram = c.sram) :
    OkOut (s.groupEffect g k a b image faults f) :=
  State.ok_act hs fun c => by rw [Core.sram_effect, hf, Core.sram_command, ite_self]
/-- An effect with a tag is a command the core keeps until its region commits. -/
theorem State.ok_tagEffect {s : State} (g t k a b faults acq image) (hs : s.Ok) : OkOut (s.tagEffect g t k a b faults acq image) :=
  State.ok_act hs fun c => by cases acq <;> simp
/-- A reply that arrives, or what the step does otherwise. -/
theorem State.ok_orReply {s : State} {o : Out} (hs : s.Ok) (ho : OkOut o) : OkOut (s.orReply o) := by
  unfold State.orReply
  split
  · split
    · exact State.ok_complete _ _ _ _ _ _ hs
    · exact hs
  · exact ho
theorem State.ok_onWrite {s : State} {f : PortId → Nat → Word → State} (hs : s.Ok) (hf : ∀ m off v, (f m off v).Ok) :
    OkOut (s.onWrite f) := by
  unfold State.onWrite
  split
  · exact hf _ _ _
  · exact hs
theorem State.ok_onRegister {s : State} {f : PortId → Word → State} (reg) (hs : s.Ok) (hf : ∀ m v, (f m v).Ok) :
    OkOut (s.onRegister reg f) :=
  State.ok_onWrite hs fun m _ v => State.ok_if (hf m v) hs

/-! ### Instructions with a form of their own -/

/-- Two faults, neither of which a syllable has. -/
theorem firstFault_pair {a b : Bool} {x y : Cause} (h : (firstFault [(a, x), (b, y)]).isSome = false) : a = false ∧ b = false := by
  cases a <;> cases b <;> simp_all [firstFault]
/-- A value no WRSR refuses for HPAT1 to HPAT7 is a pattern R187 allows. -/
theorem hpatBad_of_srBad {n : BitVec 8} {v : Word} (lo : 24 < n.toNat) (hi : n.toNat < 32) (h : srBad n v = false) : hpatBad v = false := by
  unfold srBad at h
  split at h
  case h_5 => simpa [show 25 ≤ n.toNat by omega, show n.toNat ≤ 31 by omega] using h
  all_goals omega
/-- An HPAT register but HPAT0 takes a pattern R187 allows; beyond HPAT7 there is nothing to write. -/
theorem State.ok_setHpat {s : State} (hs : s.Ok) (n : Nat) (v : Word) (hn : n ≠ 0) (hv : n < 8 → hpatBad v = false) :
    ({ s with hpat := s.hpat.setIfInBounds n v } : State).Ok := by
  refine ⟨hs.hbm, hs.host, ?_, hs.sram⟩
  obtain ⟨h0, hall⟩ := Bool.and_eq_true_iff.1 hs.hpat
  rw [List.all_eq_true] at hall
  refine Bool.and_eq_true_iff.2 ⟨?_, ?_⟩
  · simpa [Vector.getElem_setIfInBounds, hn] using h0
  · rw [List.all_eq_true]
    intro x hx
    rw [Vector.mem_toList_iff] at hx
    obtain ⟨i, hi, rfl⟩ := Vector.mem_iff_getElem.1 hx
    rw [Vector.getElem_setIfInBounds]
    split
    · next e => simp [hv (e ▸ hi)]
    · exact hall _ (by simp)
theorem execWrsr_ok {s : State} (g : PReg) (a : SReg) (imm : BitVec 8) (hs : s.Ok) : OkOut (execWrsr g a imm s) := by
  unfold execWrsr
  dsimp only
  split
  · exact State.ok_syl hs fun c => by simp
  · next h24 =>
    split
    · exact hs
    · split
      · exact State.ok_act hs fun c => by simp
      · next hf =>
        obtain ⟨hf, -⟩ := firstFault_pair (Bool.eq_false_of_not_eq_true hf)
        obtain ⟨-, hbad⟩ := Bool.or_eq_false_iff.1 hf
        split
        · exact hs
        · next hne => exact State.ok_setHpat hs _ _ (by omega) fun hi => hpatBad_of_srBad (by omega) (by omega) hbad
theorem execTlbi_ok {s : State} (g : PReg) (d a b : SReg) (x : Fin 4) (hs : s.Ok) : OkOut (execTlbi g d a b x s) := by
  unfold execTlbi
  dsimp only
  split
  · exact hs
  · split
    · exact State.ok_act hs fun c => by simp
    · rw [okOut_next, State.ok_mk]
      exact State.ok_onCur_of (fun _ hc => hc) (State.ok_dropCached _ hs)
theorem execYield_ok {s : State} (g : PReg) (hs : s.Ok) : OkOut (execYield g s) :=
  State.ok_syl hs fun c => by
    rw [Core.sram_ite]
    exact ite_self _
theorem execTlook_ok {s : State} (g : PReg) (d a : SReg) (hs : s.Ok) : OkOut (execTlook g d a s) :=
  State.ok_syl hs fun c => by
    dsimp only
    split
    · exact c.sram_flyC ..
    · exact c.sram_flyC ..
theorem execTdel_ok {s : State} (g : PReg) (d a : SReg) (hs : s.Ok) : OkOut (execTdel g d a s) :=
  State.ok_syl hs fun c => by
    dsimp only
    split
    · exact (Core.sram_tagChange ..).trans (c.sram_flyC ..)
    · exact c.sram_flyC ..
theorem execFork_ok {s : State} (g : PReg) (a : SReg) (b : SPair) (hs : s.Ok) : OkOut (execFork g a b s) :=
  State.ok_groupEffect _ _ _ _ _ _ hs fun _ => rfl
theorem execGbar_ok {s : State} (g : PReg) (hs : s.Ok) : OkOut (execGbar g s) :=
  State.ok_groupEffect _ _ _ _ _ _ hs fun _ => rfl

end Sys2Proof.Machine
end

section
/-! SUPPORT. The invariant is kept by the steps of the device. -/

namespace Sys2Proof.Machine

/-! ### Copy engines -/

theorem execCopyStart_ok {s : State} (hs : s.Ok) : OkOut (execCopyStart s) := by
  unfold execCopyStart
  split
  · split
    · exact State.ok_startCmd _ _ hs
    · exact hs
  · split
    · exact State.ok_runCmd _ _ hs
    · exact hs
  · exact hs
theorem execReadAtomWrite_ok {s : State} (hs : s.Ok) : OkOut (execReadAtomWrite s) := by
  unfold execReadAtomWrite
  split
  · split
    · exact hs
    · split
      · exact hs
      · split
        · exact State.ok_walked _ _ _ _ hs
        · exact State.ok_recorded _ _ hs
        all_goals exact State.ok_first _ (State.ok_bring _ _ _ hs)
  · exact hs
theorem execCopyCompletion_ok {s : State} (hs : s.Ok) : OkOut (execCopyCompletion s) := by
  unfold execCopyCompletion
  split
  · split
    · exact hs
    · refine okOut_if hs (okOut_if (State.ok_endStale _ _ hs) (okOut_if (State.ok_if hs (State.ok_finishCopy _ _ hs)) (okOut_if ?_ hs)))
      split
      · exact State.ok_sendAtom _ _ _ _ hs
      · exact hs
  · exact hs
theorem execCpyInxLanding_ok {s : State} (hs : s.Ok) : OkOut (execCpyInxLanding s) := by
  unfold execCpyInxLanding
  repeat' split
  case isFalse =>
    refine State.ok_finishCopy _ _ (State.ok_onCore_of (fun c hc => ?_) hs)
    rw [Cmd.bytes_markLines, Core.bytes_putPoison]
    exact Core.wf_foldl (fun _ _ hc => Core.wf_putBytes hc _) _ hc
  all_goals exact hs
theorem execPeerCopyTransfer_ok {s : State} (hs : s.Ok) : OkOut (execPeerCopyTransfer s) := by
  unfold execPeerCopyTransfer
  split
  · split
    · exact hs
    · dsimp only
      split
      · exact State.ok_later _ hs
      · split
        · exact hs
        · exact State.ok_towards _ _ (State.ok_draw hs)
  · split
    · exact hs
    · split
      · exact hs
      · refine State.ok_if (State.ok_completes _ _ ?_) (State.ok_later _ ?_)
        all_goals exact State.ok_soon _ (State.ok_moveUnit _ _ _ _ hs)
  · exact hs
theorem execSpillFillCompletion_ok {s : State} (hs : s.Ok) : OkOut (execSpillFillCompletion s) := by
  have fault : ∀ {u : State} k r b cause n st, u.Ok → (u.onCore k fun c => c.landFault r 1 b cause n st).Ok :=
    fun _ _ _ _ _ _ hu => State.ok_onCore_of (fun c hc => by rwa [c.sram_landFault]) hu
  unfold execSpillFillCompletion
  split
  · next k id _ =>
    split
    · exact hs
    · next m _ =>
      have hl := State.ok_leaveEngine k m hs
      refine okOut_if hs (okOut_if hl (okOut_if ?_ (okOut_if hl (okOut_if ?_ ?_))))
      · exact fault _ _ _ _ _ _ hl
      · exact fault _ _ _ _ _ _ hl
      · exact State.ok_onCore_of (fun _ hc => hc) hl
  · exact hs

/-! ### HBM channels -/

theorem execAtomService_ok {s : State} (hs : s.Ok) : OkOut (execAtomService s) := by
  have slips : ∀ (l : List Claim) b {s : State}, s.Ok → (l.foldl (fun s x => s.slip x b) s).Ok :=
    fun l b _ hs => State.ok_foldl (fun _ x hs => State.ok_slip x b hs) l hs
  unfold execAtomService
  split
  · dsimp only
    split
    · split
      · exact slips _ _ hs
      · exact State.ok_atClock _ _ (State.ok_draw (slips _ _ hs))
    · split
      · exact State.ok_serve _ hs
      · split
        · exact State.ok_serveInbox _ hs
        · exact State.ok_serveFirst _ _ (slips _ _ hs)
  · exact hs
theorem execRefreshSlot_ok {s : State} (hs : s.Ok) : OkOut (execRefreshSlot s) := by
  unfold execRefreshSlot
  split
  · dsimp only
    split
    · exact State.ok_closeBank _ _ hs
    · exact State.ok_setDram _ (State.ok_closeBank _ _ hs)
  · exact hs
theorem execEccWriteback_ok {s : State} (hs : s.Ok) : OkOut (execEccWriteback s) := by
  unfold execEccWriteback
  split
  · next ch _ =>
    split
    · exact hs
    · next w _ =>
      have ha := State.ok_activate ch w.2 (State.ok_draw hs)
      exact State.ok_if (State.ok_poisonPage _ ha) ha
  · exact hs
theorem execSelfRefreshEntry_ok {s : State} (hs : s.Ok) : OkOut (execSelfRefreshEntry s) := by
  unfold execSelfRefreshEntry
  split
  · exact okOut_if hs (okOut_if hs hs)
  · exact hs
theorem execSelfRefreshExit_ok {s : State} (hs : s.Ok) : OkOut (execSelfRefreshExit s) := by
  unfold execSelfRefreshExit
  split
  · exact hs
  · exact hs

/-! ### Logs -/

theorem execLogCompaction_ok {s : State} (hs : s.Ok) : OkOut (execLogCompaction s) := by
  unfold execLogCompaction
  split
  · exact State.ok_compact _ hs
  · exact hs
theorem execLogTimeout_ok {s : State} (hs : s.Ok) : OkOut (execLogTimeout s) := by
  unfold execLogTimeout
  split
  · dsimp only
    split
    · split
      · exact hs
      · split
        · exact State.ok_stale _ _ (State.ok_onCore_of (fun _ hc => hc) hs)
        · exact State.ok_later _ (State.ok_foldl (fun _ t hs => State.ok_stale t 0 hs) _ (State.ok_onCore_of (fun _ hc => hc) hs))
    · exact hs
  · exact hs

/-! ### Weirs -/

theorem execWeirOperation_ok {s : State} (hs : s.Ok) : OkOut (execWeirOperation s) := by
  refine State.ok_orReply hs ?_
  split
  · next t e _ =>
    have pend : ∀ {u : State}, u.Ok → (if t.stand = .onCore then u else u.withdraw t.tid stCancelled).Ok :=
      fun hu => State.ok_if hu (State.ok_withdraw _ _ hu)
    have hc := State.ok_checkSync (e.a.extractLsb' 0 32).toNat hs
    dsimp only
    split
    · exact State.ok_answer _ _ _ _ _ hs
    · split
      · exact State.ok_grants _ (State.ok_answer _ _ _ _ _ hc)
      · split
        · exact State.ok_grants _ (State.ok_answer _ _ _ _ _ (State.ok_syncPut _ _ hc))
        · exact pend (State.ok_grants _ hc)
        · exact pend (State.ok_grants _ (State.ok_arrive _ _ hc))
        · exact State.ok_grants _ (State.ok_answer _ _ _ _ _ (State.ok_syncPut _ _ hc))
  · exact hs
theorem execSequencerNumbering_ok {s : State} (hs : s.Ok) : OkOut (execSequencerNumbering s) := by
  refine State.ok_orReply hs ?_
  split
  · split
    · have hn := State.ok_number hs
      dsimp only
      split
      · exact State.ok_answerBy _ _ _ _ _ _ _ _ (State.ok_release _ _ hn)
      · exact State.ok_answerBy _ _ _ _ _ _ _ _ (State.ok_release _ _ hn)
      · split
        · exact State.ok_answerBy _ _ _ _ _ _ _ _ hn
        · exact State.ok_answerBy _ _ _ _ _ _ _ _ hn
      · exact State.ok_answerBy _ _ _ _ _ _ _ _ hn
      · exact hn
    · exact hs
  · exact hs
theorem execPublishCounterWrite_ok {s : State} (hs : s.Ok) : OkOut (execPublishCounterWrite s) := by
  refine State.ok_orReply hs ?_
  split
  · have hd := State.ok_draw hs
    dsimp only
    split
    · exact State.ok_answerBy _ _ _ _ _ _ _ _ hd
    · split
      · exact State.ok_answerBy _ _ _ _ _ _ _ _ hd
      · split
        · exact State.ok_answerBy _ _ _ _ _ _ _ _ hd
        · exact State.ok_answerBy _ _ _ _ _ _ _ _ (State.ok_setHost hd _ _ _)
  · exact hs

/-! ### Groups -/

theorem execGroupStatusMirror_ok {s : State} (hs : s.Ok) : OkOut (execGroupStatusMirror s) := by
  unfold execGroupStatusMirror
  split
  · exact State.ok_mirror _ _ hs
  · exact hs
theorem execGroupEngineCommand_ok {s : State} (hs : s.Ok) : OkOut (execGroupEngineCommand s) := by
  unfold execGroupEngineCommand
  split
  · next t e _ =>
    dsimp only
    split
    · exact State.ok_accept _ (State.ok_decideSlot _ _ _ hs)
    · exact State.ok_accept _ (State.ok_decideSlot _ _ _ hs)
    · split
      · exact State.ok_accept _ hs
      · next g _ =>
        have h1 : ∀ i, (if g.slots[i]?.any fun v => v == .pending || v.reward.isSome then s.setSlot g.handle i .cancelled else s).Ok :=
          fun i => State.ok_if (State.ok_setSlot _ _ _ hs) hs
        split
        · exact State.ok_accept _ hs
        · exact State.ok_accept _ (State.ok_if (State.ok_cancelSibling _ _ (h1 _)) (h1 _))
    · split
      · exact State.ok_accept _ hs
      · exact State.ok_soon _ (State.ok_onGroup _ _ hs)
    · exact hs
  · exact hs
theorem execForkAccept_ok {s : State} (hs : s.Ok) : OkOut (execForkAccept s) := by
  unfold execForkAccept
  split
  · split
    · split
      · exact hs
      · split
        · exact State.ok_later _ hs
        · exact State.ok_accept _ (State.ok_if (State.ok_cancelGroup _ _ (State.ok_mirrors _ hs)) (State.ok_mirrors _ hs))
    · exact hs
  · exact hs
theorem execGroupDeadline_ok {s : State} (hs : s.Ok) : OkOut (execGroupDeadline s) := by
  unfold execGroupDeadline
  split
  · split
    · exact hs
    · dsimp only
      split
      · exact hs
      · split
        · exact State.ok_onGroup _ _ hs
        · exact State.ok_foldl (fun _ _ hs => State.ok_if (State.ok_cancelSibling _ _ (State.ok_setSlot _ _ _ hs)) hs) _
            (State.ok_onGroup _ _ hs)
  · exact hs
theorem execGroupBarrierComplete_ok {s : State} (hs : s.Ok) : OkOut (execGroupBarrierComplete s) := by
  unfold execGroupBarrierComplete
  split
  · split
    · exact hs
    · split
      · exact hs
      · exact okOut_if hs (okOut_if (State.ok_cross _ _ _ hs) (State.ok_passBarrier _ _ hs))
  · split
    · exact State.ok_passBarrier _ _ hs
    · exact hs
  · exact hs

/-! ### Regions, records and commands -/

theorem execResultLanding_ok {s : State} (hs : s.Ok) : OkOut (execResultLanding s) := by
  unfold execResultLanding
  split
  · refine State.ok_onCore_of (fun c hc => Core.wf_landCycle ?_) (State.ok_draw hs)
    split
    · rwa [Core.bytes_softError]
    · exact hc
  · exact hs
theorem execMatrixRowLanding_ok {s : State} (hs : s.Ok) : OkOut (execMatrixRowLanding s) := by
  unfold execMatrixRowLanding
  split
  · exact State.ok_onCore_of (fun _ hc => Core.wf_matrixCycle hc _ _) (State.ok_draw hs)
  · exact hs
theorem execRegionCommit_ok {s : State} (hs : s.Ok) : OkOut (execRegionCommit s) := by
  unfold execRegionCommit
  split
  · exact State.ok_wake _ (State.ok_commitAll _ _ hs)
  · exact hs
theorem execDrainAddApply_ok {s : State} (hs : s.Ok) : OkOut (execDrainAddApply s) := by
  unfold execDrainAddApply
  split
  · dsimp only
    split
    · exact hs
    · split
      · exact hs
      · split
        · exact State.ok_onCore_of (fun _ hc => hc) hs
        · next b _ _ _ j x pois rest _ =>
          have ha : (match s.taskOf b.tid with
              | some t => s.addRow t (b.addr + 512 * j) b.clamp x pois
              | none => (s, 0)).1.Ok := by
            split
            · exact State.ok_addRow _ _ _ _ _ hs
            · exact hs
          exact State.ok_if (State.ok_wake _ (State.ok_onCore_of (fun _ hc => hc) ha))
            (State.ok_cross _ _ _ (State.ok_onCore_of (fun _ hc => hc) ha))
  · exact hs
theorem execEffectCommandSend_ok {s : State} (hs : s.Ok) : OkOut (execEffectCommandSend s) := by
  unfold execEffectCommandSend
  split
  · refine okOut_if hs ?_
    split
    · split
      · exact State.ok_receive _ _ hs
      · exact hs
    · exact hs
  · split
    · exact hs
    · exact State.ok_dispatchCmd _ _ _ (State.ok_setUnsent _ _ _ hs)

/-! ### Saving a context -/

theorem execPitchWriteOut_ok {s : State} (hs : s.Ok) : OkOut (execPitchWriteOut s) := by
  unfold execPitchWriteOut
  split
  · exact State.ok_writeOut _ _ hs
  · exact hs

/-! ### Stopping and resuming a task -/

theorem execPreemptTake_ok {s : State} (hs : s.Ok) : OkOut (execPreemptTake s) := by
  unfold execPreemptTake
  split
  · dsimp only
    split
    · exact hs
    · split
      · exact State.ok_onCore_of (fun c hc => by simpa using hc) hs
      · refine State.ok_setCore hs ?_
        split
        · exact Core.sram_standStill _ _
        · exact Core.sram_standStill _ _
  · exact hs
theorem execTaskStop_ok {s : State} (hs : s.Ok) : OkOut (execTaskStop s) := by
  unfold execTaskStop
  split
  · dsimp only
    split
    · split
      · exact hs
      · split
        · exact State.ok_stopCommands _ (State.ok_setCore hs (Core.sram_standStill _ _))
        · exact State.ok_setCore hs (Core.sram_standStill _ _)
    · exact State.ok_stopCommands _ hs
    · exact State.ok_if (State.ok_stopCommands _ hs) hs
    · exact hs
  · exact hs
theorem execCancelDelivery_ok {s : State} (hs : s.Ok) : OkOut (execCancelDelivery s) := by
  unfold execCancelDelivery
  split
  · split
    · exact hs
    · split
      · exact State.ok_onCore_of (fun _ hc => hc) (State.ok_onTask _ _ hs)
      · exact State.ok_cancelSaved _ hs
      · exact State.ok_onTask _ _ hs
  · exact hs
theorem execPreemptRequest_ok {s : State} (hs : s.Ok) : OkOut (execPreemptRequest s) := by
  unfold execPreemptRequest
  split
  · split
    · exact hs
    · exact okOut_if hs (State.ok_onCore_of (fun _ hc => hc) hs)
  · exact hs
theorem execContextSave_ok {s : State} (hs : s.Ok) : OkOut (execContextSave s) := by
  unfold execContextSave
  split
  · dsimp only
    split
    · exact hs
    · next t _ =>
      have hc := State.ok_checkStores t.area (s.saveStores t) hs
      split
      · exact hs
      · split
        · next u hu => exact State.ok_putAway _ _ _ (State.ok_saveCtx _ _ _ _ _ _ hc u hu)
        · exact State.ok_saveFault _ _ (State.ok_putAway _ _ _ hc)
  · exact hs
theorem execTaskRetirement_ok {s : State} (hs : s.Ok) : OkOut (execTaskRetirement s) := by
  unfold execTaskRetirement
  split
  · dsimp only
    split
    · exact hs
    · split
      · exact hs
      · split
        · split
          · exact State.ok_onCore_of (fun _ hc => hc) hs
          · exact State.ok_onCore_of (fun _ hc => hc) (State.ok_escalation _ _ _ hs)
        · split
          · exact State.ok_park _ _ _ hs
          · exact State.ok_leaveCore _ (State.ok_retire _ _ _ _ hs)
  · split
    · exact hs
    · split
      · exact hs
      · split
        · exact State.ok_soon _ (State.ok_onTask _ _ (State.ok_escalation _ _ _ hs))
        · exact State.ok_if hs (State.ok_endSaved _ _ _ _ (State.ok_readWuc _ hs))
  · exact hs
theorem execCompletionFinalWrite_ok {s : State} (hs : s.Ok) : OkOut (execCompletionFinalWrite s) := by
  unfold execCompletionFinalWrite
  split
  · split
    · exact hs
    · split
      · exact hs
      · exact State.ok_rereadHeads (State.ok_putDone _ _ _ _ _ _ (State.ok_compact _ hs))
  · exact hs
theorem execResumption_ok {s : State} (hs : s.Ok) : OkOut (execResumption s) := by
  have start : ∀ {u : State} k t tid c r f, u.Ok → (((u.bringPitches k t).1.onTask tid f).startCore k c r).Ok :=
    fun k t _ _ _ _ hu => State.ok_startCore _ _ _ (State.ok_onTask _ _ (State.ok_bringPitches k t hu))
  unfold execResumption
  split
  · next tid k _ =>
    split
    · exact hs
    · next t _ =>
      split
      · exact hs
      · have hw : (if t.core = k then s else (List.range t.pitches.length).foldl (fun s i => s.writeOut tid i) s).Ok :=
          State.ok_if hs (State.ok_foldl (fun _ i hs => State.ok_writeOut tid i hs) _ hs)
        have hc := fun i l => State.ok_checkArea i l hw
        dsimp only
        split
        · exact hw
        · refine okOut_if (State.ok_areaFault _ (hc _ _)) ?_
          split
          · exact State.ok_onTask _ _ (State.ok_number (start _ _ _ _ _ _ (hc _ _)))
          · exact start _ _ _ _ _ _ (hc _ _)
  · exact hs
theorem execShootdownComplete_ok {s : State} (hs : s.Ok) : OkOut (execShootdownComplete s) := by
  unfold execShootdownComplete
  split
  · split
    · exact hs
    · split
      · exact State.ok_later _ hs
      · exact State.ok_soon _ (State.ok_onCore_of (fun _ hc => hc) (State.ok_dropCached _ hs))
  · exact hs
theorem execIcacheFill_ok {s : State} (hs : s.Ok) : OkOut (execIcacheFill s) := by
  unfold execIcacheFill
  split
  · refine State.ok_onCore_of (fun c hc => ?_) (State.ok_draw (State.ok_checkVa _ _ _ hs))
    rw [Core.sram_ite, ite_self]
    exact hc
  · exact hs
theorem execCrossingDelivery_ok {s : State} (hs : s.Ok) : OkOut (execCrossingDelivery s) := by
  unfold execCrossingDelivery
  split
  · refine State.ok_onCore_of (fun c hc => ?_) hs
    rw [Core.sram_ite, ite_self]
    exact hc
  · exact hs
theorem execPeriodStretch_ok {s : State} (hs : s.Ok) : OkOut (execPeriodStretch s) := by
  unfold execPeriodStretch
  split
  · exact State.ok_onCore_of (fun _ hc => hc) hs
  · exact hs
  · exact hs

/-! ### Traps -/

theorem execTrapSequence_ok {s : State} (hs : s.Ok) : OkOut (execTrapSequence s) := by
  unfold execTrapSequence
  split
  · split
    · have hc := fun k id => State.ok_onCore_of (k := k) (fun _ hc => Core.wf_trapClear hc id) hs
      dsimp only
      split
      · exact hc _ _
      · refine State.ok_afterUnwind _ _ _ (State.ok_reloadTiles _ _ ?_)
        refine State.ok_onCore_of (fun _ _ => Core.wf_rewind ((hc _ _).sram _) _ _) (hc _ _)
    · exact hs
  · exact hs
theorem execMalformedBundle_ok {s : State} (hs : s.Ok) : OkOut (execMalformedBundle s) := by
  unfold execMalformedBundle
  split
  · exact State.ok_onCur_of (fun _ hc => hc) hs
  · exact hs

/-! ### Inlets -/

theorem execInletSlotWrite_ok {s : State} (hs : s.Ok) : OkOut (execInletSlotWrite s) := by
  unfold execInletSlotWrite
  split
  · exact okOut_if hs (State.ok_manage _ _ _ _ hs (State.ok_onQueue _ _ hs))
  · exact State.ok_manage _ _ _ _ hs (State.ok_onQueue _ _ hs)
  · exact hs
theorem execInletTailWrite_ok {s : State} (hs : s.Ok) : OkOut (execInletTailWrite s) := by
  unfold execInletTailWrite
  split
  · split
    · exact hs
    · exact State.ok_manage _ _ _ _ hs (State.ok_if (State.ok_portEvent _ _ hs) (State.ok_rereadHeads (State.ok_onQueue _ _ hs)))
  · exact hs
theorem execInletCancelWrite_ok {s : State} (hs : s.Ok) : OkOut (execInletCancelWrite s) := by
  unfold execInletCancelWrite
  split
  · split
    · exact hs
    · exact State.ok_manage _ _ _ _ hs (State.ok_cancelBy _ _ hs)
  · exact hs
theorem execFabricLaunchPacket_ok {s : State} (hs : s.Ok) : OkOut (execFabricLaunchPacket s) := by
  unfold execFabricLaunchPacket
  split
  · exact State.ok_fromPeer _ _ _ hs fun _ =>
      State.ok_if (State.ok_respond _ _ hs) (State.ok_respond _ _ (State.ok_rereadHeads (State.ok_onQueue _ _ hs)))
  · exact hs
theorem execFabricCancelPacket_ok {s : State} (hs : s.Ok) : OkOut (execFabricCancelPacket s) := by
  unfold execFabricCancelPacket
  split
  · exact State.ok_fromPeer _ _ _ hs fun _ => State.ok_respond _ _ (State.ok_cancelBy _ _ hs)
  · exact hs

/-! ### Queue heads -/

theorem execWaitWordRead_ok {s : State} (hs : s.Ok) : OkOut (execWaitWordRead s) := by
  unfold execWaitWordRead
  split
  · dsimp only
    split
    · exact hs
    · split
      · exact State.ok_readWaits _ hs
      · have hc := fun r => State.ok_checkHeads r hs
        split
        · exact State.ok_dropHead _ _ (State.ok_draw (hc _))
        · exact State.ok_readWaits _ (State.ok_onQueue _ _ (State.ok_draw (hc _)))
  · exact hs

/-! ### The distributor -/

theorem execDispatchDecision_ok {s : State} (hs : s.Ok) : OkOut (execDispatchDecision s) := by
  have hd := State.ok_draw hs
  have hr : ∀ r ∈ s.draw.suspended.filterMap s.draw.tryResume, r.2.Ok := by
    intro r hr
    obtain ⟨t, -, ht⟩ := List.mem_filterMap.1 hr
    exact State.ok_tryResume t hd r ht
  have hp := State.ok_firstPlace s.free s.draw.candidates 0 hd
  unfold execDispatchDecision
  split
  · exact State.ok_failGroup _ hs
  · dsimp only
    split
    · exact hd
    · next p _ h => exact hp p h
    · next r l h _ => exact hr r (h ▸ List.mem_cons_self)
    · next r l p h h' => exact State.ok_if (hr r (h ▸ List.mem_cons_self)) (hp p h')
theorem execLevelAgeing_ok {s : State} (hs : s.Ok) : OkOut (execLevelAgeing s) :=
  State.ok_foldl (fun _ _ hs => State.ok_onCand _ _ hs) _ hs
theorem execReservationStart_ok {s : State} (hs : s.Ok) : OkOut (execReservationStart s) :=
  State.ok_foldl (fun _ t hs => State.ok_askOnce t hs) _
    (State.ok_foldl (fun _ _ hs => State.ok_if (State.ok_onCand _ _ hs) hs) _ hs)

/-! ### Management -/

theorem execClaim_ok {s : State} (hs : s.Ok) : OkOut (execClaim s) :=
  State.ok_onRegister _ hs fun _ _ => State.ok_manage _ _ _ _ hs
    (State.ok_if hs (State.ok_if (State.ok_if (State.ok_elect _ _ _ hs) hs) (State.ok_if (State.ok_elect _ _ _ hs) hs)))
theorem execClaimWindowClose_ok {s : State} (hs : s.Ok) : OkOut (execClaimWindowClose s) := by
  have after : ∀ {u : State}, u.Ok → (if s.ready then u else u.soon [.dev .bringUp (.bring 8)]).Ok :=
    fun hu => State.ok_if hu (State.ok_soon _ hu)
  unfold execClaimWindowClose
  split
  · exact hs
  · refine okOut_if hs (after ?_)
    split
    · exact State.ok_elect _ _ _ hs
    · exact hs
theorem execHandover_ok {s : State} (hs : s.Ok) : OkOut (execHandover s) :=
  State.ok_onRegister _ hs fun _ _ => State.ok_manage _ _ _ _ hs hs
theorem execThaw_ok {s : State} (hs : s.Ok) : OkOut (execThaw s) :=
  State.ok_onRegister _ hs fun _ _ => State.ok_manage _ _ _ _ hs (State.ok_thawPort _ hs)
theorem execPreempt_ok {s : State} (hs : s.Ok) : OkOut (execPreempt s) := by
  refine State.ok_onRegister _ hs fun _ _ => State.ok_manage _ _ _ _ hs ?_
  split
  · exact State.ok_if (State.ok_requestPreempt _ hs) hs
  · exact hs
theorem execMgmtRegisterWrite_ok {s : State} (hs : s.Ok) : OkOut (execMgmtRegisterWrite s) := by
  refine State.ok_onWrite hs fun _ _ _ => State.ok_if hs ?_
  split
  · exact State.ok_manage _ _ _ _ hs (State.ok_onMgmt _ hs)
  · exact State.ok_manage _ _ _ _ hs hs
theorem execAccessControlWrite_ok {s : State} (hs : s.Ok) : OkOut (execAccessControlWrite s) := 
  State.ok_onWrite hs fun _ _ _ => State.ok_if hs (State.ok_manage _ _ _ _ hs
    (State.ok_if (State.ok_eventOpen _ _ _ (State.ok_onMgmt _ hs)) (State.ok_onMgmt _ hs)))
theorem execLinkReset_ok {s : State} (hs : s.Ok) : OkOut (execLinkReset s) := by
  unfold execLinkReset
  split
  · split
    · exact hs
    · have hl : ∀ {u : State} (p : Prop) [Decidable p], u.Ok → (if p then u.lapse else u).Ok :=
        fun _ _ hu => State.ok_if (State.ok_lapse hu) hu
      refine State.ok_if ?_ (State.ok_train _ ?_)
      all_goals
        exact hl _ (State.ok_foldl (fun _ p hs => State.ok_thawPeer p hs) _
          (State.ok_thawPort _ (State.ok_onMgmt _ (State.ok_portEvent _ _ hs))))
  · exact hs
theorem execLinkTraining_ok {s : State} (hs : s.Ok) : OkOut (execLinkTraining s) := by
  unfold execLinkTraining
  split
  · have ht : ∀ {u : State} (up : Bool) m, u.Ok → (if up then u else u.train m).Ok := fun _ m hu => State.ok_if hu (State.ok_train m hu)
    exact State.ok_if (State.ok_soon _ (ht _ _ (State.ok_onMgmt _ hs))) (ht _ _ (State.ok_onMgmt _ hs))
  · exact hs
theorem execFwupd_ok {s : State} (hs : s.Ok) : OkOut (execFwupd s) :=
  State.ok_onRegister _ hs fun _ _ => State.ok_manage _ _ _ _ hs (State.ok_if hs (State.ok_later _ (State.ok_onMgmt _ hs)))
theorem execFwCheckDone_ok {s : State} (hs : s.Ok) : OkOut (execFwCheckDone s) := by
  refine okOut_if hs ?_
  dsimp only
  split
  · exact State.ok_onMgmt _ (State.ok_draw hs)
  · exact State.ok_onMgmt _ hs
theorem execFwcommit_ok {s : State} (hs : s.Ok) : OkOut (execFwcommit s) := by
  refine State.ok_onRegister _ hs fun _ _ => State.ok_manage _ _ _ _ hs ?_
  split
  · exact State.ok_writeLife _ hs
  · exact hs
theorem execAttest_ok {s : State} (hs : s.Ok) : OkOut (execAttest s) :=
  State.ok_onRegister _ hs fun _ _ => State.ok_manage _ _ _ _ hs
    (State.ok_if hs (State.ok_later _ (State.ok_onMgmt _ (State.ok_number hs))))
theorem execAttestDone_ok {s : State} (hs : s.Ok) : OkOut (execAttestDone s) := okOut_if hs (State.ok_onMgmt _ (State.ok_draw hs))
theorem execHostMemAccess_ok {s : State} (hs : s.Ok) : OkOut (execHostMemAccess s) := by
  unfold execHostMemAccess
  split
  · next a _ _ _ =>
    split
    · exact hs
    · split
      · exact State.ok_if hs hs
      · have hc := fun a => State.ok_hostCheck a hs
        dsimp only
        split
        · exact State.ok_freezePort _ (hc _)
        · split
          · exact hc _
          · split
            · exact State.ok_setHbm (hc _) (Memory.wf_memPut _ _ _ (hc _).hbm)
            · exact State.ok_checkAtom _ _ (hc _)
  · exact hs
theorem execPeerFabWrite_ok {s : State} (hs : s.Ok) : OkOut (execPeerFabWrite s) := by
  unfold execPeerFabWrite
  split
  · refine State.ok_fromPeer _ _ _ hs fun e => ?_
    have hc := State.ok_checkSpace (aclOwner e) hs
    have hw : ∀ va, (((((s.checkSpace (aclOwner e)).spaceOf (aclOwner e)).map fun sp =>
        (s.checkSpace (aclOwner e)).checkWalk sp va).getD (s.checkSpace (aclOwner e)))).Ok := by
      intro va
      cases (s.checkSpace (aclOwner e)).spaceOf (aclOwner e) with
      | none => exact hc
      | some sp => exact State.ok_checkWalk sp va hc
    dsimp only
    split
    · exact State.ok_respond _ _ (hw _)
    · exact State.ok_respond _ _ (hw _)
    · exact hw _
  · exact hs

/-! ### Wear, budgets and bring-up -/

theorem execWearInterval_ok {s : State} (hs : s.Ok) : OkOut (execWearInterval s) := by
  unfold execWearInterval
  split
  · exact State.ok_foldl (fun _ k hs => State.ok_atClock _ _ hs) _ (State.ok_foldl (fun _ l hs => State.ok_budget l hs) _
      (State.ok_foldl (fun _ k hs => State.ok_coreInterval k _ _ _ hs) _ (State.ok_isleBudgets hs)))
  · exact hs
theorem execCoreStateChange_ok {s : State} (hs : s.Ok) : OkOut (execCoreStateChange s) := by
  unfold execCoreStateChange
  split
  · exact State.ok_if (State.ok_setCoreState _ _ hs) hs
  · dsimp only
    have hc := fun k st => State.ok_setCoreState k st hs
    split
    · exact hs
    · split
      · exact hc _ _
      · exact State.ok_soon _ (State.ok_if (State.ok_requestPreempt _ (hc _ _)) (hc _ _))
  · exact hs
theorem execLifetimeCheckpoint_ok {s : State} (hs : s.Ok) : OkOut (execLifetimeCheckpoint s) :=
  State.ok_if (State.ok_writeLife _ (State.ok_draw hs)) (State.ok_spoilCopy _ (State.ok_writeLife _ (State.ok_draw hs)))
theorem execBringUp_ok {s : State} (hs : s.Ok) : OkOut (execBringUp s) := by
  have hd := State.ok_draw hs
  unfold execBringUp
  split
  · exact State.ok_if hs (State.ok_first _ hs)
  · split
    · exact hs
    · split
      · split
        · exact State.ok_passed _ (State.ok_onMgmt _ hs)
        · exact hs
      · exact State.ok_if (State.ok_bringFail _ _ hd) (State.ok_passed _ hd)
      · have hc := State.ok_calibrate s.free hd
        exact State.ok_if (State.ok_passed _ hc) hc
      · have hc := fun b b' => State.ok_checkCopy 1 b (State.ok_checkCopy 0 b' hd)
        dsimp only
        split
        · exact State.ok_passed _ (State.ok_readLife _ (hc _ _))
        · exact hc _ _
      · exact State.ok_passed _ (State.ok_train _ hs)
      · rw [okOut_next, State.ok_mk]
        exact State.ok_foldl (fun _ p hs => State.ok_train _ hs) (List.range 18) hs
      · exact State.ok_openWindow hs
      · refine State.ok_rereadHeads ?_
        rw [State.ok_mk]
        exact State.ok_event _ _ _ _ _ hs
      · exact hs
  · exact hs

end Sys2Proof.Machine
end

section
/-! SUPPORT. The invariant is kept by every instruction, by every clock of a core and so by every step. -/

namespace Sys2Proof.Machine

/-- Each arm of the opcode table, by its form: an instruction acts on the core whose clock it is and leaves the scratchpad as it is;
of the instructions WRSR alone writes an HPAT register, and none writes a memory outside the cores. -/
theorem exec_ok (i : Instr) {s : State} (hs : s.Ok) : OkOut (exec i s) := by
  cases i with
  | vrsqaF32 | vrcpaF32 | vexp2aF32 | vlog2aF32 | vsqrtF32 | vabsF32 | vnegF32 | vcvtI32F32Rne | vcvtI32F32Rtz | vcvtF32I32
    | vcvtI32Rns => exact State.ok_act hs fun c => c.sram_lanes1 ..
  | vdivF32 | vaddF32 | vsubF32 | vmulF32 | vminF32 | vmaxF32 | vaddBf16 | vmulBf16 | vaddI32 | vsubI32 | vmulI32 | vmulhI32 | vshlI32
    | vshrI32 | vsraI32 | vminI32 | vmaxI32 => exact State.ok_act hs fun c => c.sram_lanes2 ..
  | vfmaF32 | vfmsF32 | vfmaBf16 => exact State.ok_act hs fun c => c.sram_lanes3 ..
  | vand | vor | vandn => exact State.ok_act hs fun c => c.sram_bitwise ..
  | vsel | vsplat | vbcastl | vperm | verase | vretag | vtagq | vlds | vbcst | vmovs | vmovv | vst | vxor | vrotl | vswap | vcswap
    | vpermr | vrnsMulc => exact State.ok_act hs fun c => by simp
  | vmov => exact State.ok_act hs fun c => c.sram_dissip ..
  | vcmpeqF32 | vcmpltF32 | vcmpleF32 | vcmpunF32 | vcmpeqI32 | vcmpltI32 | vcmpltuI32 => exact State.ok_act hs fun c => c.sram_cmpV ..
  | vredaddF32 | vredmaxF32 | vredaddI32 => exact State.ok_act hs fun c => c.sram_reduce ..
  | br => exact State.ok_syl hs fun c => c.sram_jump ..
  | brl | jmp | jmpl | loop | cloop | endTask | calsync | rdsr | sret | wldt | wclr | aclr | twany | twall | tfirst | qfence =>
    exact State.ok_syl hs fun c => by simp
  | region | regionc => exact State.ok_act hs fun c => c.sram_openRegion ..
  | trap => exact State.ok_syl hs fun c => c.sram_raise ..
  | lstW | lstD | lstv => exact State.ok_logStore _ _ _ _ _ _ hs
  | vldRaw | vldI32 | vldF32 | vldBf16 | vldFp8e4 | vldFp8e5 | vldFp4 | vldInt8 | vldRns => exact State.ok_act hs fun c => c.sram_vld ..
  | vspill | vfill => exact State.ok_act hs fun c => c.sram_spillIssue ..
  | rwait | rfree => exact State.ok_syl hs fun c => c.sram_ringWait ..
  | radvp | radvc | rset | rsetUnconfigure | cpyRin | tins | tclr => exact State.ok_csyl hs fun c => by simp
  | vcvtBf16F32Rne | vcvtFp8e4F32Rne | vcvtFp8e4F32Sat | vcvtFp8e5F32Rne | vcvtFp8e5F32Sat | vcvtFp4F32Rne | vcvtInt8I32Sat =>
    exact State.ok_act hs fun c => c.sram_narrow ..
  | vcvtBf16F32Sr | vcvtFp8e4F32Sr | vcvtFp8e4F32Srsat | vcvtFp8e5F32Sr | vcvtFp8e5F32Srsat | vcvtFp4F32Sr =>
    exact State.ok_act hs fun c => c.sram_narrowSr ..
  | vcvtF32Bf16 | vcvtF32Fp8e4 | vcvtF32Fp8e5 | vcvtF32Fp4 => exact State.ok_act hs fun c => c.sram_widen ..
  | vqmxFp8e4 | vqmxFp4 => exact State.ok_act hs fun c => c.sram_vqmx ..
  | cpyIn | cpyInx | cpyOut | cpyPeer | cpyMc | cpyT | cpyFab | cpyHost => exact State.ok_csyl hs fun c => c.sram_queueCopy ..
  | fork => exact execFork_ok _ _ _ hs
  | gbar => exact execGbar_ok _ hs
  | grwd | gcancel | gquit | launch | cancel => exact State.ok_groupEffect _ _ _ _ _ _ hs fun _ => rfl
  | gstat | tstat => exact State.ok_syl hs fun c => c.sram_flyC ..
  | wldBf16 | wldFp8e4 | wldFp8e5 | wldFp4 | wldInt8 => exact State.ok_syl hs fun c => c.sram_wld ..
  | mmaBf16 | mmaFp8e4 | mmaFp8e5 | mmaFp4 | mmaI8r | mmsI8r => exact State.ok_syl hs fun c => c.sram_mma ..
  | afillF32 | afillRns => exact State.ok_syl hs fun c => c.sram_afill ..
  | astat => exact State.ok_syl hs fun c => c.sram_mstart ..
  | drainF32 | drainBf16 | drainRns | drainI32 => exact State.ok_syl hs fun c => c.sram_drain ..
  | drainAdd | drainAddc => exact State.ok_syl hs fun c => c.sram_drainAdd ..
  | add | sub | mul | mulh | mulhu | div | divu | rem | remu | and | or | xor | andn | shl | shr | sra | min | max | minu | maxu | sel
    | clz | popc | lea => exact State.ok_syl hs fun c => c.sram_aluRR ..
  | addi | andi | ori | xori | shli | shri | srai | li | lih => exact State.ok_syl hs fun c => c.sram_aluRI ..
  | cmpeq | cmpne | cmplt | cmpltu | cmple | cmpleu | cmpeqi | cmplti | pbit => exact State.ok_syl hs fun c => c.sram_cmpRR ..
  | pand | por | pxor | pandn | pnot => exact State.ok_syl hs fun c => c.sram_predRR ..
  | ldb | ldbz | ldw | ldwz | ldd => exact State.ok_syl hs fun c => c.sram_loadS ..
  | stb | stw | std => exact State.ok_syl hs fun c => c.sram_storeS ..
  | nop => exact hs
  | rel | acq | acqs | phase | publish => exact State.ok_tagEffect _ _ _ _ _ _ _ _ hs
  | synAdd | synCas | synMin | synMax | synXch | synLd | synPost | synWait | synBar => exact State.ok_tagEffect _ _ _ _ _ _ _ _ hs
  | vaddrI32 | vsubrI32 | vnegrI32 => exact State.ok_act hs fun c => c.sram_revI32 ..
  | vrnsAdd | vrnsSub | vrnsNeg => exact State.ok_act hs fun c => c.sram_revRns ..
  | vcopy | vcvtRnsI32 => exact State.ok_act hs fun c => c.sram_copyClean ..
  | wrsr => exact execWrsr_ok _ _ _ hs
  | tlbi => exact execTlbi_ok _ _ _ _ _ hs
  | copyStart => exact execCopyStart_ok hs
  | readAtomWrite => exact execReadAtomWrite_ok hs
  | copyCompletion => exact execCopyCompletion_ok hs
  | cpyInxLanding => exact execCpyInxLanding_ok hs
  | peerCopyTransfer => exact execPeerCopyTransfer_ok hs
  | spillFillCompletion => exact execSpillFillCompletion_ok hs
  | atomService => exact execAtomService_ok hs
  | refreshSlot => exact execRefreshSlot_ok hs
  | eccWriteback => exact execEccWriteback_ok hs
  | selfRefreshEntry => exact execSelfRefreshEntry_ok hs
  | selfRefreshExit => exact execSelfRefreshExit_ok hs
  | logCompaction => exact execLogCompaction_ok hs
  | logTimeout => exact execLogTimeout_ok hs
  | tlook => exact execTlook_ok _ _ _ hs
  | tdel => exact execTdel_ok _ _ _ hs
  | weirOperation => exact execWeirOperation_ok hs
  | sequencerNumbering => exact execSequencerNumbering_ok hs
  | publishCounterWrite => exact execPublishCounterWrite_ok hs
  | groupStatusMirror => exact execGroupStatusMirror_ok hs
  | groupEngineCommand => exact execGroupEngineCommand_ok hs
  | forkAccept => exact execForkAccept_ok hs
  | groupDeadline => exact execGroupDeadline_ok hs
  | groupBarrierComplete => exact execGroupBarrierComplete_ok hs
  | resultLanding => exact execResultLanding_ok hs
  | matrixRowLanding => exact execMatrixRowLanding_ok hs
  | regionCommit => exact execRegionCommit_ok hs
  | drainAddApply => exact execDrainAddApply_ok hs
  | effectCommandSend => exact execEffectCommandSend_ok hs
  | pitchWriteOut => exact execPitchWriteOut_ok hs
  | preemptTake => exact execPreemptTake_ok hs
  | taskStop => exact execTaskStop_ok hs
  | cancelDelivery => exact execCancelDelivery_ok hs
  | preemptRequest => exact execPreemptRequest_ok hs
  | contextSave => exact execContextSave_ok hs
  | taskRetirement => exact execTaskRetirement_ok hs
  | completionFinalWrite => exact execCompletionFinalWrite_ok hs
  | resumption => exact execResumption_ok hs
  | shootdownComplete => exact execShootdownComplete_ok hs
  | icacheFill => exact execIcacheFill_ok hs
  | crossingDelivery => exact execCrossingDelivery_ok hs
  | periodStretch => exact execPeriodStretch_ok hs
  | trapSequence => exact execTrapSequence_ok hs
  | malformedBundle => exact execMalformedBundle_ok hs
  | inletSlotWrite => exact execInletSlotWrite_ok hs
  | inletTailWrite => exact execInletTailWrite_ok hs
  | inletCancelWrite => exact execInletCancelWrite_ok hs
  | fabricLaunchPacket => exact execFabricLaunchPacket_ok hs
  | fabricCancelPacket => exact execFabricCancelPacket_ok hs
  | waitWordRead => exact execWaitWordRead_ok hs
  | dispatchDecision => exact execDispatchDecision_ok hs
  | levelAgeing => exact execLevelAgeing_ok hs
  | reservationStart => exact execReservationStart_ok hs
  | yield => exact execYield_ok _ hs
  | claim => exact execClaim_ok hs
  | claimWindowClose => exact execClaimWindowClose_ok hs
  | handover => exact execHandover_ok hs
  | thaw => exact execThaw_ok hs
  | preempt => exact execPreempt_ok hs
  | mgmtRegisterWrite => exact execMgmtRegisterWrite_ok hs
  | accessControlWrite => exact execAccessControlWrite_ok hs
  | linkReset => exact execLinkReset_ok hs
  | linkTraining => exact execLinkTraining_ok hs
  | fwupd => exact execFwupd_ok hs
  | fwCheckDone => exact execFwCheckDone_ok hs
  | fwcommit => exact execFwcommit_ok hs
  | attest => exact execAttest_ok hs
  | attestDone => exact execAttestDone_ok hs
  | hostMemAccess => exact execHostMemAccess_ok hs
  | peerFabWrite => exact execPeerFabWrite_ok hs
  | wearInterval => exact execWearInterval_ok hs
  | coreStateChange => exact execCoreStateChange_ok hs
  | lifetimeCheckpoint => exact execLifetimeCheckpoint_ok hs
  | bringUp => exact execBringUp_ok hs
  | powerOff => exact State.ok_unpowered hs
/-- One outcome after another keeps the invariant where each of the two does. -/
theorem okOut_andThen {o : Out} {f : State → Out} (ho : OkOut o) (hf : ∀ t, t.Ok → OkOut (f t)) : OkOut (andThen o f) := by
  cases o with
  | next t => exact hf t ho
  | fault => trivial
  | refused => trivial
theorem State.ok_runSyls {s : State} (l : List Instr) (hs : s.Ok) : OkOut (s.runSyls l) := by
  induction l generalizing s with
  | nil => exact hs
  | cons i l ih => exact okOut_andThen (exec_ok i hs) fun _ ht => ih ht
theorem State.ok_alone {s : State} (i : Instr) (hs : s.Ok) : (s.alone i).Ok := by
  have hi := exec_ok i hs
  unfold State.alone
  split
  · next t h => rwa [h] at hi
  · exact hs
theorem State.ok_trapped {s u : State} {b : Bundle} (hs : s.Ok) (h : s.trapped b = some u) : u.Ok := by
  obtain ⟨i, -, hi⟩ := List.exists_of_findSome?_eq_some h
  split at hi
  · exact Option.some.inj hi ▸ State.ok_alone i hs
  · exact absurd hi nofun
theorem State.ok_issueBundle {s : State} (b raw) (hs : s.Ok) : OkOut (s.issueBundle b raw) := by
  have hp := State.ok_prepared hs
  refine okOut_if (State.ok_drainCycle _ (State.ok_onCur_of (fun _ hc => hc) hs)) (okOut_if (State.ok_freezeBy _ _ _ hs) ?_)
  split
  · next u h => exact State.ok_drainCycle _ (State.ok_trapped hp h)
  · refine okOut_andThen (State.ok_runSyls _ hp) fun u hu => State.ok_advance _ (State.ok_closeBefore _ _ ?_)
    exact State.ok_onCur_of (fun c hc => by rwa [c.sram_issued]) hu
theorem State.ok_issueNext {s : State} (hs : s.Ok) : OkOut s.issueNext := by
  have held : ∀ h rest, ((s.onCur fun c => c.takeHeld h rest).drainCycle s.cur).Ok := fun h rest =>
    State.ok_drainCycle _ (State.ok_onCur_of (fun c hc => by rwa [c.sram_takeHeld]) hs)
  have stop := State.ok_takeHead s.cur hs
  refine okOut_if stop ?_
  split
  · exact State.ok_fetchMiss _ hs
  · dsimp only
    split
    · refine okOut_if stop ?_
      split
      · exact held _ _
      · exact State.ok_drainCycle _ (State.ok_fetchTrap _ _ hs)
    · refine okOut_if (State.ok_endBefore _ hs) ?_
      split
      · exact State.ok_if stop (held _ _)
      · refine okOut_if stop (okOut_andThen (exec_ok .malformedBundle ?_) fun t ht => State.ok_drainCycle _ ht)
        exact State.ok_onCur_of (fun c hc => by rwa [c.sram_current]) hs
      · exact okOut_if (State.ok_headAgain _ hs) (State.ok_issueBundle _ _ hs)
theorem State.ok_clockOf {s : State} (late) (hs : s.Ok) : OkOut (s.clockOf late) := by
  unfold State.clockOf
  dsimp only
  split
  · exact hs
  · exact okOut_if (State.ok_freezeBy _ _ _ hs) (okOut_if (State.ok_advance _ (State.ok_soon _ hs))
      (okOut_if (State.ok_bubble _ hs) (State.ok_issueNext (State.ok_deliverYield hs))))
  · exact State.ok_if (State.ok_drainCycle _ hs) hs
theorem State.ok_coreClock {s : State} (k) (hs : s.Ok) : OkOut (s.coreClock k) := by
  have hk : (({ s with cur := k } : State).onCore k fun c => { c with clk := (c.clk.awake s.now).turn }).Ok :=
    State.ok_onCore_of (fun _ hc => hc) hs
  exact State.ok_clockOf _ (State.ok_if (State.ok_soon _ hk) hk)
/-- Every step that goes on keeps the invariant. -/
theorem step_ok {s : State} (hs : s.Ok) : OkOut (step s) := by
  unfold step
  split
  · exact State.ok_nextClock hs
  · exact State.ok_coreClock _ hs
  · exact exec_ok _ hs
  · exact exec_ok _ hs

end Sys2Proof.Machine
end

section
/-! PROOFS. The invariant of every step (R12, R187), and the machine right after reset. -/

namespace Sys2Proof.Machine

/-- Settles O59: the conditions are an invariant of the step, read off a case analysis of what can be due. -/
theorem stepKeepsInvariant : Obligations.StepKeepsInvariant := by
  unfold Obligations.StepKeepsInvariant
  intro s t hm hp hk h
  have ht := step_ok (s.ok_iff.2 ⟨hm, hp, hk⟩)
  rw [h] at ht
  exact t.ok_iff.1 ht
/-- Settles O53: memory by the invariant's lemma, the cores by the core at reset, the rest by the reset state's own fields. -/
theorem resetState : Obligations.ResetState := by
  obtain ⟨hm, hp, -⟩ := State.reset.ok_iff.1 reset_ok
  refine ⟨hm, rfl, rfl, fun k => ?_, hp, rfl, fun q => ?_, rfl, rfl, rfl, rfl, rfl, rfl, rfl, rfl, rfl, fun k => ?_, rfl, rfl⟩
  · rw [reset_core]
    rfl
  · simp [State.reset]
    rfl
  · rw [reset_core]
    rfl

end Sys2Proof.Machine
end

section
/-! SUPPORT. Syllables under a true guard, the target of a branch, and words put together from bits. -/

namespace Sys2Proof.Machine

/-- A syllable under a true guard acts as any other change of the core with the same outcome here. -/
theorem State.syl_eq {s : State} {g : PReg} {f h : Core → Core} (hg : s.core.g0 g = true) (e : f s.core = h s.core) :
    s.syl g f = .next (s.onCur h) := by
  rw [State.syl_true hg]
  exact congrArg _ (State.onCur_congr e)
/-- A branch goes 16 bytes for each step of its signed displacement (R116). -/
theorem branchTarget_eq (pc : Word) (disp : BitVec 20) : branchTarget pc disp = pc + BitVec.ofInt 64 (16 * disp.toInt) := by
  unfold branchTarget
  congr 1
  rw [BitVec.signExtend, BitVec.shiftLeft_eq_mul_twoPow]
  rw [show BitVec.twoPow 64 4 = BitVec.ofInt 64 16 by decide, ← BitVec.ofInt_mul, Int.mul_comm]
/-- The bits of a number put together from bits laid one after another. -/
theorem testBit_foldr_bits {α : Type} (p : α → Bool) : ∀ (l : List α) (i : Nat),
    (l.foldr (fun a x => (if p a then 1 else 0) + 2 * x) 0).testBit i = (l[i]?.map p).getD false
  | [], i => by simp
  | a :: l, 0 => by
    rw [List.foldr_cons, Nat.testBit_zero]
    cases h : p a <;> simp [h]
  | a :: l, i + 1 => by
    rw [List.foldr_cons, Nat.testBit_add_one, show ∀ y : Nat, ((if p a then 1 else 0) + 2 * y) / 2 = y by intro y; split <;> omega,
      testBit_foldr_bits p l i]
    simp
/-- A predicate of 64 bits, bit i from p i. -/
def predOf (p : Nat → Bool) : Word := BitVec.ofNat 64 ((List.range 64).foldr (fun i x => (if p i then 1 else 0) + 2 * x) 0)
theorem getLsbD_predOf (p : Nat → Bool) {i : Nat} (hi : i < 64) : (predOf p).getLsbD i = p i := by
  rw [predOf, BitVec.getLsbD_ofNat, testBit_foldr_bits]
  simp [hi]

end Sys2Proof.Machine
end

section
/-! SUPPORT. How a vector compare ends (R143). -/

namespace Sys2Proof.Machine

theorem tagOk_iff (t want : Tag) : tagOk t want = true ↔ t = want ∨ t = .clean ∨ t = .poison := by
  simp [tagOk, or_assoc]

/-- How a vector compare ends (R143). -/
def State.comparesTo (s : State) (o : Out) (g d : PReg) (a b : VReg) (src : Tag) (f : Half → Half → Bool) : Prop :=
  let gm := s.core.pr g
  let x := s.core.vr a
  let y := s.core.vr b
  let ok (v : VecR) : Prop := v.tag = src ∨ v.tag = .clean ∨ v.tag = .poison
  (¬ (ok x ∧ ok y) → o = .next (s.onCur fun c => c.raise 1 .format)) ∧
  (gm = 0 → ok x → ok y → o = .next s) ∧
  (gm ≠ 0 → ok x → ok y → x.tag = .poison ∨ y.tag = .poison → o = .next (s.onCur fun c => c.raise 1 .poisonUse)) ∧
  (gm ≠ 0 → ok x → ok y → x.tag ≠ .poison → y.tag ≠ .poison → ∃ v : Word,
    (∀ i, i < 64 → v.getLsbD i = f (lane x.bits i) (lane y.bits i)) ∧
    o = .next (s.onCur fun c => (c.meter (40 * popcount gm)).fly 2 1 (.pred (c.physP d) gm v)))

theorem State.comparesTo_cmpV (s : State) (g d : PReg) (a b : VReg) (src : Tag) (f : Half → Half → Bool) :
    s.comparesTo (s.act (·.cmpV g d a b src f)) g d a b src f := by
  have go {h : Core → Core} (e : s.core.cmpV g d a b src f = h s.core) : s.act (·.cmpV g d a b src f) = .next (s.onCur h) :=
    congrArg Host.Outcome.next (State.onCur_congr e)
  unfold State.comparesTo
  simp only [← tagOk_iff]
  refine ⟨fun h => go ?_, fun hg hx hy => ?_, fun hg hx hy hp => go ?_, fun hg hx hy hx' hy' =>
    ⟨predOf fun i => f (lane (s.core.vr a).bits i) (lane (s.core.vr b).bits i), fun i hi => getLsbD_predOf _ hi, go ?_⟩⟩
  · unfold Core.cmpV
    exact Core.checked_head (by simpa [imp_iff_not_or] using h)
  · refine congrArg _ (State.onCur_id ?_)
    simp [Core.cmpV, Core.checked, firstFault, hx, hy, hg]
  · unfold Core.cmpV
    rw [Core.checked_tail (by simp [hx, hy]), Core.checked_head (by simpa using ⟨hg, hp⟩)]
  · unfold Core.cmpV
    rw [Core.checked_tail (by simp [hx, hy]), Core.checked_tail (by simp [hx', hy']), Core.checked_nil, if_neg hg]
    rfl

end Sys2Proof.Machine
end

section
/-! SUPPORT. The special registers: what is reserved, read only and refused, and how a WRSR ends (R30, R122, R187, R329). -/

namespace Sys2Proof.Machine

/-- The top bits of a word are not zero where the word does not lie below them. -/
theorem extractLsb'_top_ne_zero (k m : Nat) (v : BitVec (k + m)) : v.extractLsb' k m ≠ 0#m ↔ 2 ^ k ≤ v.toNat := by
  rw [Ne, BitVec.toNat_eq, BitVec.extractLsb'_toNat, Nat.shiftRight_eq_div_pow,
    Nat.mod_eq_of_lt (Nat.div_lt_of_lt_mul (by rw [← Nat.pow_add]; exact v.isLt))]
  simp [Nat.div_eq_zero_iff]

theorem srSupervisor_iff (n : BitVec 8) : srSupervisor n = true ↔ n = 0x10 ∨ n = 0x11 ∨ (0x18 ≤ n.toNat ∧ n.toNat ≤ 0x1F) := by
  simp [srSupervisor, BitVec.toNat_eq, or_assoc]
theorem srReadOnly_iff (priv : Bool) (n : BitVec 8) : srReadOnly priv n = false ↔
    n = 0x01 ∨ n = 0x02 ∨ n = 0x06 ∨ (n = 0x10 ∨ n = 0x11 ∨ (0x18 ≤ n.toNat ∧ n.toNat ≤ 0x1F)) ∨
      (priv = true ∧ (n = 0x03 ∨ n = 0x04)) := by
  rw [← srSupervisor_iff, srReadOnly, Bool.not_eq_false']
  simp [or_assoc]
theorem hpatBad_iff (v : Word) : hpatBad v = true ↔ ∃ k, k < 8 ∧ v.toNat / 2 ^ (8 * k) % 256 ≠ 0 ∧
    (v.toNat / 2 ^ (8 * k) % 256 < 13 ∨ 35 < v.toNat / 2 ^ (8 * k) % 256) := by
  simp [hpatBad, BitVec.extractLsb'_toNat, Nat.shiftRight_eq_div_pow, -Nat.not_le]
theorem calNext_lt (now : Nat) (k : CoreId) : calNext now k < 500 := Nat.mod_lt _ (by decide)
theorem calNext_slot (now : Nat) (k : CoreId) : (now + calNext now k) % 500 = 5 * (k.val % 96) := by
  unfold calNext slotOf
  omega

theorem srBad_iff (n : BitVec 8) (v : Word) : srBad n v = true ↔
    (n = 0x03 ∧ 2 ^ 32 ≤ v.toNat) ∨ (n = 0x04 ∧ v.getLsbD 6 = true) ∨ (n = 0x10 ∧ (v.toNat % 16 ≠ 0 ∨ 2 ^ 48 ≤ v.toNat)) ∨
      (n = 0x11 ∧ (v.toNat % 64 ≠ 0 ∨ 2 ^ 22 ≤ v.toNat)) ∨ (0x19 ≤ n.toNat ∧ n.toNat ≤ 0x1F ∧ hpatBad v = true) := by
  have e3 := extractLsb'_top_ne_zero 32 32 v
  have e16 := extractLsb'_top_ne_zero 48 16 v
  have e17 := extractLsb'_top_ne_zero 22 42 v
  unfold srBad
  split
  case h_1 h => simpa [BitVec.eq_of_toNat_eq (y := 0x03) h] using e3
  case h_2 h => simp [BitVec.eq_of_toNat_eq (y := 0x04) h]
  case h_3 h => simpa [BitVec.eq_of_toNat_eq (y := 0x10) h] using or_congr_right e16
  case h_4 h => simpa [BitVec.eq_of_toNat_eq (y := 0x11) h] using or_congr_right e17
  case h_5 h3 h4 h16 h17 =>
    have ne {m : BitVec 8} (h : ¬ n.toNat = m.toNat) : n ≠ m := fun e => h (congrArg _ e)
    simp [show n ≠ 3#8 from ne h3, show n ≠ 4#8 from ne h4, show n ≠ 16#8 from ne h16, show n ≠ 17#8 from ne h17, and_assoc]

theorem getLsbD_ctb (c : Ctx) (t : TagId) : c.ctb.getLsbD t.val = decide (c.tags[t].st = .complete) := by
  have h := testBit_foldr_bits (fun t : CTag => decide (t.st = .complete)) c.tags.toList t.val
  simp only [decide_eq_true_eq] at h
  rw [Ctx.ctb, BitVec.getLsbD_ofNat, h]
  simp

/-- The faults of a WRSR in their order (R106, R122, R329). -/
def wrsrFaults (c : Core) (n : BitVec 8) (v : Word) : List (Bool × Cause) :=
  [(srReadOnly c.ctx.x.priv n || srBad n v, .illegal), (!c.ctx.x.priv && srSupervisor n, .priv)]
/-- A WRSR that has a fault raises it, whatever its register. -/
theorem execWrsr_raise {s : State} {g : PReg} {a : SReg} {n : BitVec 8} {z : Cause} (hg : s.core.g0 g = true)
    (hf : firstFault (wrsrFaults s.core n (s.core.s a)) = some z) : execWrsr g a n s = .next (s.onCur fun c => c.raise 0 z) := by
  have hc : ∀ f, s.core.checked 0 (wrsrFaults s.core n (s.core.s a)) f = s.core.raise 0 z := fun f => by rw [Core.checked, hf]
  unfold wrsrFaults at hf hc
  unfold execWrsr
  by_cases h : n.toNat < 0x18
  · simp only [if_pos h]
    exact State.syl_eq hg (hc _)
  · simp only [if_neg h, hg, Bool.not_true, Bool.false_eq_true, if_false, hf, Option.isSome_some, if_true]
    exact congrArg Host.Outcome.next (State.onCur_congr (hc id))
/-- A WRSR without a fault: a result on its way, or an HPAT register of the package at once, but for HPAT0 (R122, R187). -/
theorem execWrsr_write {s : State} {g : PReg} {a : SReg} {n : BitVec 8} (hg : s.core.g0 g = true)
    (hf : firstFault (wrsrFaults s.core n (s.core.s a)) = none) : execWrsr g a n s =
      if n.toNat < 0x18 then .next (s.onCur fun c => c.fly 1 0 (.spr n (s.core.s a)))
      else if n.toNat = 0x18 then .next s
      else .next { s with hpat := s.hpat.setIfInBounds (n.toNat - 0x18) (s.core.s a) } := by
  have hc : ∀ f, s.core.checked 0 (wrsrFaults s.core n (s.core.s a)) f = f s.core := fun f => by rw [Core.checked, hf]
  unfold wrsrFaults at hf hc
  unfold execWrsr
  by_cases h : n.toNat < 0x18
  · simp only [if_pos h]
    exact State.syl_eq hg (hc _)
  · simp only [if_neg h, hg, Bool.not_true, Bool.false_eq_true, if_false, hf, Option.isSome_none]

end Sys2Proof.Machine
end

section
/-! PROOFS. Scalar forms, special registers, partial writes, vector compares and written-out words (R15, R22, R28,
R30, R33, R111, R116, R122, R143). -/

namespace Sys2Proof.Machine

/-- Settles O3: under the true guard each compare's value is the order's, decided. -/
theorem compareResults : Obligations.CompareResults := by
  unfold Obligations.CompareResults
  intro s g d a b i n hg x y lands
  have cmp {f : Word → Word → Bool} {b : SReg} {v : Prop} [Decidable v] (h : f (s.core.s a) (s.core.s b) = decide v) :
      s.syl g (·.cmpRR d a b f) = lands v := by
    refine State.syl_eq hg ?_
    simp only [Core.cmpRR, h, Word.ofBool, decide_eq_true_eq]
    rfl
  refine ⟨cmp ?_, cmp ?_, cmp ?_, cmp ?_, cmp ?_, cmp ?_, cmp ?_, cmp ?_, cmp ?_⟩
  · exact beq_eq_decide ..
  · exact (congrArg _ (beq_eq_decide ..)).trans decide_not.symm
  · rfl
  · exact decide_eq_decide.2 BitVec.lt_def
  · simp [slt, x, y, ← decide_not]
  · exact decide_eq_decide.2 BitVec.le_def
  · exact beq_eq_decide ..
  · rfl
  · simp [x]
/-- Settles O6: the target is the signed displacement's, and the jumps' one check is that of the target's low bits. -/
theorem branchForms : Obligations.BranchForms := by
  unfold Obligations.BranchForms
  intro s g a disp hg pc x goes calls
  have bad {f : Core → Core} (h : x.toNat % 16 ≠ 0) :
      s.syl g (fun c => c.checked 0 [(jumpBad (c.s a), .align)] f) = .next (s.onCur fun c => c.raise 0 .align) :=
    State.syl_eq hg (Core.checked_head (by simpa [jumpBad] using h))
  have good {f h : Core → Core} (e : f s.core = h s.core) (hx : x.toNat % 16 = 0) :
      s.syl g (fun c => c.checked 0 [(jumpBad (c.s a), .align)] f) = .next (s.onCur h) :=
    State.syl_eq hg ((Core.checked_tail (by simpa [jumpBad] using hx)).trans e)
  refine ⟨State.syl_eq hg ?_, State.syl_eq hg ?_, fun h => ⟨good rfl h, good rfl h⟩, fun h => ⟨bad h, bad h⟩⟩
  · rw [branchTarget_eq]; rfl
  · rw [branchTarget_eq]; rfl
/-- Settles O8: a read and a write are each one check of two faults; the values come register by register. -/
theorem specialRegisterAccess : Obligations.SpecialRegisterAccess := by
  unfold Obligations.SpecialRegisterAccess
  intro s g d a n hg c v priv reserved writable
  have hres : reserved ↔ srSupervisor n = true := (srSupervisor_iff n).symm
  have hwri : writable ↔ srReadOnly c.ctx.x.priv n = false := (srReadOnly_iff _ n).symm
  have held (hp : priv = false) (hr : reserved) : (!s.core.ctx.x.priv && srSupervisor n) = true := by
    rw [show s.core.ctx.x.priv = false from hp, hres.1 hr]
    rfl
  have free (h : priv = true ∨ ¬ reserved) : (!s.core.ctx.x.priv && srSupervisor n) = false := by
    rw [Bool.and_eq_false_iff, Bool.not_eq_false']
    exact h.imp_right fun h => Bool.eq_false_of_not_eq_true fun e => h (hres.2 e)
  have takes (hw : writable) (hb : srBad n v = false) : (srReadOnly s.core.ctx.x.priv n || srBad n v) = false :=
    Bool.or_eq_false_iff.2 ⟨hwri.1 hw, hb⟩
  have sound (hw : writable) (hb : srBad n v = false) (hp : priv = true ∨ ¬ reserved) : firstFault (wrsrFaults s.core n v) = none :=
    firstFault_none fun x hx => by
      rcases List.mem_pair.1 hx with rfl | rfl
      exacts [takes hw hb, free hp]
  refine ⟨fun hp hr => ?_, fun h => ?_, fun h => ?_, fun hw hb hp hr => ?_, fun hw hb hp hn => ?_, fun hp hn => ?_, fun hp lo hi hb => ?_,
    ?_, ?_⟩
  · exact State.syl_eq hg (Core.checked_head (held hp hr))
  · exact State.syl_eq hg (Core.checked_tail (free h))
  · refine execWrsr_raise hg ?_
    have bad : (srReadOnly s.core.ctx.x.priv n || srBad n v) = true := by
      rw [Bool.or_eq_true]
      exact h.imp_left fun h => Bool.eq_true_of_not_eq_false fun e => h (hwri.2 e)
    exact if_pos bad
  · refine execWrsr_raise hg ?_
    change firstFault (wrsrFaults s.core n v) = _
    rw [wrsrFaults, takes hw hb, held hp hr]
    rfl
  · exact (execWrsr_write hg (sound hw hb hp)).trans (if_pos hn)
  · subst hn
    exact execWrsr_write hg (sound (.inr (.inr (.inr (.inl (.inr (.inr (by decide))))))) rfl (.inl hp))
  · have h := execWrsr_write hg (sound (.inr (.inr (.inr (.inl (.inr (.inr ⟨by omega, hi⟩)))))) hb (.inl hp))
    rwa [if_neg (by omega), if_neg (by omega)] at h
  · refine ⟨rfl, rfl, rfl, rfl, rfl, fun t => getLsbD_ctb c.ctx t, rfl, rfl, rfl, rfl, rfl, ?_, rfl, rfl, rfl, rfl, rfl, ?_⟩
    · have hn : (s.readSpr 0x0B).toNat = calNext s.now s.cur :=
        Nat.mod_eq_of_lt (Nat.lt_trans (calNext_lt s.now s.cur) (by decide))
      rw [hn]
      exact ⟨calNext_lt s.now s.cur, calNext_slot s.now s.cur⟩
    · intro i
      fin_cases i <;> simp [State.readSpr]
  · rw [srBad_iff, hpatBad_iff]
/-- Settles O11 by the cases of the tag's choice. -/
theorem partialWriteTags : Obligations.PartialWriteTags := by
  unfold Obligations.PartialWriteTags
  intro old rt pois res
  refine ⟨by simp [writeTag, res], fun h => ?_, by simp [writeTag], fun h1 h2 h3 => ?_, by simp [writeTag, res]⟩
  · simp [writeTag, h, res]
  · simp [writeTag, h1, h2, h3]
/-- Settles O16: the seven forms share the end of a vector compare. -/
theorem vectorCompares : Obligations.VectorCompares := by
  unfold Obligations.VectorCompares
  intro s g d a b c gm x y f form
  refine ⟨s.comparesTo_cmpV .., s.comparesTo_cmpV .., s.comparesTo_cmpV .., s.comparesTo_cmpV .., s.comparesTo_cmpV ..,
    s.comparesTo_cmpV .., ?_⟩
  have e : (fun u v : Half => decide (u.toNat < v.toNat)) = fun u v => decide (u < v) := by
    funext u v
    exact decide_eq_decide.2 BitVec.lt_def.symm
  simp only [e]
  exact s.comparesTo_cmpV ..
/-- Settles O54: the words decode by evaluation. -/
theorem decodedWords : Obligations.DecodedWords := by
  unfold Obligations.DecodedWords
  decide

end Sys2Proof.Machine
end

section
/-! PROOFS. Refutations: a loop's drain begun twice, an SRET after a resumption, and a context's first bundle. -/

namespace Sys2Proof.Machine

open Sys2Proof.Tests (at0 after priv pitched)

/-- A core with a pre-emption pending whose loop drain has begun while passes are left. -/
def redrain (c : Core) : Core :=
  (c.onSpr fun x => { x with lcnt := 1, lstg := 0x80 }).onRun fun r => { r with preempt := true, drain := some 5 }

/-- Refutes O7: the statement lets only a loop whose drain has not begun begin it, the model begins it again where the request is still
pending and passes are left: here 5 passes left to the drain become 1. -/
theorem not_loopForms : ¬ Obligations.LoopForms := by
  unfold Obligations.LoopForms
  intro h
  obtain ⟨-, -, hgo, -⟩ := h (at0 redrain) 0 0 0 ⟨0, none⟩ 0
  obtain ⟨hpass, -⟩ := hgo (by decide) (by simp [at0]; decide)
  have hx := hpass (by decide)
  have hd := congrArg (fun o => (after o).core.run.drain) hx
  exact absurd hd (by decide)

/-- A supervisor core that a resumption left with another restart point than the target of SRET. -/
def strays (c : Core) : Core := (priv (pitched c)).onCtx fun x => { x with resumed := some 16 }

/-- Refutes O9: an SRET forgets the restart point that a resumption left and the statement's next state keeps it. -/
theorem not_systemForms : ¬ Obligations.SystemForms := by
  unfold Obligations.SystemForms
  intro h
  obtain ⟨-, -, -, hact⟩ := h (at0 strays) 0 0 0 0
  obtain ⟨-, -, -, -, -, -, -, -, -, hret⟩ := hact (by decide)
  have hx := hret (by decide) (by decide) (by decide) (by decide)
  have hr := congrArg (fun o => (after o).core.ctx.resumed) hx
  exact absurd hr (by decide)

/-- Core 0 about to issue a bundle of four NOPs, as the first one of a context that has come to it: its clock still has the time from which
the context may issue. -/
def newcomer : State := (State.reset.withFetchWord 32 0).onCore 0 fun c => { c with clk := { c.clk with start := some 0 } }

/-- The newcomer meets every premise of the statement about a bundle that issues. -/
theorem newcomer_willIssue : newcomer.willIssue 0 0 ⟨.nop, .nop, .nop, .nop⟩ := by
  refine ⟨by decide, by decide, by decide, by decide, by decide, by decide, by decide, fun _ => by decide, by decide, by decide⟩

/-- Refutes O56: the clock also takes the newcomer's start time away (R257), the statement's next state keeps it. -/
theorem not_stepRunsBundle : ¬ Obligations.StepRunsBundle := by
  unfold Obligations.StepRunsBundle
  intro h
  obtain ⟨-, -, -, -, hruns, -⟩ := h newcomer 0 [] 0 _ rfl newcomer_willIssue
  have hx := hruns (.inl (by decide)) (by decide) (by decide)
  have hr := congrArg (fun o => (after o).core.clk.start) hx
  exact absurd hr (by decide)

end Sys2Proof.Machine
end

section
/-! SUPPORT. Every instruction and every step of the device has a next state, and so has every clock of a core. -/

namespace Sys2Proof.Machine

theorem goesOn_next (t : State) : goesOn (.next t) := ⟨t, rfl⟩
theorem State.goesOn_onWrite (s : State) (f : PortId → Nat → Word → State) : goesOn (s.onWrite f) := by
  fun_cases State.onWrite s f <;> exact goesOn_next _
theorem State.goesOn_orReply {s : State} {o : Out} (ho : goesOn o) : goesOn (s.orReply o) := by
  fun_cases State.orReply s o
  case case3 => exact ho
  all_goals exact goesOn_next _
theorem goesOn_ite {p : Prop} [Decidable p] {a b : Out} (ha : goesOn a) (hb : goesOn b) : goesOn (if p then a else b) := by
  split
  · exact ha
  · exact hb
theorem goesOn_execSequencerNumbering (s : State) : goesOn (execSequencerNumbering s) := by
  refine State.goesOn_orReply ?_
  cases s.sender s.arg with
  | none => exact goesOn_next _
  | some p =>
    dsimp only
    cases s.launchOf p.1.launch with
    | none => exact goesOn_next _
    | some l =>
      dsimp only
      cases p.2.kind
      case acq => exact goesOn_ite (goesOn_next _) (goesOn_next _)
      all_goals exact goesOn_next _
theorem goesOn_execWeirOperation (s : State) : goesOn (execWeirOperation s) := by
  refine State.goesOn_orReply ?_
  cases s.sender s.arg with
  | none => exact goesOn_next _
  | some p =>
    refine goesOn_ite (goesOn_next _) (goesOn_ite (goesOn_next _) ?_)
    cases p.2.kind <;> exact goesOn_next _
theorem goesOn_execPublishCounterWrite (s : State) : goesOn (execPublishCounterWrite s) := by
  refine State.goesOn_orReply ?_
  cases s.sender s.arg with
  | none => exact goesOn_next _
  | some p =>
    dsimp only
    cases s.draw.hostAddr p.2.b 8 with
    | error x => exact goesOn_next _
    | ok a => exact goesOn_ite (goesOn_next _) (goesOn_ite (goesOn_next _) (goesOn_next _))
/-- Every instruction and every step of the device has an outcome that goes on: at once, or on each branch of its definition. -/
theorem goesOn_exec (i : Instr) (s : State) : goesOn (exec i s) := by
  cases i with
  | add | sub | mul | mulh | mulhu | div | divu | rem | remu | and | or | xor | andn | shl | shr | sra | min | max | minu | maxu
    | sel | clz | popc | lea | addi | andi | ori | xori | shli | shri | srai | li | lih | cmpeq | cmpne | cmplt | cmpltu | cmple
    | cmpleu | cmpeqi | cmplti | pand | por | pxor | pandn | pnot | pbit | ldb | ldbz | ldw | ldwz | ldd | stb | stw | std | br | brl
    | jmp | jmpl | loop | cloop | region | regionc | endTask | yield | trap | calsync | rdsr | sret | vldRaw | vldI32 | vldF32
    | vldBf16 | vldFp8e4 | vldFp8e5 | vldFp4 | vldInt8 | vldRns | vst | vlds | vbcst | vspill | vfill | vmovs | vmovv | vxor | vcopy
    | vaddrI32 | vsubrI32 | vnegrI32 | vrotl | vswap | vcswap | vpermr | vrnsAdd | vrnsSub | vrnsNeg | vrnsMulc | vaddF32 | vsubF32
    | vmulF32 | vfmaF32 | vfmsF32 | vminF32 | vmaxF32 | vabsF32 | vnegF32 | vaddBf16 | vmulBf16 | vfmaBf16 | vaddI32 | vsubI32
    | vmulI32 | vmulhI32 | vand | vor | vandn | vshlI32 | vshrI32 | vsraI32 | vminI32 | vmaxI32 | vsel | vmov | vsplat | vcmpeqF32
    | vcmpltF32 | vcmpleF32 | vcmpunF32 | vcmpeqI32 | vcmpltI32 | vcmpltuI32 | vcvtBf16F32Rne | vcvtBf16F32Sr | vcvtF32Bf16
    | vcvtFp8e4F32Rne | vcvtFp8e4F32Sat | vcvtFp8e4F32Sr | vcvtFp8e4F32Srsat | vcvtFp8e5F32Rne | vcvtFp8e5F32Sat | vcvtFp8e5F32Sr
    | vcvtFp8e5F32Srsat | vcvtF32Fp8e4 | vcvtF32Fp8e5 | vcvtFp4F32Rne | vcvtFp4F32Sr | vcvtF32Fp4 | vcvtI32F32Rne | vcvtI32F32Rtz
    | vcvtF32I32 | vcvtRnsI32 | vcvtI32Rns | vcvtInt8I32Sat | vqmxFp8e4 | vqmxFp4 | vrsqaF32 | vrcpaF32 | vexp2aF32 | vlog2aF32
    | vsqrtF32 | vdivF32 | vredaddF32 | vredmaxF32 | vredaddI32 | vbcastl | vperm | verase | vretag | vtagq | wldBf16 | wldFp8e4
    | wldFp8e5 | wldFp4 | wldInt8 | wldt | wclr | mmaBf16 | mmaFp8e4 | mmaFp8e5 | mmaFp4 | mmaI8r | mmsI8r | aclr | afillF32
    | afillRns | astat | drainF32 | drainBf16 | drainAdd | drainAddc | drainRns | drainI32 | cpyIn | cpyInx | cpyOut | cpyPeer
    | cpyMc | cpyT | cpyFab | cpyRin | cpyHost | twany | twall | tfirst | tclr | tstat | qfence | rwait | rfree | radvp | radvc
    | rset | rsetUnconfigure | tlook | tins | tdel | lstW | lstD | lstv | rel | acq | acqs | phase | synAdd | synCas | synMin
    | synMax | synXch | synLd | synPost | synWait | synBar | fork | grwd | gbar | gcancel | gquit | gstat | publish | launch | cancel
    | nop | levelAgeing | reservationStart | lifetimeCheckpoint | powerOff => exact goesOn_next _
  | claim | handover | thaw | preempt | fwupd | fwcommit | attest | mgmtRegisterWrite | accessControlWrite =>
    exact State.goesOn_onWrite ..
  | wrsr g a imm =>
    change goesOn (execWrsr g a imm s)
    fun_cases execWrsr g a imm s <;> exact goesOn_next _
  | tlbi g d a b x =>
    change goesOn (execTlbi g d a b x s)
    fun_cases execTlbi g d a b x s <;> exact goesOn_next _
  | resultLanding =>
    change goesOn (execResultLanding s)
    fun_cases execResultLanding s <;> exact goesOn_next _
  | matrixRowLanding =>
    change goesOn (execMatrixRowLanding s)
    fun_cases execMatrixRowLanding s <;> exact goesOn_next _
  | icacheFill =>
    change goesOn (execIcacheFill s)
    fun_cases execIcacheFill s <;> exact goesOn_next _
  | crossingDelivery =>
    change goesOn (execCrossingDelivery s)
    fun_cases execCrossingDelivery s <;> exact goesOn_next _
  | regionCommit =>
    change goesOn (execRegionCommit s)
    fun_cases execRegionCommit s <;> exact goesOn_next _
  | effectCommandSend =>
    change goesOn (execEffectCommandSend s)
    fun_cases execEffectCommandSend s <;> exact goesOn_next _
  | sequencerNumbering => exact goesOn_execSequencerNumbering ..
  | weirOperation => exact goesOn_execWeirOperation ..
  | logCompaction =>
    change goesOn (execLogCompaction s)
    fun_cases execLogCompaction s <;> exact goesOn_next _
  | logTimeout =>
    change goesOn (execLogTimeout s)
    fun_cases execLogTimeout s <;> exact goesOn_next _
  | publishCounterWrite => exact goesOn_execPublishCounterWrite ..
  | copyStart =>
    change goesOn (execCopyStart s)
    fun_cases execCopyStart s <;> exact goesOn_next _
  | atomService =>
    change goesOn (execAtomService s)
    fun_cases execAtomService s <;> exact goesOn_next _
  | readAtomWrite =>
    change goesOn (execReadAtomWrite s)
    fun_cases execReadAtomWrite s <;> exact goesOn_next _
  | copyCompletion =>
    change goesOn (execCopyCompletion s)
    fun_cases execCopyCompletion s <;> exact goesOn_next _
  | cpyInxLanding =>
    change goesOn (execCpyInxLanding s)
    fun_cases execCpyInxLanding s <;> exact goesOn_next _
  | spillFillCompletion =>
    change goesOn (execSpillFillCompletion s)
    fun_cases execSpillFillCompletion s <;> exact goesOn_next _
  | peerCopyTransfer =>
    change goesOn (execPeerCopyTransfer s)
    fun_cases execPeerCopyTransfer s <;> exact goesOn_next _
  | drainAddApply =>
    change goesOn (execDrainAddApply s)
    fun_cases execDrainAddApply s <;> exact goesOn_next _
  | eccWriteback =>
    change goesOn (execEccWriteback s)
    fun_cases execEccWriteback s <;> exact goesOn_next _
  | refreshSlot =>
    change goesOn (execRefreshSlot s)
    fun_cases execRefreshSlot s <;> exact goesOn_next _
  | selfRefreshEntry =>
    change goesOn (execSelfRefreshEntry s)
    fun_cases execSelfRefreshEntry s <;> exact goesOn_next _
  | selfRefreshExit =>
    change goesOn (execSelfRefreshExit s)
    fun_cases execSelfRefreshExit s <;> exact goesOn_next _
  | trapSequence =>
    change goesOn (execTrapSequence s)
    fun_cases execTrapSequence s <;> exact goesOn_next _
  | shootdownComplete =>
    change goesOn (execShootdownComplete s)
    fun_cases execShootdownComplete s <;> exact goesOn_next _
  | taskRetirement =>
    change goesOn (execTaskRetirement s)
    fun_cases execTaskRetirement s <;> exact goesOn_next _
  | completionFinalWrite =>
    change goesOn (execCompletionFinalWrite s)
    fun_cases execCompletionFinalWrite s <;> exact goesOn_next _
  | inletSlotWrite =>
    change goesOn (execInletSlotWrite s)
    fun_cases execInletSlotWrite s <;> exact goesOn_next _
  | inletTailWrite =>
    change goesOn (execInletTailWrite s)
    fun_cases execInletTailWrite s <;> exact goesOn_next _
  | inletCancelWrite =>
    change goesOn (execInletCancelWrite s)
    fun_cases execInletCancelWrite s <;> exact goesOn_next _
  | fabricLaunchPacket =>
    change goesOn (execFabricLaunchPacket s)
    fun_cases execFabricLaunchPacket s <;> exact goesOn_next _
  | fabricCancelPacket =>
    change goesOn (execFabricCancelPacket s)
    fun_cases execFabricCancelPacket s <;> exact goesOn_next _
  | dispatchDecision =>
    change goesOn (execDispatchDecision s)
    fun_cases execDispatchDecision s <;> exact goesOn_next _
  | waitWordRead =>
    change goesOn (execWaitWordRead s)
    fun_cases execWaitWordRead s <;> exact goesOn_next _
  | cancelDelivery =>
    change goesOn (execCancelDelivery s)
    fun_cases execCancelDelivery s <;> exact goesOn_next _
  | taskStop =>
    change goesOn (execTaskStop s)
    fun_cases execTaskStop s <;> exact goesOn_next _
  | groupEngineCommand =>
    change goesOn (execGroupEngineCommand s)
    fun_cases execGroupEngineCommand s <;> exact goesOn_next _
  | forkAccept =>
    change goesOn (execForkAccept s)
    fun_cases execForkAccept s <;> exact goesOn_next _
  | groupDeadline =>
    change goesOn (execGroupDeadline s)
    fun_cases execGroupDeadline s <;> exact goesOn_next _
  | groupBarrierComplete =>
    change goesOn (execGroupBarrierComplete s)
    fun_cases execGroupBarrierComplete s <;> exact goesOn_next _
  | groupStatusMirror =>
    change goesOn (execGroupStatusMirror s)
    fun_cases execGroupStatusMirror s <;> exact goesOn_next _
  | preemptRequest =>
    change goesOn (execPreemptRequest s)
    fun_cases execPreemptRequest s <;> exact goesOn_next _
  | preemptTake =>
    change goesOn (execPreemptTake s)
    fun_cases execPreemptTake s <;> exact goesOn_next _
  | contextSave =>
    change goesOn (execContextSave s)
    fun_cases execContextSave s <;> exact goesOn_next _
  | pitchWriteOut =>
    change goesOn (execPitchWriteOut s)
    fun_cases execPitchWriteOut s <;> exact goesOn_next _
  | resumption =>
    change goesOn (execResumption s)
    fun_cases execResumption s <;> exact goesOn_next _
  | wearInterval =>
    change goesOn (execWearInterval s)
    fun_cases execWearInterval s <;> exact goesOn_next _
  | coreStateChange =>
    change goesOn (execCoreStateChange s)
    fun_cases execCoreStateChange s <;> exact goesOn_next _
  | periodStretch =>
    change goesOn (execPeriodStretch s)
    fun_cases execPeriodStretch s <;> exact goesOn_next _
  | claimWindowClose =>
    change goesOn (execClaimWindowClose s)
    fun_cases execClaimWindowClose s <;> exact goesOn_next _
  | fwCheckDone =>
    change goesOn (execFwCheckDone s)
    fun_cases execFwCheckDone s <;> exact goesOn_next _
  | attestDone =>
    change goesOn (execAttestDone s)
    fun_cases execAttestDone s <;> exact goesOn_next _
  | linkReset =>
    change goesOn (execLinkReset s)
    fun_cases execLinkReset s <;> exact goesOn_next _
  | hostMemAccess =>
    change goesOn (execHostMemAccess s)
    fun_cases execHostMemAccess s <;> exact goesOn_next _
  | peerFabWrite =>
    change goesOn (execPeerFabWrite s)
    fun_cases execPeerFabWrite s <;> exact goesOn_next _
  | bringUp =>
    change goesOn (execBringUp s)
    fun_cases execBringUp s <;> exact goesOn_next _
  | linkTraining =>
    change goesOn (execLinkTraining s)
    fun_cases execLinkTraining s <;> exact goesOn_next _
  | malformedBundle =>
    change goesOn (execMalformedBundle s)
    fun_cases execMalformedBundle s <;> exact goesOn_next _
theorem goesOn_andThen {o : Out} {f : State → Out} (ho : goesOn o) (hf : ∀ t, goesOn (f t)) : goesOn (andThen o f) := by
  obtain ⟨t, rfl⟩ := ho
  exact hf t
theorem State.goesOn_runSyls (s : State) (l : List Instr) : goesOn (s.runSyls l) := by
  induction l generalizing s with
  | nil => exact goesOn_next s
  | cons i l ih => exact goesOn_andThen (goesOn_exec i s) ih
theorem State.goesOn_issueBundle (s : State) (b : Bundle) (raw : BitVec 128) : goesOn (s.issueBundle b raw) := by
  fun_cases State.issueBundle s b raw
  case case4 => exact goesOn_andThen (State.goesOn_runSyls ..) fun u => goesOn_next _
  all_goals exact goesOn_next _
theorem State.goesOn_issueNext (s : State) : goesOn s.issueNext := by
  fun_cases State.issueNext s
  case case9 => exact goesOn_andThen (goesOn_exec ..) fun t => goesOn_next _
  case case11 => exact State.goesOn_issueBundle ..
  all_goals exact goesOn_next _
theorem State.goesOn_clockOf (s : State) (late : List Nat) : goesOn (s.clockOf late) := by
  fun_cases State.clockOf s late
  case case5 => exact State.goesOn_issueNext _
  all_goals exact goesOn_next _

end Sys2Proof.Machine
end

section
/-! PROOFS. No step of the machine stops (R16, R65, R319). -/

namespace Sys2Proof.Machine

/-- Settles O60: whatever is due, each branch of its step has a next state. -/
theorem stepsGoOn : Obligations.StepsGoOn := by
  unfold Obligations.StepsGoOn
  intro s
  fun_cases step s
  · exact goesOn_next _
  · exact State.goesOn_clockOf ..
  · exact goesOn_exec ..
  · exact goesOn_exec ..

end Sys2Proof.Machine
end

section
/-! SUPPORT. Operations of issue: none changes the scratchpad, the register files, the tiles, the weight buffers or the pc (R17). -/

namespace Sys2Proof.Machine

/-- What a core keeps while nothing lands: its scratchpad, register files, accumulator tiles, weight buffers and pc. -/
def Core.files (c : Core) : Sram × Vector Word 64 × Vector Word 32 × Vector VecR 64 × Vector Tile 8 × Vector WBuf 2 × Word :=
  (c.sram, c.ctx.s, c.ctx.p, c.ctx.v, c.ctx.a, c.ctx.w, c.ctx.pc)
@[simp] theorem Core.files_onRun (c : Core) (f) : (c.onRun f).files = c.files := rfl
@[simp] theorem Core.files_onSpr (c : Core) (f) : (c.onSpr f).files = c.files := rfl
@[simp] theorem Core.files_meter (c : Core) (fj) : (c.meter fj).files = c.files := rfl
@[simp] theorem Core.files_onRegion (c : Core) (f) : (c.onRegion f).files = c.files := rfl
@[simp] theorem Core.files_fly (c : Core) (lat slot l) : (c.fly lat slot l).files = c.files := rfl
@[simp] theorem Core.files_raise (c : Core) (p x d) : (c.raise p x d).files = c.files := rfl
@[simp] theorem Core.files_freeze (c : Core) (n) : (c.freeze n).files = c.files := rfl
@[simp] theorem Core.files_command (c : Core) (e) : (c.command e).files = c.files := rfl
@[simp] theorem Core.files_closeRegion (c : Core) : (c.closeRegion).files = c.files := rfl
@[simp] theorem Core.files_claim (c : Core) (t) : (c.claim t).files = c.files := rfl
@[simp] theorem Core.files_enqueue (c : Core) (m) : (c.enqueue m).files = c.files := rfl
@[simp] theorem Core.files_ite (p : Prop) [Decidable p] (a b : Core) : (if p then a else b).files = if p then a.files else b.files :=
  apply_ite Core.files p a b
@[simp] theorem Core.files_foldl {α : Type} {f : Core → α → Core} (hf : ∀ c x, (f c x).files = c.files) (l : List α) (c : Core) :
    (l.foldl f c).files = c.files := by
  induction l generalizing c with
  | nil => rfl
  | cons x l ih => exact (ih (f c x)).trans (hf c x)
@[simp] theorem Core.files_checked (c : Core) (pos l) (f : Core → Core) :
    (c.checked pos l f).files = if (firstFault l).isSome then c.files else (f c).files := by
  unfold Core.checked
  split <;> simp [*]
@[simp] theorem Core.files_flyS (c : Core) (lat slot d v) : (c.flyS lat slot d v).files = c.files := rfl
@[simp] theorem Core.files_openRegion (c : Core) (checked) : (c.openRegion checked).files = c.files := by
  unfold Core.openRegion
  split <;> simp
@[simp] theorem Core.files_dissip (c : Core) (lat gm elems d rt pois bad faults extra bits) :
    (c.dissip lat gm elems d rt pois bad faults extra bits).files = c.files := by
  simp [Core.dissip]
@[simp] theorem Core.files_lanes2 (c : Core) (lat g d a b src rt f) : (c.lanes2 lat g d a b src rt f).files = c.files := by
  simp [Core.lanes2]
@[simp] theorem Core.files_lanes1 (c : Core) (lat g d a src rt f) : (c.lanes1 lat g d a src rt f).files = c.files := by simp [Core.lanes1]
@[simp] theorem Core.files_lanes3 (c : Core) (lat g d a b t f) : (c.lanes3 lat g d a b t f).files = c.files := by simp [Core.lanes3]
@[simp] theorem Core.files_bitwise (c : Core) (g d a b f) : (c.bitwise g d a b f).files = c.files := by simp [Core.bitwise]
@[simp] theorem Core.files_cmpV (c : Core) (g d a b src f) : (c.cmpV g d a b src f).files = c.files := by simp [Core.cmpV]
@[simp] theorem Core.files_flyRev (c : Core) (r ex d bits t needClean fj zero) :
    (c.flyRev r ex d bits t needClean fj zero).files = c.files :=
  rfl
@[simp] theorem Core.files_inPlace (c : Core) (r g d t pois faults bits) : (c.inPlace r g d t pois faults bits).files = c.files := by
  unfold Core.inPlace
  dsimp only
  split <;> simp
@[simp] theorem Core.files_reduce (c : Core) (g d a t f) : (c.reduce g d a t f).files = c.files := by simp [Core.reduce]
@[simp] theorem Core.files_effect (c : Core) (g faults) (f : Core → Core) : (c.effect g faults f).files =
    if c.g0 g && !c.effectsFull && (firstFault faults).isNone then (f c).files else c.files := by
  cases hg : c.g0 g <;> cases hu : c.effectsFull <;> cases hf : firstFault faults <;> simp [Core.effect, hg, hu, hf]
@[simp] theorem Core.files_flyC (c : Core) (d v) : (c.flyC d v).files = c.files := rfl
@[simp] theorem Core.files_jump (c : Core) (t) : (c.jump t).files = c.files := rfl
@[simp] theorem Core.files_link (c : Core) : (c.link).files = c.files := rfl
@[simp] theorem Core.files_returnsTo (c : Core) (t) : (c.returnsTo t).files = c.files := rfl
@[simp] theorem Core.files_append (c : Core) (g r) : (c.append g r).files = c.files := by
  unfold Core.append
  split <;> simp
@[simp] theorem Core.files_gather (c : Core) (g d t addr bits) : (c.gather g d t addr bits).files = c.files := by simp [Core.gather]
@[simp] theorem Core.files_vld (c : Core) (g d a i t) : (c.vld g d a i t).files = c.files := by simp [Core.vld]
@[simp] theorem Core.files_vstPart (c : Core) (a mask data eff) : (c.vstPart a mask data eff).files = c.files := by
  unfold Core.vstPart
  split <;> rfl
@[simp] theorem Core.files_spillIssue (c : Core) (g d a b k) : (c.spillIssue g d a b k).files = c.files := by
  unfold Core.spillIssue
  dsimp only
  split <;> simp
@[simp] theorem Core.files_setRing (c : Core) (h r) : (c.setRing h r).files = c.files := rfl
@[simp] theorem Core.files_ringUndo (c : Core) (u) : (c.ringUndo u).files = c.files := rfl
@[simp] theorem Core.files_ringWait (c : Core) (h n have_) : (c.ringWait h n have_).files = c.files := by simp [Core.ringWait]
@[simp] theorem Core.files_narrow (c : Core) (g d a b w x src rt f) : (c.narrow g d a b w x src rt f).files = c.files := by
  simp [Core.narrow]
@[simp] theorem Core.files_narrowSr (c : Core) (g d a b w x rt f) : (c.narrowSr g d a b w x rt f).files = c.files := by
  unfold Core.narrowSr
  dsimp only
  split <;> simp
@[simp] theorem Core.files_widen (c : Core) (g d a f src k) : (c.widen g d a f src k).files = c.files := by simp [Core.widen]
@[simp] theorem Core.files_vqmx (c : Core) (g d a b x f emax rt) : (c.vqmx g d a b x f emax rt).files = c.files := by
  unfold Core.vqmx
  dsimp only
  split <;> simp
@[simp] theorem Core.files_queueCopy (c : Core) (t m) : (c.queueCopy t m).files = c.files := rfl
@[simp] theorem Core.files_tagChange (c : Core) (way e) : (c.tagChange way e).files = c.files := rfl
@[simp] theorem Core.files_msyl (c : Core) (held faults) (f : Core → Core) :
    (c.msyl held faults f).files = if held || (firstFault faults).isSome then c.files else (f c).files := by
  cases held <;> simp [Core.msyl]
@[simp] theorem Core.files_mstart (c : Core) (o) : (c.mstart o).files = c.files := rfl
@[simp] theorem Core.files_wload (c : Core) (r w k x rowsOk scales) : (c.wload r w k x rowsOk scales).files = c.files := by
  simp [Core.wload]
@[simp] theorem Core.files_wld (c : Core) (w a b r t nb) : (c.wld w a b r t nb).files = c.files := by simp [Core.wld]
@[simp] theorem Core.files_mma (c : Core) (f acc w a b r) : (c.mma f acc w a b r).files = c.files := by simp [Core.mma]
@[simp] theorem Core.files_afill (c : Core) (t a b rns) : (c.afill t a b rns).files = c.files := by simp [Core.afill]
@[simp] theorem Core.files_drain (c : Core) (k t a b target add fits) : (c.drain k t a b target add fits).files = c.files := by
  simp [Core.drain]
@[simp] theorem Core.files_drainAdd (c : Core) (self k t w a b v tid fits) : (c.drainAdd self k t w a b v tid fits).files = c.files := by
  unfold Core.drainAdd
  dsimp only
  split <;> simp
@[simp] theorem Core.files_aluRR (c : Core) (lat d a b f) : (c.aluRR lat d a b f).files = c.files := rfl
@[simp] theorem Core.files_aluRI (c : Core) (d a i f) : (c.aluRI d a i f).files = c.files := rfl
@[simp] theorem Core.files_cmpRR (c : Core) (d a b f) : (c.cmpRR d a b f).files = c.files := rfl
@[simp] theorem Core.files_predRR (c : Core) (d a b f) : (c.predRR d a b f).files = c.files := rfl
@[simp] theorem Core.files_loadS (c : Core) (d a i n ext) : (c.loadS d a i n ext).files = c.files := by simp [Core.loadS]
@[simp] theorem Core.files_storeS (c : Core) (d a i n) : (c.storeS d a i n).files = c.files := by simp [Core.storeS]
@[simp] theorem Core.files_tagWait (c : Core) (bad ok) (f : Core → Core) :
    (c.tagWait bad ok f).files = if !bad && ok then (f c).files else c.files := by
  cases bad <;> cases ok <;> simp [Core.tagWait, firstFault]
@[simp] theorem Core.files_clearTag (c : Core) (t) : (c.clearTag t).files = c.files := rfl
@[simp] theorem Core.files_revI32 (c : Core) (r g d a f) : (c.revI32 r g d a f).files = c.files := by simp [Core.revI32]
@[simp] theorem Core.files_exchange (c : Core) (r gm ex d a td ta pois) : (c.exchange r gm ex d a td ta pois).files = c.files := rfl
@[simp] theorem Core.files_revRns (c : Core) (r g d a f) : (c.revRns r g d a f).files = c.files := by simp [Core.revRns]
@[simp] theorem Core.files_copyClean (c : Core) (r g d t pois bad bits) : (c.copyClean r g d t pois bad bits).files = c.files := by
  unfold Core.copyClean
  dsimp only
  split <;> simp

end Sys2Proof.Machine
end

section
/-! SUPPORT. The frame of issue, form by form (R17, R187). -/

namespace Sys2Proof.Machine

/-- What issue leaves of a state. -/
structure State.Framed (s t : State) : Prop where
  hbm : t.hbm = s.hbm
  host : t.host = s.host
  sync : t.sync = s.sync
  logs : t.logs = s.logs
  tasks : t.tasks = s.tasks
  launches : t.launches = s.launches
  groups : t.groups = s.groups
  mgmt : t.mgmt = s.mgmt
  events : t.events = s.events
  now : t.now = s.now
  cur : t.cur = s.cur
  files : ∀ k : CoreId, t.cores[k].files = s.cores[k].files
  others : ∀ k : CoreId, k ≠ s.cur → t.cores[k].ctx = s.cores[k].ctx ∧ t.cores[k].run = s.cores[k].run
/-- An outcome that goes on within the frame of issue. -/
def State.frames (s : State) (o : Out) : Prop := ∃ t, o = .next t ∧ s.Framed t

theorem State.framed_refl (s : State) : s.Framed s :=
  ⟨rfl, rfl, rfl, rfl, rfl, rfl, rfl, rfl, rfl, rfl, rfl, fun _ => rfl, fun _ _ => ⟨rfl, rfl⟩⟩
theorem State.framed_onCur {s : State} {f : Core → Core} (hf : (f s.core).files = s.core.files) : s.Framed (s.onCur f) := by
  refine ⟨rfl, rfl, rfl, rfl, rfl, rfl, rfl, rfl, rfl, rfl, rfl, fun k => ?_, fun k hk => ?_⟩
  · by_cases hk : k = s.cur
    · subst hk
      exact (congrArg Core.files (s.core_onCur f)).trans hf
    · rw [s.cores_onCur f k hk]
  · rw [s.cores_onCur f k hk]
    exact ⟨rfl, rfl⟩
theorem State.Framed.trans {s t u : State} (h : s.Framed t) (h' : t.Framed u) : s.Framed u where
  hbm := h'.hbm.trans h.hbm
  host := h'.host.trans h.host
  sync := h'.sync.trans h.sync
  logs := h'.logs.trans h.logs
  tasks := h'.tasks.trans h.tasks
  launches := h'.launches.trans h.launches
  groups := h'.groups.trans h.groups
  mgmt := h'.mgmt.trans h.mgmt
  events := h'.events.trans h.events
  now := h'.now.trans h.now
  cur := h'.cur.trans h.cur
  files k := (h'.files k).trans (h.files k)
  others k hk :=
    have hk' := h'.others k (h.cur ▸ hk)
    have hk := h.others k hk
    ⟨hk'.1.trans hk.1, hk'.2.trans hk.2⟩
/-- Notes for the commands of walkers change what the sites hold, and nothing else. -/
theorem State.framed_setDropped (s : State) (l : List (CoreId × Nat)) (v : Bool) :
    s.Framed (l.foldl (fun s x => s.setDropped x v) s) := by
  induction l generalizing s with
  | nil => exact s.framed_refl
  | cons x l ih =>
    exact State.Framed.trans (t := s.setDropped x v)
      ⟨rfl, rfl, rfl, rfl, rfl, rfl, rfl, rfl, rfl, rfl, rfl, fun _ => rfl, fun _ _ => ⟨rfl, rfl⟩⟩ (ih _)
/-- A shootdown takes entries out of the sites and the instruction caches. -/
theorem State.framed_dropCached (s : State) (k : Shoot) : s.Framed (s.dropCached k) := by
  unfold State.dropCached
  refine State.Framed.trans ?_ (State.framed_setDropped ..)
  refine ⟨rfl, rfl, rfl, rfl, rfl, rfl, rfl, rfl, rfl, rfl, rfl, fun j => ?_, fun j _ => ?_⟩
  · simp [Core.files]
  · simp
theorem State.frames_act {s : State} {f : Core → Core} (hf : ∀ c, (f c).files = c.files) : s.frames (s.act f) :=
  ⟨_, rfl, State.framed_onCur (hf _)⟩
theorem State.frames_syl {s : State} {g : PReg} {f : Core → Core} (hf : ∀ c, (f c).files = c.files) : s.frames (s.syl g f) :=
  State.frames_act fun c => by rw [Core.files_ite, hf c, ite_self]
theorem State.frames_csyl {s : State} {g : PReg} {faults} {f : Core → Core} (hf : ∀ c, (f c).files = c.files) :
    s.frames (s.csyl g faults f) :=
  State.frames_syl fun c => by rw [Core.files_checked, hf c, ite_self]
theorem State.frames_logStore {s : State} (g a n kind pois data) : s.frames (s.logStore g a n kind pois data) :=
  State.frames_csyl fun c => c.files_append ..
theorem State.frames_groupEffect {s : State} {f : Core → Core} (g k a b image faults) (hf : ∀ c, (f c).files = c.files) :
    s.frames (s.groupEffect g k a b image faults f) :=
  State.frames_act fun c => by rw [Core.files_effect, hf, Core.files_command, ite_self]
theorem State.frames_tagEffect {s : State} (g t k a b faults acq image) : s.frames (s.tagEffect g t k a b faults acq image) :=
  State.frames_act fun c => by cases acq <;> simp
/-- A WRSR of an HPAT register acts on the package, which has no other part in the frame. -/
theorem frames_execWrsr {s : State} (g : PReg) (a : SReg) (imm : BitVec 8) : s.frames (execWrsr g a imm s) := by
  fun_cases execWrsr g a imm s
  case case1 => exact State.frames_syl fun c => by simp
  case case3 => exact State.frames_act fun c => by simp
  case case5 => exact ⟨_, rfl, ⟨rfl, rfl, rfl, rfl, rfl, rfl, rfl, rfl, rfl, rfl, rfl, fun _ => rfl, fun _ _ => ⟨rfl, rfl⟩⟩⟩
  all_goals exact ⟨s, rfl, s.framed_refl⟩
theorem frames_execTlbi {s : State} (g : PReg) (d a b : SReg) (x : Fin 4) : s.frames (execTlbi g d a b x s) := by
  have h (k : Shoot) : s.Framed ((s.dropCached k).onCur fun c => c.onRegion fun r => { r with tlbis := k.id :: r.tlbis }) :=
    (s.framed_dropCached k).trans (State.framed_onCur (Core.files_onRegion ..))
  unfold execTlbi
  extract_lets c faults k k' t
  split
  · exact ⟨s, rfl, s.framed_refl⟩
  · split
    · exact State.frames_act fun c => by simp
    · obtain ⟨h1, h2, h3, h4, h5, h6, h7, h8, h9, h10, h11, h12, h13⟩ := h k'
      exact ⟨_, rfl, ⟨h1, h2, h3, h4, h5, h6, h7, h8, h9, h10, h11, h12, h13⟩⟩
theorem frames_execYield {s : State} (g : PReg) : s.frames (execYield g s) :=
  State.frames_syl fun c => by
    rw [Core.files_ite]
    exact ite_self _
theorem frames_execTlook {s : State} (g : PReg) (d a : SReg) : s.frames (execTlook g d a s) :=
  State.frames_syl fun c => by
    dsimp only
    split
    · exact c.files_flyC ..
    · exact c.files_flyC ..
theorem frames_execTdel {s : State} (g : PReg) (d a : SReg) : s.frames (execTdel g d a s) :=
  State.frames_syl fun c => by
    dsimp only
    split
    · exact (Core.files_tagChange ..).trans (c.files_flyC ..)
    · exact c.files_flyC ..
theorem frames_execFork {s : State} (g : PReg) (a : SReg) (b : SPair) : s.frames (execFork g a b s) :=
  State.frames_groupEffect _ _ _ _ _ _ fun _ => rfl
theorem frames_execGbar {s : State} (g : PReg) : s.frames (execGbar g s) :=
  State.frames_groupEffect _ _ _ _ _ _ fun _ => rfl

theorem frames_exec (i : Instr) (s : State) (h : (encode i).isSome = true) : s.frames (exec i s) := by
  cases i with
  | vrsqaF32 | vrcpaF32 | vexp2aF32 | vlog2aF32 | vsqrtF32 | vabsF32 | vnegF32 | vcvtI32F32Rne | vcvtI32F32Rtz | vcvtF32I32
    | vcvtI32Rns => exact State.frames_act fun c => c.files_lanes1 ..
  | vdivF32 | vaddF32 | vsubF32 | vmulF32 | vminF32 | vmaxF32 | vaddBf16 | vmulBf16 | vaddI32 | vsubI32 | vmulI32 | vmulhI32 | vshlI32
    | vshrI32 | vsraI32 | vminI32 | vmaxI32 => exact State.frames_act fun c => c.files_lanes2 ..
  | vfmaF32 | vfmsF32 | vfmaBf16 => exact State.frames_act fun c => c.files_lanes3 ..
  | vand | vor | vandn => exact State.frames_act fun c => c.files_bitwise ..
  | vsel | vsplat | vbcastl | vperm | verase | vretag | vtagq | vlds | vbcst | vmovs | vmovv | vst | vxor | vrotl | vswap | vcswap
    | vpermr | vrnsMulc => exact State.frames_act fun c => by simp
  | vmov => exact State.frames_act fun c => c.files_dissip ..
  | vcmpeqF32 | vcmpltF32 | vcmpleF32 | vcmpunF32 | vcmpeqI32 | vcmpltI32 | vcmpltuI32 => exact State.frames_act fun c => c.files_cmpV ..
  | vredaddF32 | vredmaxF32 | vredaddI32 => exact State.frames_act fun c => c.files_reduce ..
  | br => exact State.frames_syl fun c => c.files_jump ..
  | brl | jmp | jmpl | loop | cloop | endTask | calsync | rdsr | sret | wldt | wclr | aclr | twany | twall | tfirst
    | qfence => exact State.frames_syl fun c => by simp
  | region | regionc => exact State.frames_act fun c => c.files_openRegion ..
  | trap => exact State.frames_syl fun c => c.files_raise ..
  | lstW | lstD | lstv => exact State.frames_logStore _ _ _ _ _ _
  | vldRaw | vldI32 | vldF32 | vldBf16 | vldFp8e4 | vldFp8e5 | vldFp4 | vldInt8 | vldRns => exact State.frames_act fun c => c.files_vld ..
  | vspill | vfill => exact State.frames_act fun c => c.files_spillIssue ..
  | rwait | rfree => exact State.frames_syl fun c => c.files_ringWait ..
  | radvp | radvc | rset | rsetUnconfigure | cpyRin | tins | tclr => exact State.frames_csyl fun c => by simp
  | vcvtBf16F32Rne | vcvtFp8e4F32Rne | vcvtFp8e4F32Sat | vcvtFp8e5F32Rne | vcvtFp8e5F32Sat | vcvtFp4F32Rne
    | vcvtInt8I32Sat => exact State.frames_act fun c => c.files_narrow ..
  | vcvtBf16F32Sr | vcvtFp8e4F32Sr | vcvtFp8e4F32Srsat | vcvtFp8e5F32Sr | vcvtFp8e5F32Srsat
    | vcvtFp4F32Sr => exact State.frames_act fun c => c.files_narrowSr ..
  | vcvtF32Bf16 | vcvtF32Fp8e4 | vcvtF32Fp8e5 | vcvtF32Fp4 => exact State.frames_act fun c => c.files_widen ..
  | vqmxFp8e4 | vqmxFp4 => exact State.frames_act fun c => c.files_vqmx ..
  | cpyIn | cpyInx | cpyOut | cpyPeer | cpyMc | cpyT | cpyFab | cpyHost => exact State.frames_csyl fun c => c.files_queueCopy ..
  | fork => exact frames_execFork _ _ _
  | gbar => exact frames_execGbar _
  | grwd | gcancel | gquit | launch | cancel => exact State.frames_groupEffect _ _ _ _ _ _ fun _ => rfl
  | gstat | tstat => exact State.frames_syl fun c => c.files_flyC ..
  | wldBf16 | wldFp8e4 | wldFp8e5 | wldFp4 | wldInt8 => exact State.frames_syl fun c => c.files_wld ..
  | mmaBf16 | mmaFp8e4 | mmaFp8e5 | mmaFp4 | mmaI8r | mmsI8r => exact State.frames_syl fun c => c.files_mma ..
  | afillF32 | afillRns => exact State.frames_syl fun c => c.files_afill ..
  | astat => exact State.frames_syl fun c => c.files_mstart ..
  | drainF32 | drainBf16 | drainRns | drainI32 => exact State.frames_syl fun c => c.files_drain ..
  | drainAdd | drainAddc => exact State.frames_syl fun c => c.files_drainAdd ..
  | add | sub | mul | mulh | mulhu | div | divu | rem | remu | and | or | xor | andn | shl | shr | sra | min | max | minu | maxu | sel
    | clz | popc | lea => exact State.frames_syl fun c => c.files_aluRR ..
  | addi | andi | ori | xori | shli | shri | srai | li | lih => exact State.frames_syl fun c => c.files_aluRI ..
  | cmpeq | cmpne | cmplt | cmpltu | cmple | cmpleu | cmpeqi | cmplti | pbit => exact State.frames_syl fun c => c.files_cmpRR ..
  | pand | por | pxor | pandn | pnot => exact State.frames_syl fun c => c.files_predRR ..
  | ldb | ldbz | ldw | ldwz | ldd => exact State.frames_syl fun c => c.files_loadS ..
  | stb | stw | std => exact State.frames_syl fun c => c.files_storeS ..
  | nop => exact ⟨s, rfl, s.framed_refl⟩
  | rel | acq | acqs | phase | publish => exact State.frames_tagEffect _ _ _ _ _ _ _ _
  | synAdd | synCas | synMin | synMax | synXch | synLd | synPost | synWait | synBar => exact State.frames_tagEffect _ _ _ _ _ _ _ _
  | vaddrI32 | vsubrI32 | vnegrI32 => exact State.frames_act fun c => c.files_revI32 ..
  | vrnsAdd | vrnsSub | vrnsNeg => exact State.frames_act fun c => c.files_revRns ..
  | vcopy | vcvtRnsI32 => exact State.frames_act fun c => c.files_copyClean ..
  | wrsr => exact frames_execWrsr _ _ _
  | tlbi => exact frames_execTlbi _ _ _ _ _
  | tlook => exact frames_execTlook _ _ _
  | tdel => exact frames_execTdel _ _ _
  | yield => exact frames_execYield _
  | copyStart | readAtomWrite | copyCompletion | cpyInxLanding | peerCopyTransfer | spillFillCompletion | atomService | refreshSlot
    | eccWriteback | selfRefreshEntry | selfRefreshExit | logCompaction | logTimeout | weirOperation | sequencerNumbering
    | publishCounterWrite | groupStatusMirror | groupEngineCommand | forkAccept | groupDeadline | groupBarrierComplete
    | resultLanding | matrixRowLanding | regionCommit | drainAddApply | effectCommandSend | pitchWriteOut | preemptTake | taskStop
    | cancelDelivery | preemptRequest | contextSave | taskRetirement | completionFinalWrite | resumption | shootdownComplete
    | icacheFill | crossingDelivery | periodStretch | trapSequence | malformedBundle | inletSlotWrite | inletTailWrite
    | inletCancelWrite | fabricLaunchPacket | fabricCancelPacket | waitWordRead | dispatchDecision | levelAgeing | reservationStart
    | claim | claimWindowClose | handover | thaw | preempt | mgmtRegisterWrite | accessControlWrite | linkReset | linkTraining
    | fwupd | fwCheckDone | fwcommit | attest | attestDone | hostMemAccess | peerFabWrite | wearInterval | coreStateChange
    | lifetimeCheckpoint | bringUp | powerOff => exact absurd h nofun

end Sys2Proof.Machine
end

section
/-! PROOFS. The frame of issue (R17, R187). -/

namespace Sys2Proof.Machine

/-- Settles O57: each form of an instruction keeps the frame. -/
theorem issueFrame : Obligations.IssueFrame := by
  unfold Obligations.IssueFrame
  intro i s h
  obtain ⟨t, ht, f⟩ := frames_exec i s h
  refine ⟨t, ht, f.hbm, f.host, f.sync, f.logs, f.tasks, f.launches, f.groups, f.mgmt, f.events, f.now, f.cur, fun k => ?_, f.others⟩
  simpa [Core.files] using f.files k

end Sys2Proof.Machine
end

section
/-! SUPPORT. The guard and the major of a syllable, in each format (R49). -/

namespace Sys2Proof.Machine

/-- The guard stands in the low bits of a syllable. -/
theorem guard_append (x : BitVec 27) (g : PReg) : Fin.ofNat 32 (x ++ BitVec.ofNat 5 g.val).toNat = g := by
  apply Fin.ext
  rw [Fin.val_ofNat, BitVec.toNat_append, BitVec.toNat_ofNat,
    ← Nat.shiftLeft_add_eq_or_of_lt (Nat.mod_lt _ (by decide)), Nat.shiftLeft_eq]
  omega
/-- The major of a syllable is read from above its low fields. -/
theorem major_append {a b : Nat} {x : BitVec a} {y : BitVec b} (n : Nat) : (x ++ y).extractLsb' (n + b) 7 = x.extractLsb' n 7 := by
  ext i hi
  rw [BitVec.getElem_extractLsb', BitVec.getElem_extractLsb', BitVec.getLsbD_append, if_neg (by omega)]
  congr 1
  omega
/-- A syllable of major m under guard g. -/
def syllableOf (m : Nat) (g : PReg) (w : Half) : Prop := Fin.ofNat 32 w.toNat = g ∧ w.extractLsb' 25 7 = BitVec.ofNat 7 m

theorem syllableOf_rrr (m : Nat) (d a b x g) : syllableOf m g (rrr m d a b x g) :=
  ⟨guard_append .., (major_append 20).trans <| (major_append 18).trans <| (major_append 12).trans <| (major_append 6).trans <|
    (major_append 0).trans BitVec.extractLsb'_eq_self⟩
theorem syllableOf_rri (m : Nat) (d a i g) : syllableOf m g (rri m d a i g) :=
  ⟨guard_append .., (major_append 20).trans <| (major_append 12).trans <| (major_append 6).trans <|
    (major_append 0).trans BitVec.extractLsb'_eq_self⟩
theorem syllableOf_ri (m : Nat) (d i g) : syllableOf m g (ri m d i g) :=
  ⟨guard_append .., (major_append 20).trans <| (major_append 6).trans <| (major_append 0).trans BitVec.extractLsb'_eq_self⟩
theorem syllableOf_brf (m : Nat) (i g) : syllableOf m g (brf m i g) :=
  ⟨guard_append .., (major_append 20).trans <| (major_append 0).trans BitVec.extractLsb'_eq_self⟩
theorem syllableOf_mx (m : Nat) (c w a b r v g) : syllableOf m g (mx m c w a b r v g) :=
  ⟨guard_append .., (major_append 20).trans <| (major_append 18).trans <| (major_append 16).trans <| (major_append 10).trans <|
    (major_append 4).trans <| (major_append 3).trans <| (major_append 0).trans BitVec.extractLsb'_eq_self⟩

end Sys2Proof.Machine
end

section
/-! SUPPORT. Syllables under a false guard (R28, R37, R106). -/

namespace Sys2Proof.Machine

/-- The majors of the C slot whose instruction is an effect (R59). -/
def effectMajors : List Nat := [0x2B, 0x2C, 0x2D, 0x2E, 0x30, 0x31, 0x32, 0x33, 0x34, 0x35, 0x36, 0x37, 0x38, 0x40, 0x41, 0x42, 0x43,
  0x44, 0x48, 0x49, 0x4A]
/-- What a syllable in position p does while its guard is false (R106): nothing, or it closes its region. -/
def idles (i : Instr) (p : Fin 4) (w : Half) (s : State) : Prop :=
  s.core.g0 (Fin.ofNat 32 w.toNat) = false →
    (¬ (p = 3 ∧ (w.extractLsb' 25 7).toNat ∈ effectMajors) → exec i s = .next s) ∧
    (p = 3 ∧ (w.extractLsb' 25 7).toNat ∈ effectMajors → exec i s = .next (s.onCur (·.closeRegion)))
theorem idles_of_quiet {i : Instr} {p : Fin 4} {w : Half} {s : State} {m : Nat} {g : PReg} (hw : syllableOf m g w)
    (hm : ¬ (p = 3 ∧ (BitVec.ofNat 7 m).toNat ∈ effectMajors)) (h : s.core.g0 g = false → exec i s = .next s) : idles i p w s := by
  obtain ⟨hg, hmaj⟩ := hw
  unfold idles
  rw [hg, hmaj]
  exact fun hf => ⟨fun _ => h hf, fun he => absurd he hm⟩
theorem idles_of_effect {i : Instr} {w : Half} {s : State} {m : Nat} {g : PReg} (hw : syllableOf m g w)
    (hm : (BitVec.ofNat 7 m).toNat ∈ effectMajors) (h : s.core.g0 g = false → exec i s = .next (s.onCur (·.closeRegion))) :
    idles i 3 w s := by
  obtain ⟨hg, hmaj⟩ := hw
  unfold idles
  rw [hg, hmaj]
  exact fun hf => ⟨fun hn => absurd ⟨rfl, hm⟩ hn, fun _ => h hf⟩
/-- An effect instruction with a false guard closes its region (R37). -/
theorem State.effect_false {s : State} {g : PReg} {faults : Core → List (Bool × Cause)} {f : Core → Core} (h : s.core.g0 g = false) :
    s.act (fun c => c.effect g (faults c) f) = .next (s.onCur (·.closeRegion)) :=
  congrArg Host.Outcome.next (State.onCur_congr (if_pos (by rw [h]; rfl)))

theorem execTlbi_false {s : State} {g : PReg} (d a b : SReg) (x : Fin 4) (h : s.core.g0 g = false) : execTlbi g d a b x s = .next s :=
  if_pos (by rw [h]; rfl)
theorem execWrsr_false {s : State} {g : PReg} (a : SReg) (imm : BitVec 8) (h : s.core.g0 g = false) : execWrsr g a imm s = .next s := by
  unfold execWrsr
  split
  · exact State.syl_false h
  · exact if_pos (by rw [h]; rfl)
/-- Every syllable of the S, M and C slots but the heads of regions, format by format. -/
theorem idles_words (i : Instr) (w : Words) (s : State) (h : encode i = some w) (hp : w.pos ≠ 1)
    (hh : ¬ (w.pos = 0 ∧ ((w.syl.extractLsb' 25 7).toNat = 0x56 ∨ (w.syl.extractLsb' 25 7).toNat = 0x57))) :
    idles i w.pos w.syl s := by
  cases i with
  | tlbi =>
    cases h
    dsimp only
    refine idles_of_quiet (syllableOf_rrr ..) ?_ (execTlbi_false _ _ _ _)
    decide
  | add | sub | mul | mulh | mulhu | div | divu | rem | remu | and | or | xor | andn | shl | shr | sra | min | max | minu | maxu
    | sel | clz | popc | lea | cmpeq | cmpne | cmplt | cmpltu | cmple | cmpleu | pand | por | pxor | pandn | pnot | jmp | jmpl
    | cpyIn | cpyInx | cpyOut | cpyPeer | cpyMc | cpyT | cpyFab | cpyRin | cpyHost | twany | twall | tfirst | tclr | tlook | tins
    | tdel | lstW | lstD | lstv | gstat =>
    cases h
    dsimp only
    refine idles_of_quiet (syllableOf_rrr ..) ?_ State.syl_false
    decide
  | wrsr =>
    cases h
    dsimp only
    refine idles_of_quiet (syllableOf_rri ..) ?_ (execWrsr_false _ _)
    decide
  | addi | andi | ori | xori | shli | shri | srai | cmpeqi | cmplti | pbit | ldb | ldbz | ldw | ldwz | ldd | stb | stw | std | loop
    | rdsr | tstat | rwait | rfree | radvp | radvc | rset | rsetUnconfigure =>
    cases h
    dsimp only
    refine idles_of_quiet (syllableOf_rri ..) ?_ State.syl_false
    decide
  | li | lih | endTask | yield | trap | calsync | sret | qfence =>
    cases h
    dsimp only
    refine idles_of_quiet (syllableOf_ri ..) ?_ State.syl_false
    decide
  | br | brl | cloop =>
    cases h
    dsimp only
    refine idles_of_quiet (syllableOf_brf ..) ?_ State.syl_false
    decide
  | region =>
    cases h
    exact absurd ⟨rfl, .inl (congrArg BitVec.toNat (syllableOf_ri 0x56 0 0 _).2)⟩ hh
  | regionc =>
    cases h
    exact absurd ⟨rfl, .inr (congrArg BitVec.toNat (syllableOf_ri 0x57 0 _ _).2)⟩ hh
  | vldRaw | vldI32 | vldF32 | vldBf16 | vldFp8e4 | vldFp8e5 | vldFp4 | vldInt8 | vldRns | vst | vlds | vbcst | vspill | vfill
    | vmovs | vmovv | vxor | vcopy | vaddrI32 | vsubrI32 | vnegrI32 | vrotl | vswap | vcswap | vpermr | vrnsAdd | vrnsSub | vrnsNeg
    | vrnsMulc | vaddF32 | vsubF32 | vmulF32 | vfmaF32 | vfmsF32 | vminF32 | vmaxF32 | vabsF32 | vnegF32 | vaddBf16 | vmulBf16
    | vfmaBf16 | vaddI32 | vsubI32 | vmulI32 | vmulhI32 | vand | vor | vandn | vshlI32 | vshrI32 | vsraI32 | vminI32 | vmaxI32 | vsel
    | vmov | vsplat | vcmpeqF32 | vcmpltF32 | vcmpleF32 | vcmpunF32 | vcmpeqI32 | vcmpltI32 | vcmpltuI32 | vcvtBf16F32Rne
    | vcvtBf16F32Sr | vcvtF32Bf16 | vcvtFp8e4F32Rne | vcvtFp8e4F32Sat | vcvtFp8e4F32Sr | vcvtFp8e4F32Srsat | vcvtFp8e5F32Rne
    | vcvtFp8e5F32Sat | vcvtFp8e5F32Sr | vcvtFp8e5F32Srsat | vcvtF32Fp8e4 | vcvtF32Fp8e5 | vcvtFp4F32Rne | vcvtFp4F32Sr | vcvtF32Fp4
    | vcvtI32F32Rne | vcvtI32F32Rtz | vcvtF32I32 | vcvtRnsI32 | vcvtI32Rns | vcvtInt8I32Sat | vqmxFp8e4 | vqmxFp4 | vrsqaF32
    | vrcpaF32 | vexp2aF32 | vlog2aF32 | vsqrtF32 | vdivF32 | vredaddF32 | vredmaxF32 | vredaddI32 | vbcastl | vperm | verase
    | vretag | vtagq =>
    cases h
    exact absurd rfl hp
  | wldBf16 | wldFp8e4 | wldFp8e5 | wldFp4 | wldInt8 | wldt | wclr | mmaBf16 | mmaFp8e4 | mmaFp8e5 | mmaFp4 | mmaI8r | mmsI8r | aclr
    | afillF32 | afillRns | astat | drainF32 | drainBf16 | drainAdd | drainAddc | drainRns | drainI32 =>
    cases h
    dsimp only
    refine idles_of_quiet (syllableOf_mx ..) ?_ State.syl_false
    decide
  | rel | acq | acqs | phase | synAdd | synCas | synMin | synMax | synXch | synLd | synPost | synWait | synBar | fork | grwd | gbar
    | gcancel | gquit | publish | launch | cancel =>
    cases h
    dsimp only
    refine idles_of_effect (syllableOf_rrr ..) ?_ State.effect_false
    decide
  | nop =>
    cases h
    exact fun _ => ⟨fun _ => rfl, fun he => absurd he (by decide)⟩
  | resultLanding | matrixRowLanding | icacheFill | crossingDelivery | regionCommit | effectCommandSend | sequencerNumbering
    | weirOperation | logCompaction | logTimeout | publishCounterWrite | copyStart | atomService | readAtomWrite | copyCompletion
    | cpyInxLanding | spillFillCompletion | peerCopyTransfer | drainAddApply | eccWriteback | refreshSlot | selfRefreshEntry
    | selfRefreshExit | trapSequence | shootdownComplete | taskRetirement | completionFinalWrite | inletSlotWrite | inletTailWrite
    | inletCancelWrite | fabricLaunchPacket | fabricCancelPacket | dispatchDecision | waitWordRead | levelAgeing | reservationStart
    | cancelDelivery | taskStop | groupEngineCommand | forkAccept | groupDeadline | groupBarrierComplete | groupStatusMirror
    | preemptRequest | preemptTake | contextSave | pitchWriteOut | resumption | wearInterval | coreStateChange | lifetimeCheckpoint
    | periodStretch | claim | claimWindowClose | handover | thaw | preempt | fwupd | fwCheckDone | fwcommit | attest | attestDone
    | mgmtRegisterWrite | accessControlWrite | linkReset | hostMemAccess | peerFabWrite | bringUp | linkTraining | malformedBundle
    | powerOff =>
    exact absurd h nofun

end Sys2Proof.Machine
end

section
/-! PROOFS. False guards (R28, R106, R222). -/

namespace Sys2Proof.Machine

/-- Settles O37: the encoded guard is the instruction's own, under which each form does nothing or closes its region. -/
theorem falseGuards : Obligations.FalseGuards := by
  unfold Obligations.FalseGuards
  intro i w s _ hw g major effect head hp hh
  exact idles_words i w s hw hp hh

end Sys2Proof.Machine
end

section
/-! SUPPORT. What a store leaves in the scratchpad: bytes under its mask, and the bits of its line (R95, R114, R128). -/

namespace Sys2Proof.Machine

/-! ### Lists of numbers -/
theorem mem_setInsert_iff (l : List Nat) (n x : Nat) : x ∈ setInsert l n ↔ x = n ∨ x ∈ l := by
  induction l with
  | nil => simp [setInsert]
  | cons y r ih =>
    unfold setInsert
    split
    · next h => simp [h]
    · split
      · simp
      · rw [List.mem_cons, ih, List.mem_cons, or_left_comm]
theorem mem_setErase_iff (l : List Nat) (n x : Nat) : x ∈ setErase l n ↔ x ≠ n ∧ x ∈ l := by
  simp [setErase, and_comm]

/-! ### Stores -/
theorem Sram.contains_clean_mark (m : Sram) (line : Nat) (eff : LineEff) (n : Nat) :
    (m.mark line eff).clean.contains n = if n = line then eff == .cleaned else m.clean.contains n := by
  rw [Bool.eq_iff_iff]
  by_cases h : n = line <;> cases eff <;> simp [Sram.mark, mem_setInsert_iff, mem_setErase_iff, h]
theorem Sram.contains_poison_mark (m : Sram) (line : Nat) (eff : LineEff) (n : Nat) :
    (m.mark line eff).poison.contains n = if n = line ∧ eff ≠ .dirty then eff == .poisoned else m.poison.contains n := by
  rw [Bool.eq_iff_iff]
  by_cases h : n = line <;> cases eff <;> simp [Sram.mark, mem_setInsert_iff, mem_setErase_iff, h]
theorem memGet_store {m : Sram} (h : Memory.wf m.bytes = true) (a : Nat) (mask : BitVec 256) (data : Line) (eff : LineEff) (x : Nat) :
    memGet (m.store a mask data eff).bytes x =
      if a ≤ x ∧ x < a + 256 ∧ mask.getLsbD (x - a) = true then data.extractLsb' (8 * (x - a)) 8 else memGet m.bytes x := by
  unfold Sram.store
  by_cases hm : mask = 0
  · subst hm
    simp
  · rw [if_neg hm, Sram.bytes_mark, memGet_memPutMask x 256 a _ _ h]
    refine if_congr Iff.rfl ?_ rfl
    rw [BitVec.toNat_eq, BitVec.extractLsb'_toNat, Nat.shiftRight_eq_div_pow, BitVec.toNat_ofNat, Nat.pow_mul]

end Sys2Proof.Machine
end

section
/-! SUPPORT. Scalars, predicates and special registers that land (R17, R27, R30, R41, R122). -/

namespace Sys2Proof.Machine

theorem Ctx.preg_setP (c : Ctx) (d r : PReg) (m v : Word) :
    (c.setP d m v).preg r = if r = d ∧ r ≠ 0 then (c.preg r &&& ~~~m) ||| (v &&& m) else c.preg r := by
  unfold Ctx.setP Ctx.preg
  by_cases hd : d = 0
  · by_cases h : r = 0 <;> simp [hd, h]
  · by_cases h : r = d
    · subst h
      simp [hd]
    · have h' : d.val ≠ r.val := fun e => h (Fin.ext e.symm)
      simp [hd, h, h']
@[simp] theorem Ctx.p_setS (c : Ctx) (d v) : (c.setS d v).p = c.p := by unfold Ctx.setS; split <;> rfl
@[simp] theorem Ctx.v_setS (c : Ctx) (d v) : (c.setS d v).v = c.v := by unfold Ctx.setS; split <;> rfl
@[simp] theorem Ctx.x_setS (c : Ctx) (d v) : (c.setS d v).x = c.x := by unfold Ctx.setS; split <;> rfl
@[simp] theorem Ctx.s_setP (c : Ctx) (d m v) : (c.setP d m v).s = c.s := by unfold Ctx.setP; split <;> rfl
@[simp] theorem Ctx.v_setP (c : Ctx) (d m v) : (c.setP d m v).v = c.v := by unfold Ctx.setP; split <;> rfl
@[simp] theorem Ctx.x_setP (c : Ctx) (d m v) : (c.setP d m v).x = c.x := by unfold Ctx.setP; split <;> rfl
@[simp] theorem Core.ctx_landS (c : Core) (region d v) : (c.landS region d v).ctx = c.ctx.setS d v := rfl
@[simp] theorem Core.ctx_landP (c : Core) (region d m v) : (c.landP region d m v).ctx = c.ctx.setP d m v := rfl
theorem Core.snaps_landS (c : Core) (region d v) : (c.landS region d v).run.regions.map (·.snap.s) =
    c.run.regions.map fun g => if region < g.id ∧ d ≠ 0 then g.snap.s.set d v else g.snap.s := by
  simp only [Core.landS, Core.run_onRun, Core.run_onCtx, List.map_map]
  refine List.map_congr_left fun g _ => ?_
  by_cases h : region < g.id ∧ d ≠ 0 <;> simp [h]
theorem Core.snaps_landP (c : Core) (region d m v) : (c.landP region d m v).run.regions.map (·.snap.p) =
    c.run.regions.map fun g => if region < g.id ∧ d ≠ 0 then g.snap.p.set d ((g.snap.p[d] &&& ~~~m) ||| (v &&& m)) else g.snap.p := by
  simp only [Core.landP, Core.run_onRun, Core.run_onCtx, List.map_map]
  refine List.map_congr_left fun g _ => ?_
  by_cases h : region < g.id ∧ d ≠ 0 <;> simp [h]
/-- A predicate has landed, in its register and in the snapshots of later regions (R41). -/
structure Core.LandsP (c d : Core) (region : Nat) (r : PReg) (mask v : Word) : Prop where
  reg : ∀ q, d.ctx.preg q = if q = r ∧ q ≠ 0 then (c.ctx.preg q &&& ~~~mask) ||| (v &&& mask) else c.ctx.preg q
  snaps : d.run.regions.map (·.snap.p) = c.run.regions.map fun g =>
    if region < g.id ∧ r ≠ 0 then g.snap.p.set r ((g.snap.p[r] &&& ~~~mask) ||| (v &&& mask)) else g.snap.p
  s : d.ctx.s = c.ctx.s
  v : d.ctx.v = c.ctx.v
  sram : d.sram = c.sram
theorem Core.landP_lands (c : Core) (region : Nat) (r : PReg) (mask v : Word) : c.LandsP (c.landP region r mask v) region r mask v :=
  ⟨fun _ => Ctx.preg_setP .., Core.snaps_landP .., Ctx.s_setP .., Ctx.v_setP .., rfl⟩

theorem Spr.write_eq (x : Spr) (n : BitVec 8) (v : Word) : x.write n v =
    if n = 0x01 then { x with vrb := BitVec.ofNat 6 (v.toNat % 48) }
    else if n = 0x02 then { x with prb := BitVec.ofNat 5 (v.toNat % 24) }
    else if n = 0x03 then { x with lcnt := v.setWidth 32 } else if n = 0x04 then { x with lstg := v.setWidth 8 }
    else if n = 0x06 then { x with srs := if v = 0 then 1 else v } else if n = 0x0E then { x with priv := v != 0 }
    else if n = 0x10 then { x with tvec := v } else if n = 0x11 then { x with trec := v } else x := by
  have ne {m : BitVec 8} (h : ¬ n.toNat = m.toNat) : n ≠ m := fun e => h (congrArg _ e)
  unfold Spr.write
  split
  case h_1 h => simp [BitVec.eq_of_toNat_eq (y := 0x01) h]
  case h_2 h => simp [BitVec.eq_of_toNat_eq (y := 0x02) h]
  case h_3 h => simp [BitVec.eq_of_toNat_eq (y := 0x03) h]
  case h_4 h => simp [BitVec.eq_of_toNat_eq (y := 0x04) h]
  case h_5 h => simp [BitVec.eq_of_toNat_eq (y := 0x06) h]
  case h_6 h => simp [BitVec.eq_of_toNat_eq (y := 0x0E) h]
  case h_7 h => simp [BitVec.eq_of_toNat_eq (y := 0x10) h]
  case h_8 h => simp [BitVec.eq_of_toNat_eq (y := 0x11) h]
  case h_9 h1 h2 h3 h4 h5 h6 h7 h8 =>
    rw [if_neg (ne (m := 0x01) h1), if_neg (ne (m := 0x02) h2), if_neg (ne (m := 0x03) h3), if_neg (ne (m := 0x04) h4),
      if_neg (ne (m := 0x06) h5), if_neg (ne (m := 0x0E) h6), if_neg (ne (m := 0x10) h7), if_neg (ne (m := 0x11) h8)]

end Sys2Proof.Machine
end

section
/-! SUPPORT. Vector results that land: ties by lanes, tags, exchanges and VRETAG (R19, R33, R35, R135, R152). -/

namespace Sys2Proof.Machine

/-- What the later results of a cycle take of a register (R19). -/
theorem getLsbD_laterMask (d : VReg) (later : List Flight) (i : Nat) : (laterMask d later).getLsbD i = false ↔ ∀ g ∈ later,
    (∀ y, g.land = .vec y → y.d = d → ∀ j, j / 32 = i / 32 → y.mask.getLsbD j = false) ∧
    ∀ y z, g.land = .pair y z → ∀ j, j / 32 = i / 32 → (y.d = d → y.mask.getLsbD j = false) ∧ (z.d = d → z.mask.getLsbD j = false) := by
  have lanes (m : Line) : (lanesOf m).getLsbD i = false ↔ ∀ j, j / 32 = i / 32 → m.getLsbD j = false := by
    rw [← Bool.not_eq_true, getLsbD_lanesOf]
    simp
  induction later with
  | nil => simp [laterMask]
  | cons f r ih =>
    rw [List.forall_mem_cons]
    refine Iff.trans ?_ (and_congr_right' ih)
    rw [laterMask]
    cases f.land
    case vec w => by_cases h : w.d = d <;> simp [h, lanes]
    case pair w x => by_cases h : w.d = d <;> by_cases h' : x.d = d <;> simp [h, h', lanes, forall_and]
    all_goals simp
theorem VWrite.getLsbD_wins (w : VWrite) (later : List Flight) (i : Nat) :
    (w.wins later).getLsbD i = true ↔ w.mask.getLsbD i = true ∧ (laterMask w.d later).getLsbD i = false := by
  unfold VWrite.wins
  by_cases h : i < 2048
  · simp [h]
  · simp [BitVec.getLsbD_of_ge _ _ (Nat.le_of_not_lt h)]
theorem VWrite.tagOver_eq (w : VWrite) (old : Tag) (bits : Line) : w.tagOver old bits =
    let t := if w.mask ≠ allBits ∧ (old = .poison ∨ (w.tag = some w.was ∧ w.was ≠ .poison ∧ old ≠ .clean)) then old else w.tag.getD old
    if w.zero = true ∧ t ≠ .poison ∧ bits = 0 then .clean else t := by
  simp only [VWrite.tagOver, allBits, and_assoc, Bool.and_eq_true, Bool.or_eq_true, bne_iff_ne, beq_iff_eq]
  congr

/-- A vector register as a result leaves it. -/
def VWrite.over (w : VWrite) (mask : Line) (old : VecR) : VecR :=
  let bits := (old.bits &&& ~~~mask) ||| (w.bits &&& mask)
  ⟨bits, w.tagOver old.tag bits⟩
theorem VWrite.over_eq (w : VWrite) (mask : Line) (old : VecR) : w.over mask old =
    let bits := (old.bits &&& ~~~mask) ||| (w.bits &&& mask)
    let t := if w.mask ≠ allBits ∧ (old.tag = .poison ∨ (w.tag = some w.was ∧ w.was ≠ .poison ∧ old.tag ≠ .clean)) then old.tag
      else w.tag.getD old.tag
    ⟨bits, if w.zero = true ∧ t ≠ .poison ∧ bits = 0 then .clean else t⟩ := by
  rw [VWrite.over, VWrite.tagOver_eq]
/-- The result is kept from its destination, which is not CLEAN (R35). -/
theorem Core.landV_fault {c : Core} {f : Flight} {w : VWrite} (m : Line) (hn : w.needClean = true) (ho : c.ctx.v[w.d].tag ≠ .clean)
    (ht : c.run.trap = none) : c.landV f w m = c.onRun fun r =>
      { r with phase := .trapping, trap := some ⟨.cleanRequired, f.slot, f.bundle, some f.region, none, 0, 0, 0, .normal⟩ } := by
  unfold Core.landV
  rw [if_pos (by simpa [hn] using ho), Core.landFault, ht]
/-- The result loses every lane. -/
theorem Core.landV_lost {c : Core} {f : Flight} {w : VWrite} {m : Line} (hc : w.needClean = false ∨ c.ctx.v[w.d].tag = .clean)
    (hw : w.mask ≠ 0) (hm : m = 0) : c.landV f w m = c := by
  unfold Core.landV
  rw [if_neg (by simpa [imp_iff_not_or] using hc), if_pos (by simpa [hm] using hw)]
/-- What stays as it was where a vector result lands. -/
structure Core.LandsV (c d : Core) (f : Flight) (w : VWrite) (m : Line) : Prop where
  reg : d.ctx.v[w.d] = w.over m c.ctx.v[w.d]
  others : ∀ r : VReg, r ≠ w.d → d.ctx.v[r] = c.ctx.v[r]
  s : d.ctx.s = c.ctx.s
  p : d.ctx.p = c.ctx.p
  x : d.ctx.x = c.ctx.x
  sram : d.sram = c.sram
  kept : ∀ (i : Nat) (g : Region), c.run.regions[i]? = some g → g.id = f.region →
    d.run.regions[i]? = some { g with landed := ⟨.vreg w.d m c.ctx.v[w.d].bits c.ctx.v[w.d].tag, w.rev⟩ :: g.landed }
theorem Core.landV_lands {c : Core} {f : Flight} {w : VWrite} {m : Line} (hc : w.needClean = false ∨ c.ctx.v[w.d].tag = .clean)
    (hm : w.mask = 0 ∨ m ≠ 0) : c.LandsV (c.landV f w m) f w m := by
  unfold Core.landV
  rw [if_neg (by simpa [imp_iff_not_or] using hc), if_neg (by simpa [or_iff_not_imp_left] using hm)]
  refine ⟨?_, fun r hr => ?_, rfl, rfl, rfl, rfl, fun i g hi hg => ?_⟩
  · simp [Core.keep, Core.onRegionId, VWrite.over]
  · have hr' : w.d.val ≠ r.val := fun e => hr (Fin.ext e.symm)
    simp [Core.keep, Core.onRegionId, hr']
  · simp [Core.keep, Core.onRegionId, hi, hg]


/-- A result with no check of its destination: it lands, or loses every lane. -/
theorem Core.landV_free {c : Core} {f : Flight} {w : VWrite} (m : Line) (hn : w.needClean = false) :
    (c.landV f w m).ctx.v[w.d] = (if w.mask ≠ 0 ∧ m = 0 then c.ctx.v[w.d] else w.over m c.ctx.v[w.d]) ∧
    (∀ r : VReg, r ≠ w.d → (c.landV f w m).ctx.v[r] = c.ctx.v[r]) ∧ (c.landV f w m).ctx.s = c.ctx.s ∧ (c.landV f w m).ctx.p = c.ctx.p ∧
    (c.landV f w m).sram = c.sram := by
  by_cases hm : w.mask ≠ 0 ∧ m = 0
  · rw [Core.landV_lost (.inl hn) hm.1 hm.2, if_pos hm]
    exact ⟨rfl, fun _ _ => rfl, rfl, rfl, rfl⟩
  · obtain ⟨hreg, hothers, hs, hp, -, hm', -⟩ := Core.landV_lands (c := c) (f := f) (w := w) (m := m) (.inl hn)
      (by simpa [imp_iff_not_or] using hm)
    exact ⟨hreg.trans (if_neg hm).symm, hothers, hs, hp, hm'⟩
theorem Core.land_vtag_stays {c : Core} {f : Flight} {later : List Flight} {r : VReg} {t : Tag} (h : f.land = .vtag r t)
    (ho : c.ctx.v[r].tag = .clean ∨ c.ctx.v[r].tag = .poison) : c.land f later = c := by
  simp only [Core.land, h]
  exact if_pos (by simpa using ho)
theorem Core.land_vtag_sets {c : Core} {f : Flight} {later : List Flight} {r : VReg} {t : Tag} (h : f.land = .vtag r t)
    (hc : c.ctx.v[r].tag ≠ .clean) (hp : c.ctx.v[r].tag ≠ .poison) : c.land f later =
      (c.onCtx fun x => { x with v := x.v.set r ⟨c.ctx.v[r].bits, t⟩ }).keep f.region (.vreg r 0 c.ctx.v[r].bits c.ctx.v[r].tag) (some 0) := by
  simp only [Core.land, h]
  exact if_neg (by simpa using ⟨hc, hp⟩)
/-- The two results of an exchange; of one that loses its first register the second carries the energy. -/
def Core.landPair (c : Core) (f : Flight) (w x : VWrite) (m n : Line) : Core :=
  (c.landV f w m).landV f (if w.mask ≠ 0 ∧ m = 0 then { x with rev := w.rev } else x) n
theorem Core.land_pair {c : Core} {f : Flight} {later : List Flight} {w x : VWrite} (h : f.land = .pair w x) :
    c.land f later = c.landPair f w x (w.wins later) (x.wins later) := by
  simp only [Core.land, h, Core.landPair, bne_iff_ne, beq_iff_eq, Bool.and_eq_true]
section
variable {c : Core} {f : Flight} {w x : VWrite} {m n : Line}
theorem Core.landPair_lost (hw : w.needClean = false) (h : w.mask ≠ 0 ∧ m = 0) :
    c.landPair f w x m n = c.landV f { x with rev := w.rev } n := by
  rw [Core.landPair, if_pos h, Core.landV_lost (.inl hw) h.1 h.2]
theorem Core.landPair_both (h : ¬ (w.mask ≠ 0 ∧ m = 0)) : c.landPair f w x m n = (c.landV f w m).landV f x n := by
  rw [Core.landPair, if_neg h]
theorem Core.regs_landPair (hw : w.needClean = false) (hx : x.needClean = false) (hd : w.d ≠ x.d) :
    (c.landPair f w x m n).ctx.v[w.d] = (if w.mask ≠ 0 ∧ m = 0 then c.ctx.v[w.d] else w.over m c.ctx.v[w.d]) ∧
    (c.landPair f w x m n).ctx.v[x.d] = (if x.mask ≠ 0 ∧ n = 0 then c.ctx.v[x.d] else x.over n c.ctx.v[x.d]) ∧
    (∀ r : VReg, r ≠ w.d → r ≠ x.d → (c.landPair f w x m n).ctx.v[r] = c.ctx.v[r]) ∧ (c.landPair f w x m n).ctx.s = c.ctx.s ∧
    (c.landPair f w x m n).ctx.p = c.ctx.p ∧ (c.landPair f w x m n).sram = c.sram := by
  by_cases h : w.mask ≠ 0 ∧ m = 0
  · obtain ⟨hreg, ho, hs, hp, hm⟩ := Core.landV_free (c := c) (f := f) (w := { x with rev := w.rev }) n hx
    rw [Core.landPair_lost hw h]
    exact ⟨(ho _ hd).trans (if_pos h).symm, hreg, fun r _ hr => ho r hr, hs, hp, hm⟩
  · obtain ⟨wreg, wo, ws, wp, wm⟩ := Core.landV_free (c := c) (f := f) m hw
    obtain ⟨xreg, xo, xs, xp, xm⟩ := Core.landV_free (c := c.landV f w m) (f := f) n hx
    rw [Core.landPair_both h]
    rw [wo _ hd.symm] at xreg
    exact ⟨(xo _ hd).trans wreg, xreg, fun r hr hr' => (xo r hr').trans (wo r hr), xs.trans ws, xp.trans wp, xm.trans wm⟩
end

end Sys2Proof.Machine
end

section
/-! PROOFS. Results that land (R17, R19, R27, R33, R35, R41, R95, R114, R122, R128, R135, R152). -/

namespace Sys2Proof.Machine

/-- Settles O58, landing by landing: the rules for scalars, predicates, stores, vector results, exchanges, tags and special registers. -/
theorem landedResults : Obligations.LandedResults := by
  unfold Obligations.LandedResults
  intro c f later
  dsimp only
  refine ⟨⟨rfl, rfl⟩, fun r v h => ?_, fun r mask v h => ?_, fun n g p v h => ?_, fun vrb prb n g p v h => ?_, fun a mask data eff h => ?_,
    fun w i => ?_, fun w h => ?_, fun w x h hw hx hd => ?_, fun r t h => ?_, fun n v h => ?_⟩
  · rw [show c.land f later = c.landS f.region r v by simp only [Core.land, h]]
    refine ⟨fun q => ?_, ⟨Ctx.p_setS .., Ctx.v_setS .., rfl⟩, Ctx.x_setS .., Core.snaps_landS ..⟩
    refine (Ctx.sreg_setS ..).trans (if_congr ?_ rfl rfl)
    exact and_congr_right fun e => by rw [e]
  · rw [show c.land f later = c.landP f.region r mask v by simp only [Core.land, h]]
    obtain ⟨hreg, hsnaps, hs, hv, hm⟩ := c.landP_lands f.region r mask v
    exact ⟨⟨hreg, hsnaps, hs, hv, hm⟩, Ctx.x_setP ..⟩
  · obtain ⟨hreg, hsnaps, hs, hv, hm⟩ := c.landP_lands f.region p (BitVec.allOnes 64) v
    simp only [Core.land, h]
    refine ⟨⟨hreg, hsnaps, hs, hv, hm⟩, ?_⟩
    rw [← Ctx.x_setP c.ctx p (BitVec.allOnes 64) v]
    rfl
  · obtain ⟨hreg, hsnaps, hs, hv, hm⟩ := c.landP_lands f.region p (BitVec.allOnes 64) v
    simp only [Core.land, h]
    refine ⟨⟨hreg, hsnaps, hs, hv, hm⟩, ?_⟩
    rw [← Ctx.x_setP c.ctx p (BitVec.allOnes 64) v]
    rfl
  · simp only [Core.land, h]
    refine ⟨rfl, fun hm => if_pos hm, fun hw => ⟨Sram.wf_store _ _ _ _ hw, fun x => memGet_store hw ..⟩, fun hm n => ?_⟩
    change (c.sram.store a mask data eff).clean.contains n = _ ∧ (c.sram.store a mask data eff).poison.contains n = _
    rw [Sram.store, if_neg hm]
    exact ⟨Sram.contains_clean_mark .., Sram.contains_poison_mark ..⟩
  · rw [VWrite.getLsbD_wins, getLsbD_laterMask]
  · rw [show c.land f later = c.landV f w (w.wins later) by simp only [Core.land, h]]
    refine ⟨fun hn ho ht => ?_, fun hc hw hm => Core.landV_lost hc hw hm, fun hc hm => ?_⟩
    · rw [Core.landV_fault _ hn ho ht]
      exact ⟨rfl, rfl, rfl, rfl⟩
    · obtain ⟨hreg, hothers, hs, hp, hx, hm, hkept⟩ := Core.landV_lands (f := f) hc hm
      exact ⟨hreg.trans (VWrite.over_eq ..), hothers, hs, hp, hx, hm, fun i g hi hg => by rw [hkept i g hi hg]; rfl⟩
  · obtain ⟨hwr, hxr, ho, hs, hp, hm⟩ := Core.regs_landPair (c := c) (f := f) (m := w.wins later) (n := x.wins later) hw hx hd
    simp only [VWrite.over_eq] at hwr hxr
    rw [Core.land_pair h]
    refine ⟨hwr, hxr, ho, hs, hp, hm, fun hm hn i g hi hg => ?_, fun hw0 hm hn i g hi hg => ?_⟩
    · have h1 := Core.landV_lands (c := c) (f := f) (w := w) (.inl hw) (.inr hm)
      have h2 := Core.landV_lands (c := c.landV f w (w.wins later)) (f := f) (w := x) (.inl hx) (.inr hn)
      rw [Core.landPair_both fun h => hm h.2, h2.kept i _ (h1.kept i g hi hg) hg, h1.others _ hd.symm]
      rfl
    · have h1 := Core.landV_lands (c := c) (f := f) (w := { x with rev := w.rev }) (.inl hx) (.inr hn)
      rw [Core.landPair_lost hw ⟨hw0, hm⟩, h1.kept i g hi hg]
      rfl
  · refine ⟨fun ho => Core.land_vtag_stays h ho, fun hc hp => ?_⟩
    rw [Core.land_vtag_sets h hc hp]
    refine ⟨?_, fun q hq => ?_, rfl, rfl, rfl, fun i g hi hg => ?_⟩
    · simp [Core.keep, Core.onRegionId]
    · have hq' : r.val ≠ q.val := fun e => hq (Fin.ext e.symm)
      simp [Core.keep, Core.onRegionId, hq']
    · simp [Core.keep, Core.onRegionId, hi, hg]
  · simp only [Core.land, h]
    exact ⟨rfl, ⟨rfl, rfl, rfl⟩, Spr.write_eq ..⟩

end Sys2Proof.Machine
end

section
/-! SUPPORT. What landings and matrix cycles leave of their core (R17, R19, R21, R158). -/

namespace Sys2Proof.Machine

/-! ### Landing -/

/-- What no landing of an S or V result changes: the core's clock, and the matrix unit's operations. -/
def Core.pace (c : Core) : Clk × List MOp := (c.clk, c.run.mops)
theorem Core.pace_landFault (c : Core) (region slot bundle cause detail status) :
    (c.landFault region slot bundle cause detail status).pace = c.pace := by
  fun_cases Core.landFault c region slot bundle cause detail status <;> rfl
theorem Core.pace_landV (c : Core) (f w m) : (c.landV f w m).pace = c.pace := by
  fun_cases Core.landV c f w m
  case case1 => exact Core.pace_landFault ..
  all_goals rfl
theorem Core.pace_land (c : Core) (f later) : (c.land f later).pace = c.pace := by
  fun_cases Core.land c f later
  case case3 => exact Core.pace_landV ..
  case case4 => exact (Core.pace_landV ..).trans (Core.pace_landV ..)
  all_goals rfl
theorem Core.pace_landAll (l : List Flight) (c : Core) : (c.landAll l).pace = c.pace := by
  induction l generalizing c with
  | nil => rfl
  | cons f l ih => exact (ih _).trans (Core.pace_land ..)
theorem Core.pace_landCycle (c : Core) : c.landCycle.pace = c.pace := Core.pace_landAll ..
theorem Core.pace_softError (c : Core) (line double) : (c.softError line double).pace = c.pace := by
  fun_cases Core.softError c line double <;> rfl

/-! ### The matrix unit -/

/-- What a matrix cycle leaves: the core's clock, its special registers, vector registers and predicates, and while the cycle is held the
results in flight. -/
def Core.beside (hold : Bool) (c : Core) : Clk × Spr × Vector VecR 64 × Vector Word 32 × List Flight :=
  (c.clk, c.ctx.x, c.ctx.v, c.ctx.p, if hold then c.run.flights else [])
section
variable (hold : Bool)
theorem Core.beside_foldl {α : Type} {f : Core → α → Core} (hf : ∀ c x, (f c x).beside hold = c.beside hold) (l : List α) (c : Core) :
    (l.foldl f c).beside hold = c.beside hold := by
  induction l generalizing c with
  | nil => rfl
  | cons x l ih => exact (ih (f c x)).trans (hf c x)
theorem Core.beside_landS (c : Core) (region d v) : (c.landS region d v).beside hold = c.beside hold := by
  unfold Core.landS Ctx.setS
  dsimp only [Core.onCtx]
  split <;> rfl
theorem Core.beside_latePoison (c : Core) (t before after) : (c.latePoison t before after).beside hold = c.beside hold := by
  fun_cases Core.latePoison c t before after
  case case2 => exact Core.beside_foldl hold (fun c i => by split <;> rfl) _ _
  all_goals rfl
theorem Core.beside_landMma (c : Core) (o f w acc i fresh) : (c.landMma o f w acc i fresh).beside hold = c.beside hold := by
  unfold Core.landMma
  split
  · rfl
  · dsimp only
    split <;> rfl
theorem Core.beside_landWld (c : Core) (o w tag t) : (c.landWld o w tag t).beside hold = c.beside hold := by
  fun_cases Core.landWld c o w tag t <;> rfl
theorem Core.beside_keep (c : Core) (region u fj) : (c.keep region u fj).beside hold = c.beside hold := rfl
theorem Core.beside_onRegionId (c : Core) (id f) : (c.onRegionId id f).beside hold = c.beside hold := rfl
theorem Core.beside_setTile (c : Core) (t x) : (c.setTile t x).beside hold = c.beside hold := rfl
theorem Core.beside_landLine (c : Core) (o w j x) : (c.landLine o w j x).beside hold = c.beside hold := rfl
theorem Core.beside_landReady (c : Core) (o w t) : (c.landReady o w t).beside hold = c.beside hold := rfl
theorem Core.beside_landWldt (c : Core) (o w tag) : (c.landWldt o w tag).beside hold = c.beside hold := by
  unfold Core.landWldt
  rw [Core.beside_landReady, Core.beside_foldl hold fun _ _ => Core.beside_landLine ..]
theorem Core.beside_landDrain (c : Core) (o k acc j) : (c.landDrain o k acc j).beside hold = c.beside hold := by
  unfold Core.landDrain
  dsimp only
  split
  · rfl
  · split <;> rfl
theorem Core.beside_mland (c : Core) (t fresh o) : (c.mland t fresh hold o).1.beside hold = c.beside hold := by
  unfold Core.mland
  split
  case h_1 => exact Core.beside_landWld ..
  case h_2 => 
    split
    · exact Core.beside_landWldt ..
    · rfl
  case h_3 => split <;> rfl
  case h_4 =>
    split
    · split
      · rw [Core.beside_landMma]
      · rfl
    · rfl
  case h_5 =>
    split
    · rw [Core.beside_onRegionId, Core.beside_foldl hold fun _ _ => Core.beside_keep .., Core.beside_setTile]
    · rfl
  case h_6 => split <;> rfl
  case h_7 =>
    split
    · cases hold
      · rfl
      · exact Core.beside_landS ..
    · rfl
  case h_8 =>
    split
    · exact Core.beside_landDrain ..
    · rfl
theorem Core.beside_matrixCycle (c : Core) (fresh) : (c.matrixCycle fresh hold).beside hold = c.beside hold := by
  have land (t : Nat) (l : List MOp) (x : Core × List MOp) : (l.foldl (fun (acc : Core × List MOp) o =>
      ((acc.1.mland t fresh hold o).1, acc.2 ++ [(acc.1.mland t fresh hold o).2])) x).1.beside hold = x.1.beside hold := by
    induction l generalizing x with
    | nil => rfl
    | cons o l ih => exact (ih _).trans (Core.beside_mland ..)
  exact (land ..).trans (Core.beside_foldl hold (fun _ _ => Core.beside_latePoison ..) _ _)
end
theorem Core.mops_matrixCycle (c : Core) (fresh hold) : ∀ o ∈ (c.matrixCycle fresh hold).run.mops, c.run.mcycle < o.last := by
  unfold Core.matrixCycle
  intro o ho
  simpa using (List.mem_filter.1 ho).2

end Sys2Proof.Machine
end

section
/-! SUPPORT. Stretched periods and shootdowns that are complete (R192, R302, R345, R346). -/

namespace Sys2Proof.Machine

/-! ### Periods that stretch -/

theorem Clk.following_of_lt {x : Clk} (now : Nat) (h : ∀ n ∈ x.ctl, n < x.period) : (x.following now).1 = x.period + (now - x.edge) := by
  have e : x.ctl.filter (x.period ≤ ·) = [] := List.filter_eq_nil_iff.2 fun n hn => by simpa using h n hn
  simp [Clk.following, e]
theorem Clk.stretch_islands (x : Clk) (now : Nat) (array : Bool) :
    let own (x : Clk) : List Nat := if array then x.arr else x.ctl
    let partner (x : Clk) : List Nat := if array then x.ctl else x.arr
    let p := (x.following now).1
    (x.stretch now array).asked = x.asked ++ [(array, p)] ∧
      (p ∈ own x → own (x.stretch now array) = own x ∧ partner (x.stretch now array) = partner x) ∧
      (p ∉ own x → p ∈ own (x.stretch now array) ∧ p + 2 ∈ partner (x.stretch now array)) := by
  intro own partner p
  cases array
  · by_cases h : p ∈ x.ctl
    · simp [Clk.stretch, Clk.at, own, partner, p, h]
    · simp [Clk.stretch, Clk.at, own, partner, p, h, mem_setInsert_iff]
  · by_cases h : p ∈ x.arr
    · simp [Clk.stretch, Clk.at, own, partner, p, h]
    · simp [Clk.stretch, Clk.at, own, partner, p, h, mem_setInsert_iff]
theorem Isle.last_asked (x : Isle) : (x.old ++ x.asked).getLast? = x.asked.getLast?.or x.old.getLast? := List.getLast?_append
theorem Isle.stretch_asks (x : Isle) (now : Nat) (n : Fin 256) (h : x.asked.getLast?.or x.old.getLast? ≠ some (now - x.taken)) :
    (x.stretch now (isController n)).taken = x.taken + 1 ∧ (x.stretch now (isController n)).asked = x.asked ++ [now - x.taken] ∧
      (x.stretch now (isController n)).shift = x.shift + if 48 ≤ n.val ∧ n.val < 144 then 1 else 0 := by
  rw [← Isle.last_asked] at h
  have e : x.stretch now (isController n) =
      let y := { x with taken := x.taken + 1, asked := x.asked ++ [now - x.taken] }
      if isController n then { y with shift := x.shift + 1, next := if x.shift = 0 then now / 5 + 1 else x.next } else y := if_neg h
  rw [e]
  by_cases hn : 48 ≤ n.val ∧ n.val < 144 <;> simp [isController, hn]

/-! ### Shootdowns -/

theorem State.setDropped_foldl (l : List (CoreId × Nat)) (s : State) (v : Bool) :
    (l.foldl (fun s x => s.setDropped x v) s).shoots = s.shoots ∧ (l.foldl (fun s x => s.setDropped x v) s).cores = s.cores := by
  induction l generalizing s with
  | nil => exact ⟨rfl, rfl⟩
  | cons x l ih => exact ih _
theorem State.shoots_dropCached (s : State) (k : Shoot) : (s.dropCached k).shoots = s.shoots := (State.setDropped_foldl ..).1
theorem State.cores_dropCached (s : State) (k : Shoot) (i : CoreId) : (s.dropCached k).cores[i] =
    { s.cores[i] with icache := s.cores[i].icache.filter fun l => !k.covers l.space l.addr } := by
  have h := congrArg (fun v => v[i]) (State.setDropped_foldl (s.walkers k) { s with
    sites := s.sites.map fun t => { t with tlb := t.tlb.filter fun e => !k.meets e.tag e.level e.page }
    cores := s.cores.map fun c => { c with icache := c.icache.filter fun l => !k.covers l.space l.addr } } true).2
  exact h.trans (by simp)

/-- The cores once a shootdown is done: what it covers has left the caches, and its own core notes it. -/
theorem State.cores_shootDone (s : State) (x : Shoot) (f : Run → Run) :
    let t := (s.dropCached x).onCore x.core fun c => c.onRun f
    (∀ i : CoreId, t.cores[i].icache = s.cores[i].icache.filter fun l => !x.covers l.space l.addr) ∧
      (∀ i : CoreId, i ≠ x.core → t.cores[i].run = s.cores[i].run) ∧ t.cores[x.core].run = f s.cores[x.core].run := by
  intro t
  have own : t.cores[x.core] = ((s.dropCached x).cores[x.core]).onRun f := State.cores_onCore_self ..
  have others (i : CoreId) (hi : i ≠ x.core) : t.cores[i] = (s.dropCached x).cores[i] := State.cores_onCore _ _ _ _ hi
  refine ⟨fun i => ?_, fun i hi => ?_, ?_⟩
  · by_cases hi : i = x.core
    · subst hi
      rw [own, State.cores_dropCached]
      rfl
    · rw [others i hi, State.cores_dropCached]
  · rw [others i hi, State.cores_dropCached]
  · rw [own, State.cores_dropCached]
    rfl

end Sys2Proof.Machine
end

section
/-! SUPPORT. The steps that act on one core: results that land, and a bundle fetched (R17, R23, R299). -/

namespace Sys2Proof.Machine

/-- A step that acts on one core alone leaves the others, the memories, the tasks and the management space as they were. -/
theorem State.onCore_only (s : State) (k : CoreId) (f : Core → Core) (hf : (f s.cores[k]).clk = s.cores[k].clk) :
    (∀ i : CoreId, i ≠ k → (s.onCore k f).cores[i] = s.cores[i]) ∧ (s.onCore k f).cores[k].clk = s.cores[k].clk ∧
    (s.onCore k f).hbm = s.hbm ∧ (s.onCore k f).host = s.host ∧ (s.onCore k f).hpat = s.hpat ∧ (s.onCore k f).sync = s.sync ∧
    (s.onCore k f).tasks = s.tasks ∧ (s.onCore k f).mgmt = s.mgmt :=
  ⟨fun i hi => s.cores_onCore k i f hi, by rw [s.cores_onCore_self, hf], rfl, rfl, rfl, rfl, rfl, rfl⟩

theorem execResultLanding_core {s : State} {k : CoreId} (h : s.arg = .core k) : ∃ x : Core,
    (x = s.cores[k] ∨ ∃ line double, x = s.cores[k].softError line double) ∧
    exec .resultLanding s = .next ((s.draw).onCore k fun _ => x.landCycle) := by
  have e (x : Core) (hx : x = if Config.freeNat s.free 0 % 4 ≥ 2 then
      s.cores[k].softError (Config.freeNat s.free 0 / 4 % 16384) (Config.freeNat s.free 0 % 2 == 1) else s.cores[k]) :
      exec .resultLanding s = .next ((s.draw).onCore k fun _ => x.landCycle) := by
    rw [show exec .resultLanding s = execResultLanding s from rfl, execResultLanding, h, hx]
    rfl
  by_cases hf : Config.freeNat s.free 0 % 4 ≥ 2
  · exact ⟨_, .inr ⟨_, _, rfl⟩, e _ (if_pos hf).symm⟩
  · exact ⟨_, .inl rfl, e _ (if_neg hf).symm⟩

/-! ### The instruction cache -/

theorem State.fetchLine_key (s : State) (k : CoreId) (a : Nat) : (s.fetchLine k a).addr = a ∧ (s.fetchLine k a).space = (s.spaceOn k).tag ∧
    (s.fetchLine k a).root = (s.spaceOn k).root ∧ (s.fetchLine k a).priv = s.cores[k].ctx.x.priv := by
  fun_cases State.fetchLine s k a <;> exact ⟨rfl, rfl, rfl, rfl⟩
theorem State.fetchLine_outside {s : State} {k : CoreId} {a : Nat} (h : 2 ^ 48 ≤ a) :
    (s.fetchLine k a).data = none ∧ (s.fetchLine k a).cause = .bounds := by
  rw [State.fetchLine, if_pos h]
  exact ⟨rfl, rfl⟩
theorem State.fetchLine_fails {s : State} {k : CoreId} {a : Nat} {z : Cause × Word} (h : a < 2 ^ 48)
    (hz : s.fetchFault (s.spaceOn k) s.cores[k].ctx.x.priv a = some z) :
    (s.fetchLine k a).data = none ∧ (s.fetchLine k a).cause = z.1 ∧ (s.fetchLine k a).status = z.2 := by
  rw [State.fetchLine, if_neg (Nat.not_le.2 h), hz]
  exact ⟨rfl, rfl, rfl⟩
theorem State.fetchLine_data {s : State} {k : CoreId} {a : Nat} {p : Place} (h : a < 2 ^ 48)
    (hz : s.fetchFault (s.spaceOn k) s.cores[k].ctx.x.priv a = none)
    (hp : s.resolve (s.spaceOn k) s.cores[k].ctx.x.priv .fetch a = .ok p) (hq : s.poisoned p.dpa = false) :
    (s.fetchLine k a).data = some (BitVec.ofNat 128 (hbmLe s.hbm p.pat p.dpa 16)) := by
  rw [State.fetchLine, if_neg (Nat.not_le.2 h), hz, hp]
  simp [hq]

theorem State.onCore_congr {s : State} {k : CoreId} {f g : Core → Core} (h : f s.cores[k] = g s.cores[k]) : s.onCore k f = s.onCore k g := by
  unfold State.onCore
  rw [h]
theorem execIcacheFill_fetch {s : State} {k : CoreId} {a : Nat} (h : s.arg = .fetch k a) (hp : s.cores[k].run.phase ≠ .idle) :
    exec .icacheFill s = .next (((s.checkVa (s.spaceOn k) (a / 32 * 32) 32).draw).onCore k fun c =>
      { c with icache := ((s.checkVa (s.spaceOn k) (a / 32 * 32) 32).fetchLine k a :: c.icache).take 8192 }) := by
  have hc := congrArg (fun v => v[k]) (State.checks_checkVa s (s.spaceOn k) (a / 32 * 32) 32).cores
  rw [show exec .icacheFill s = execIcacheFill s from rfl, execIcacheFill, h]
  refine congrArg Host.Outcome.next (State.onCore_congr (if_pos ?_))
  rw [show ((s.checkVa (s.spaceOn k) (a / 32 * 32) 32).draw).cores[k] = s.cores[k] from hc]
  simpa [Core.busy] using hp
/-- A check leaves the host's memory, the patterns, the variables of the Weirs and the spaces of the tasks as they were. -/
theorem State.Checks.others {s t : State} (h : s.Checks t) :
    t.host = s.host ∧ t.hpat = s.hpat ∧ t.sync = s.sync ∧ ∀ k, t.spaceOn k = s.spaceOn k := by
  obtain ⟨f, w, p, e, n, c, rfl, _⟩ := h
  exact ⟨rfl, rfl, rfl, fun _ => rfl⟩
theorem State.fetchFault_onCore (t : State) (k : CoreId) (f : Core → Core) (sp priv a) :
    ((t.draw).onCore k f).fetchFault sp priv a = t.fetchFault sp priv a := rfl
theorem State.resolve_onCore (t : State) (k : CoreId) (f : Core → Core) (sp priv acc a) :
    ((t.draw).onCore k f).resolve sp priv acc a = t.resolve sp priv acc a := rfl

end Sys2Proof.Machine
end

section
/-! PROOFS. The steps of a core's clock (R17, R19, R21, R23, R65, R158, R192, R299, R302, R345, R346). -/

namespace Sys2Proof.Machine

/-- Settles O38, step by step: what each one's own rule says, and what it leaves of the core and of the rest. -/
theorem coreClockSteps : Obligations.CoreClockSteps := by
  unfold Obligations.CoreClockSteps
  intro s k c only
  refine ⟨fun h => ?_, fun hold h => ?_, fun a h hp => ?_, fun h => ?_, fun array h => ?_, fun n h => ?_, fun pos h => ?_, fun id h => ?_⟩
  · obtain ⟨x, hx, e⟩ := execResultLanding_core h
    have hpace : x.landCycle.pace = c.pace := by
      rw [Core.pace_landCycle]
      obtain rfl | ⟨line, double, rfl⟩ := hx
      · rfl
      · exact Core.pace_softError ..
    refine ⟨_, x, e, State.onCore_only _ _ _ (congrArg Prod.fst hpace), hx, ?_, ?_⟩
    · exact (s.draw).cores_onCore_self ..
    · rw [State.cores_onCore_self]
      exact congrArg Prod.snd hpace
  · have e : exec .matrixRowLanding s = .next ((s.draw).onCore k fun c => c.matrixCycle s.free hold) := by
      rw [show exec .matrixRowLanding s = execMatrixRowLanding s from rfl, execMatrixRowLanding, h]
    have hb := c.beside_matrixCycle hold s.free
    have ht : ((s.draw).onCore k fun c => c.matrixCycle s.free hold).cores[k] = c.matrixCycle s.free hold := (s.draw).cores_onCore_self ..
    refine ⟨_, e, State.onCore_only _ _ _ (congrArg Prod.fst hb), ht, ?_⟩
    rw [ht]
    refine ⟨rfl, Core.mops_matrixCycle _ _ _, congrArg (·.2.1) hb, congrArg (·.2.2.1) hb, congrArg (·.2.2.2.1) hb, fun hh => ?_⟩
    subst hh
    exact congrArg (·.2.2.2.2) hb
  · have e : exec .icacheFill s = _ := execIcacheFill_fetch h hp
    obtain ⟨t, htv⟩ : ∃ t, t = s.checkVa (s.spaceOn k) (a / 32 * 32) 32 := ⟨_, rfl⟩
    rw [← htv] at e
    have hk : s.Checks t := htv ▸ State.checks_checkVa ..
    have hc : t.cores[k] = c := congrArg (fun v => v[k]) hk.cores
    obtain ⟨hhost, hhpat, hsync, hsp⟩ := hk.others
    obtain ⟨h1, h2, h3, h4, h5, h6, h7, h8⟩ := State.onCore_only (t.draw) k
      (fun c => { c with icache := (t.fetchLine k a :: c.icache).take 8192 }) rfl
    have hu := (t.draw).cores_onCore_self k fun c => { c with icache := (t.fetchLine k a :: c.icache).take 8192 }
    rw [show (t.draw).cores[k] = c from hc] at hu h2
    obtain ⟨k1, k2, k3, k4⟩ := t.fetchLine_key k a
    have hpriv : t.cores[k].ctx.x.priv = c.ctx.x.priv := by rw [hc]
    refine ⟨_, t.fetchLine k a, e, ⟨fun i hi => (h1 i hi).trans (congrArg (fun v => v[i]) hk.cores), h2, h3.trans hk.hbm, h4.trans hhost,
      h5.trans hhpat, h6.trans hsync, h7.trans hk.tasks, h8.trans hk.mgmt⟩, by rw [hu], by rw [hu], by rw [hu], by rw [hu], k1,
      k2.trans (by rw [hsp]), k3.trans (by rw [hsp]), k4.trans hpriv, State.fetchLine_outside, fun ha z hz => ?_, fun ha p hz hr hq => ?_⟩
    · rw [State.fetchFault_onCore] at hz
      exact State.fetchLine_fails ha (by rw [hsp, hpriv, hz])
    · rw [State.fetchFault_onCore] at hz
      rw [State.resolve_onCore] at hr
      rw [← hk.hbm]
      exact State.fetchLine_data ha (by rw [hsp, hpriv, hz]) (by rw [hsp, hpriv, hr]) hq
  · rw [show exec .crossingDelivery s = execCrossingDelivery s from rfl, execCrossingDelivery, h]
    simp
  · have e : exec .periodStretch s = .next (s.onCore k fun c => { c with clk := c.clk.stretch s.now array }) := by
      rw [show exec .periodStretch s = execPeriodStretch s from rfl, execPeriodStretch, h]
    refine ⟨_, e, fun i hi => s.cores_onCore k i _ hi, Clk.following_of_lt s.now, ?_⟩
    rw [s.cores_onCore_self]
    exact c.clk.stretch_islands s.now array
  · have e : exec .periodStretch s = .next { s with isles := s.isles.set n (s.isles[n].stretch s.now (isController n)) } := by
      rw [show exec .periodStretch s = execPeriodStretch s from rfl, execPeriodStretch, h]
    have hn : (s.isles.set n (s.isles[n].stretch s.now (isController n)))[n] = s.isles[n].stretch s.now (isController n) := by simp
    refine ⟨_, e, rfl, fun i hi => ?_, fun hx => hn.trans (if_pos ?_), fun hx => ?_⟩
    · have hi' : n.val ≠ i.val := fun e => hi (Fin.ext e.symm)
      simp [hi']
    · rw [Isle.last_asked, hx]
    · dsimp only
      rw [hn]
      exact s.isles[n].stretch_asks s.now n hx
  · rw [show exec .malformedBundle s = execMalformedBundle s from rfl, execMalformedBundle, h]
  · refine ⟨fun hn => ?_, fun x hx => ⟨fun hw => ?_, fun hw hp => ?_⟩⟩
    · rw [show exec .shootdownComplete s = execShootdownComplete s from rfl, execShootdownComplete, h]
      simp only [hn]
    · rw [show exec .shootdownComplete s = execShootdownComplete s from rfl, execShootdownComplete, h]
      simp only [hx]
      exact if_pos (by simpa using hw)
    · have e : exec .shootdownComplete s = .next (((({ s with shoots := s.shoots.filter (·.id != id) } : State).dropCached x).onCore x.core
          fun c => c.onRun fun r => { r with regions := r.regions.map fun g => { g with tlbis := g.tlbis.filter (· != id) } }).soon
            [devCore .regionCommit x.core]) := by
        rw [show exec .shootdownComplete s = execShootdownComplete s from rfl, execShootdownComplete, h]
        simp only [hx]
        exact if_neg (by simpa [hw] using hp)
      obtain ⟨hi, hr, hf⟩ := State.cores_shootDone { s with shoots := s.shoots.filter (·.id != id) } x
        fun r => { r with regions := r.regions.map fun g => { g with tlbis := g.tlbis.filter (· != id) } }
      exact ⟨_, e, State.shoots_dropCached .., hi, hr, congrArg Run.regions hf⟩

end Sys2Proof.Machine
end

section
/-! SUPPORT. What commits, commands that are sent and rows of a drain-add do to their core and to the device (R39, R171, R215, R242, R264,
R332). -/

namespace Sys2Proof.Machine

/-! ### Records that join a log -/

theorem State.cores_writeVa {s t : State} {sp : Space} {va n v : Nat} (h : s.writeVa sp va n v = .ok t) : t.cores = s.cores := by
  unfold State.writeVa at h
  split at h
  · cases h
  · cases h; rfl
theorem State.cores_logPut {s t : State} {sp : Space} {va v n : Nat} (h : s.logPut sp va v n = .ok t) : t.cores = s.cores := by
  induction n generalizing s va v with
  | zero => cases h; rfl
  | succ n ih =>
    unfold State.logPut at h
    split at h
    · cases h
    · next hw => exact (ih h).trans (State.cores_writeVa hw)
theorem State.cores_joinRec {s : State} {sp : Space} {base born : Nat} {l : Log} {r : LogRec} {x : State × Log}
    (h : s.joinRec sp base born l r = .ok x) : x.1.cores = s.cores := by
  unfold State.joinRec at h
  dsimp only at h
  split at h
  · cases h
  · next h1 =>
    split at h
    · cases h
    · next h2 =>
      cases h
      exact (State.cores_logPut h2).trans (State.cores_logPut h1)
theorem State.cores_joinRecs {sp : Space} {base born : Nat} (seg : List LogRec) {s : State} {l : Log} {x : State × Log}
    (h : s.joinRecs sp base born l seg = .ok x) : x.1.cores = s.cores := by
  induction seg generalizing s l with
  | nil => cases h; rfl
  | cons r rest ih =>
    unfold State.joinRecs at h
    split at h
    · cases h
    · next hr => exact (ih h).trans (State.cores_joinRec hr)
theorem State.cores_foldl {α : Type} {f : State → α → State} (hf : ∀ s x, (f s x).cores = s.cores) (l : List α) (s : State) :
    (l.foldl f s).cores = s.cores := by
  induction l generalizing s with
  | nil => rfl
  | cons x l ih => exact (ih (f s x)).trans (hf s x)
theorem State.checks_checkSpan (s : State) (sp : Space) (va n : Nat) : s.Checks (s.checkSpan sp va n) := by
  unfold State.checkSpan
  dsimp only
  split
  · exact State.checks_checkWalk ..
  · exact State.checks_trans (State.checks_checkWalk ..) (State.checks_checkWalk ..)
theorem State.checks_checkSegment (s : State) (sp : Space) (l : Log) (seg : List LogRec) : s.Checks (s.checkSegment sp l seg) := by
  unfold State.checkSegment
  split
  · exact s.checks_refl
  · exact State.checks_trans (State.checks_foldl _ (fun _ _ => State.checks_checkWalk ..) _ _)
      (State.checks_foldl _ (fun _ _ => State.checks_checkSpan ..) _ _)
theorem State.cores_dropRecords (s : State) (dpa n : Nat) : (s.dropRecords dpa n).cores = s.cores :=
  (State.setDropped_foldl ..).2
theorem State.cores_joinSegment (s : State) (sp : Space) (tid : Word) (priv : Bool) (seg : List LogRec) :
    (s.joinSegment sp tid priv seg).cores = s.cores := by
  unfold State.joinSegment
  split
  · rfl
  · split
    · rfl
    · next l _ =>
      have hc := (State.checks_checkSegment s sp l seg).cores
      dsimp only
      split
      · exact hc
      · exact hc
      · split
        · exact hc
        · next t _ ht =>
          refine (State.cores_foldl (fun u r => ?_) _ _).trans ((State.cores_joinRecs _ ht).trans hc)
          split
          · exact State.cores_dropRecords ..
          · rfl
/-- A segment of a task without a log area is dropped (R242). -/
theorem State.joinSegment_of_none {s : State} (sp : Space) {tid : Word} (priv : Bool) {seg : List LogRec} {g : Log} (hseg : seg ≠ [])
    (hg : s.logOf tid = some g) (hb : g.base = none) : s.joinSegment sp tid priv seg =
      s.onLog tid fun l => { l with sticky := if l.sticky = 0 then stPermission else l.sticky, dropped := l.dropped + 1 } := by
  rw [State.joinSegment, if_neg (by simpa using hseg), hg]
  dsimp only
  rw [State.checkSegment, hb]

/-! ### Crossings (R347) -/

/-- An item of a crossing changes the clocks of the core alone. -/
theorem State.cores_cross_clk (s : State) (k : CoreId) (j : Fin 10) (d : Due) :
    ∃ x, (s.cross k j d).cores = (s.onCore k fun c => { c with clk := x }).cores := ⟨_, rfl⟩
theorem State.cores_cross {s : State} {k i : CoreId} (j : Fin 10) (d : Due) (h : i ≠ k) : (s.cross k j d).cores[i] = s.cores[i] := by
  obtain ⟨x, hx⟩ := s.cores_cross_clk k j d
  rw [hx, State.cores_onCore _ _ _ _ h]
theorem State.core_cross (s : State) (k i : CoreId) (j : Fin 10) (d : Due) : (s.cross k j d).cores[i].ctx = s.cores[i].ctx ∧
    (s.cross k j d).cores[i].run = s.cores[i].run ∧ (s.cross k j d).cores[i].sram = s.cores[i].sram := by
  obtain rfl | h := eq_or_ne i k
  · obtain ⟨x, hx⟩ := s.cores_cross_clk i j d
    rw [hx, State.cores_onCore_self]
    exact ⟨rfl, rfl, rfl⟩
  · rw [State.cores_cross j d h]
    exact ⟨rfl, rfl, rfl⟩

/-! ### Commits -/

theorem State.commitAll_none {s : State} {k : CoreId} (h : s.cores[k].run.regions = []) : s.commitAll k s.cores[k].run.regions.length = s := by
  rw [h]
  rfl
theorem State.commitAll_waits {s : State} {k : CoreId} {r : Region} (h : s.cores[k].run.regions.getLast? = some r)
    (hw : r.closed = false ∨ s.cores[k].pendingOf r = true) (n : Nat) : s.commitAll k n = s := by
  cases n with
  | zero => rfl
  | succ n =>
    rw [State.commitAll]
    simp only [h]
    rw [if_pos]
    obtain hw | hw := hw
    · simp [hw]
    · rw [hw, Bool.or_true]
theorem State.commitAll_one {s : State} {k : CoreId} {r : Region} (h : s.cores[k].run.regions = [r]) (hc : r.closed = true)
    (hp : s.cores[k].pendingOf r = false) (hr : s.cores[k].run.phase = .running) : s.commitAll k s.cores[k].run.regions.length =
      if r.checked.any fun x => x != r.observed then s.mismatch k r else s.commitRegion k r := by
  rw [h]
  change s.commitAll k 1 = _
  rw [State.commitAll]
  simp only [h, List.getLast?_singleton]
  rw [if_neg (by rw [hc, hp, hr]; simp)]
  rfl

theorem State.cores_event (s : State) (code kind source : Nat) (d0 d1 : Word) : (s.event code kind source d0 d1).cores = s.cores := rfl
theorem State.event_events (s : State) (code kind source : Nat) (d0 d1 : Word) :
    (s.event code kind source d0 d1).events = ⟨s.seq, code, kind, source, d0, d1⟩ :: s.events.take 4095 := rfl
/-- A suspect mark is the core's wear: what it runs goes on (R341). -/
theorem State.run_suspect (s : State) (k : CoreId) : (s.suspect k).cores[k].run = s.cores[k].run := by
  change (s.onCore k fun c => { c with wear := { c.wear with marks := min 255 (s.cores[k].wear.marks + 1) } }).cores[k].run = _
  rw [State.cores_onCore_self]
/-- What the core runs after a signature that does not match, with no trap under way (R332). -/
theorem State.run_mismatch {s : State} {k : CoreId} {r : Region} (ht : s.cores[k].run.trap = none) :
    (s.mismatch k r).cores[k].run = { s.cores[k].run with
      phase := .trapping
      trap := some ⟨.machineCheck, 0, r.head.setWidth 48, some r.id, none, 0, 0, r.observed.setWidth 64,
        if s.cores[k].ctx.retry then .normal else .retry⟩ } := by
  have hsuspect : ∀ w : State, (if s.cores[k].ctx.retry then w.suspect k else w).cores[k].run = w.cores[k].run := fun w => by
    split
    · exact w.run_suspect k
    · rfl
  unfold State.mismatch
  dsimp only
  rw [State.cores_event, hsuspect, State.cores_onCore_self, Core.run_onRun, Core.landFault, ht]
  rfl
/-- A signature that does not match, with no trap under way. -/
theorem State.mismatch_traps {s : State} {k : CoreId} {r : Region} (ht : s.cores[k].run.trap = none) :
    (s.mismatch k r).cores[k].run.phase = .trapping ∧
    ((s.mismatch k r).cores[k].run.trap.map fun u => (u.cause, u.region, u.kind)) =
      some (.machineCheck, some r.id, if s.cores[k].ctx.retry then .normal else .retry) ∧
    (s.mismatch k r).events.head?.map (·.code) = some (if s.cores[k].ctx.retry then 0x41 else 0x42) := by
  rw [State.run_mismatch ht]
  exact ⟨rfl, rfl, rfl⟩

theorem Region.commitEvents_events (r : Region) (x : Ctx) (i : TileId) : (r.commitEvents x).a[i] =
    { x.a[i] with events := (if r.cleared.getLsbD i.val then 0 else x.a[i].events) ||| r.raised[i] } := by
  simp [Region.commitEvents]
/-- What a commit leaves where no task ends with the region. -/
theorem State.commitRegion_open {s : State} {k : CoreId} {r : Region} (he : r.ended = false) :
    let u := s.joinSegment (s.spaceOn k) s.cores[k].ctx.x.tid r.priv r.segment
    let t := s.commitRegion k r
    let d := ((s.cores[k].commitRegion r).onRun fun x => { x with copies := x.copies.map fun m =>
      if m.region = r.id && m.phase == .waiting then { m with hole := (s.joined s.cores[k].ctx.x.tid, u.joined s.cores[k].ctx.x.tid) } else m })
    t.hbm = u.hbm ∧ t.logs = u.logs ∧ t.cores[k].ctx = d.ctx ∧ t.cores[k].run = d.run := by
  intro u t d
  have hu : u.cores = s.cores := State.cores_joinSegment ..
  let v := u.onCore k fun c => (c.commitRegion r).onRun fun x => { x with copies := x.copies.map fun m =>
    if m.region = r.id && m.phase == .waiting then { m with hole := (s.joined s.cores[k].ctx.x.tid, u.joined s.cores[k].ctx.x.tid) } else m }
  have ht : t = if r.drainAdd then v.cross k 0 (devCore .drainAddApply k) else v := by
    change (if r.ended && s.cores[k].ctx.groupFlag != .none then _ else _) = _
    rw [he, Bool.false_and, if_neg Bool.false_ne_true]
  have hv : v.cores[k] = d := by
    rw [State.cores_onCore_self]
    simp only [d, hu]
  rw [ht]
  split
  · exact ⟨rfl, rfl, (hv ▸ (State.core_cross v k k ..).1), (hv ▸ (State.core_cross v k k ..).2.1)⟩
  · exact ⟨rfl, rfl, by rw [hv], by rw [hv]⟩

/-! ### Effect commands sent (R215, R216, R347) -/

/-- The crossing, the step and its argument of an effect command that leaves a core: the base die's engines over crossing 4, the quadrants'
over crossing 3 (R347). -/
def EffKind.way (x : EffKind) (k : CoreId) (tid : Word) (born : Nat) : Fin 10 × Instr × StepArg :=
  if x = .rel ∨ x = .acq ∨ x = .acqs ∨ x = .phase then (4, .sequencerNumbering, .core k)
  else if x = .publish then (4, .publishCounterWrite, .core k)
  else if x = .launch ∨ x = .cancel then (4, .effectCommandSend, .arrive tid born)
  else if x = .fork then (3, .forkAccept, .core k)
  else if x = .grwd ∨ x = .gbar ∨ x = .gcancel ∨ x = .gquit then (3, .groupEngineCommand, .core k)
  else (3, .weirOperation, .core k)
theorem State.dispatchCmd_core (s : State) (k : CoreId) (tid : Word) (e : EffCmd) :
    let w := e.kind.way k tid (((s.taskOf tid).map (·.born)).getD 0)
    s.dispatchCmd (.core k) tid e = s.cross k w.1 (.dev w.2.1 w.2.2) := by
  unfold State.dispatchCmd
  cases e.kind <;> rfl
theorem EffKind.way_crossing (x : EffKind) (k : CoreId) (tid : Word) (born : Nat) :
    (x.way k tid born).1 = 3 ∨ (x.way k tid born).1 = 4 := by
  cases x <;> simp [EffKind.way]
/-- The receiver's period from which an item to the base die or to quadrant zero counts. -/
theorem State.periodAt_device (s : State) (k : CoreId) {j : Fin 10} (hj : j = 3 ∨ j = 4) (t : Nat) (next : Bool) : s.periodAt k j t next =
    if j = 3 then t - s.isles[(Fin.ofNat 256 (240 + k.val / 96 * 4) : Fin 256)].taken else t := by
  obtain rfl | rfl := hj <;> rfl
theorem State.setUnsent_core (s : State) (k : CoreId) (rest : List EffCmd) (sent : Option EffCmd) : s.setUnsent rest sent (.core k) =
    s.onCore k fun c => c.onRun fun r => { r with effects := rest, sent := sent } := rfl
theorem State.unsent_core (s : State) (k : CoreId) : s.unsent (.core k) =
    (s.cores[k].ctx.x.tid, if s.cores[k].maySend then s.cores[k].run.effects else []) := rfl
theorem Core.maySend_iff {c : Core} : c.maySend = true ↔ c.run.sent = none ∧ c.addsDue = false := by
  simp [Core.maySend]
theorem execEffectCommandSend_nil {s : State} {k : CoreId} {tid : Word} (h : s.arg = .core k) (hu : s.unsent (.core k) = (tid, [])) :
    execEffectCommandSend s = .next s := by
  simp only [execEffectCommandSend, h, hu]
theorem execEffectCommandSend_cons {s : State} {k : CoreId} {tid : Word} {e : EffCmd} {rest : List EffCmd} (h : s.arg = .core k)
    (hu : s.unsent (.core k) = (tid, e :: rest)) :
    execEffectCommandSend s = .next ((s.setUnsent rest (some e) (.core k)).dispatchCmd (.core k) tid e) := by
  simp only [execEffectCommandSend, h, hu]
theorem execEffectCommandSend_waits {s : State} {k : CoreId} (h : s.arg = .core k)
    (hw : s.cores[k].run.effects = [] ∨ s.cores[k].run.sent ≠ none ∨ s.cores[k].addsDue = true) : execEffectCommandSend s = .next s := by
  have hu : (if s.cores[k].maySend then s.cores[k].run.effects else []) = [] := by
    split
    · next hm =>
      obtain ⟨hs, ha⟩ := Core.maySend_iff.mp hm
      obtain he | he | he := hw
      · exact he
      · exact absurd hs he
      · rw [ha] at he
        cases he
    · rfl
  exact execEffectCommandSend_nil h (by rw [State.unsent_core, hu])
/-- The oldest command leaves the core over its crossing. -/
theorem execEffectCommandSend_sends {s : State} {k : CoreId} {e : EffCmd} {rest : List EffCmd} (h : s.arg = .core k)
    (he : s.cores[k].run.effects = e :: rest) (hs : s.cores[k].run.sent = none) (ha : s.cores[k].addsDue = false) :
    let w := e.kind.way k s.cores[k].ctx.x.tid (((s.taskOf s.cores[k].ctx.x.tid).map (·.born)).getD 0)
    execEffectCommandSend s = .next ((s.onCore k fun c => c.onRun fun r => { r with effects := rest, sent := some e }).cross k w.1
      (.dev w.2.1 w.2.2)) := by
  intro w
  have hu : s.unsent (.core k) = (s.cores[k].ctx.x.tid, e :: rest) := by
    rw [State.unsent_core, if_pos (Core.maySend_iff.mpr ⟨hs, ha⟩), he]
  rw [execEffectCommandSend_cons h hu]
  exact congrArg _ (State.dispatchCmd_core ..)
theorem State.agenda_cross_dev (s : State) (k : CoreId) (j : Fin 10) (i : Instr) (a : StepArg) : (s.cross k j (.dev i a)).agenda =
    s.agenda ++ [(max (s.now + max 1 s.cores[k].clk.cross[j].d + Config.delay s.free) s.cores[k].clk.cross[j].last,
      .item k j (s.periodAt k j (s.now + 1) true + max 1 s.cores[k].clk.cross[j].d - 1) i a)] := rfl

/-! ### Commands at the distributor (R215, R264, R265) -/

theorem State.onItsWay_eq_false {s : State} {d : Due} (h : ∀ x ∈ s.agenda, x.2.bare ≠ d) : s.onItsWay d = false := by
  simpa [State.onItsWay] using h
theorem State.execEffectCommandSend_arrive {s : State} {tid : Word} {u : Task} {e : EffCmd} (harg : s.arg = .arrive tid u.born)
    (hu : s.taskOf tid = some u) (he : s.sentOf u = some e) (hx : ∀ x ∈ s.agenda, x.2.bare ≠ .dev .effectCommandSend s.arg) :
    execEffectCommandSend s = .next (s.receive u e) := by
  rw [execEffectCommandSend, harg]
  dsimp only
  rw [if_neg (by rw [State.onItsWay_eq_false (harg ▸ hx)]; exact Bool.false_ne_true), hu, Option.filter_some, if_pos (beq_self_eq_true _)]
  dsimp only
  rw [he]
theorem State.cores_wake (s : State) (k : CoreId) : (s.wake k).cores = s.cores := rfl
/-- Once a task's command is accepted the task has none on its way (R215). -/
theorem State.accept_taken (s : State) (u : Task) : (u.stand = .onCore → (s.accept u).cores[u.core].run.sent = none) ∧
    (u.stand ≠ .onCore → ∀ x ∈ (s.accept u).tasks, x.tid = u.tid → x.sent = none) := by
  constructor <;> intro h
  · rw [State.accept, if_pos h, State.cores_wake, State.cores_onCore_self]
    rfl
  · rw [State.accept, if_neg h]
    intro x hx ht
    obtain ⟨y, -, rfl⟩ := List.mem_map.mp hx
    split
    · rfl
    · next hn =>
      rw [if_neg hn] at ht
      exact absurd (beq_iff_eq.mpr ht) hn
theorem State.queues_accept (s : State) (u : Task) : (s.accept u).queues = s.queues := by
  unfold State.accept
  split <;> rfl
theorem State.queues_rereadHeads (s : State) : s.rereadHeads.queues = s.queues := rfl
theorem State.tid_of_taskOf {s : State} {tid : Word} {u : Task} (h : s.taskOf tid = some u) : u.tid = tid := by
  simpa using List.find?_some h
theorem State.queue_onQueue (s : State) (q : Fin 16) (f : Queue → Queue) : (s.onQueue q f).queues[q] = f s.queues[q] := by
  simp [State.onQueue]
/-- A LAUNCH at the distributor: it waits for a slot, or is queued and accepted (R264). -/
theorem State.receive_launch (s : State) (u : Task) {e : EffCmd} (hk : e.kind = .launch) : s.receive u e =
    let l := (s.launchOf u.launch).map (·.lrec)
    let q : Fin 16 := Fin.ofNat 16 e.b.toNat
    if s.queues[q].count = 63 then s
    else ((s.onQueue q (·.push e.image ((l.map (·.owner)).getD 0) ((l.map (·.prio)).getD 0))).rereadHeads).accept u := by
  rw [State.receive, hk]

/-! ### Rows of a drain-add (R171) -/

/-- What the cores hold and run is the same: their scratchpads apart. -/
def State.SramOnly (s t : State) : Prop := ∀ i : CoreId, t.cores[i].ctx = s.cores[i].ctx ∧ t.cores[i].run = s.cores[i].run
theorem State.sramOnly_refl (s : State) : s.SramOnly s := fun _ => ⟨rfl, rfl⟩
theorem State.SramOnly.trans {s t u : State} (h : s.SramOnly t) (g : t.SramOnly u) : s.SramOnly u :=
  fun i => ⟨(g i).1.trans (h i).1, (g i).2.trans (h i).2⟩
theorem State.sramOnly_of_cores {s t : State} (h : t.cores = s.cores) : s.SramOnly t := fun i => by rw [h]; exact ⟨rfl, rfl⟩
theorem State.sramOnly_onCore (s : State) (k : CoreId) (f : Sram → Sram) : s.SramOnly (s.onCore k fun c => { c with sram := f c.sram }) :=
  fun i => by
    obtain rfl | h := eq_or_ne i k
    · rw [State.cores_onCore_self]
      exact ⟨rfl, rfl⟩
    · rw [State.cores_onCore _ _ _ _ h]
      exact ⟨rfl, rfl⟩
theorem State.cores_areaPut (s : State) (i off n v : Nat) : (s.areaPut i off n v).cores = s.cores := by
  unfold State.areaPut
  split
  · rfl
  · split
    · next hw => exact State.cores_writeVa hw
    · rfl
theorem State.sramOnly_taskPoke (s : State) (u : Task) (a : Nat) (b : Byte) : s.SramOnly (s.taskPoke u a b) := by
  unfold State.taskPoke
  split
  · next p _ => exact s.sramOnly_onCore _ (·.poke p b)
  · exact State.sramOnly_of_cores ((State.cores_areaPut ..).trans (State.cores_areaPut ..))
  · exact s.sramOnly_refl
theorem State.sramOnly_taskPut (u : Task) (n : Nat) (s : State) (a v : Nat) : s.SramOnly (s.taskPut u a v n) := by
  induction n generalizing s a v with
  | zero => exact s.sramOnly_refl
  | succ n ih => exact State.SramOnly.trans (s.sramOnly_taskPoke u a _) (ih _ _ _)
theorem State.sramOnly_taskPoisonPut (s : State) (u : Task) (a : Nat) (v : Bool) : s.SramOnly (s.taskPoisonPut u a v) := by
  unfold State.taskPoisonPut
  split
  · next p _ => exact s.sramOnly_onCore _ fun m => { m with poison := setPut m.poison (p / 256) v }
  · exact State.sramOnly_of_cores (State.cores_areaPut ..)
  · exact s.sramOnly_refl
/-- A row is added into the bytes of its task, wherever they are; no core's registers change. -/
theorem State.sramOnly_addRow (s : State) (u : Task) (a : Nat) (clamp : Bool) (x : Row) (pois : Bool) :
    s.SramOnly (s.addRow u a clamp x pois).1 := by
  unfold State.addRow
  dsimp only
  have hput : ∀ v, s.SramOnly ((s.checkLines u a 512).taskPut u a v 512) := fun v =>
    (State.sramOnly_of_cores (State.checks_checkLines s u a 512).cores).trans (State.sramOnly_taskPut u 512 _ a v)
  split
  · exact ((hput _).trans (State.sramOnly_taskPoisonPut _ u a true)).trans (State.sramOnly_taskPoisonPut _ u _ true)
  · exact hput _
/-- A row of a drain-add applied: the state after it and the events it raised; one of a task that has retired is dropped. -/
def State.applyRow (s : State) (b : DrainBuf) (j : Nat) (x : Row) (pois : Bool) : State × BitVec 32 :=
  match s.taskOf b.tid with
  | some u => s.addRow u (b.addr + 512 * j) b.clamp x pois
  | none => (s, 0)
theorem State.sramOnly_applyRow (s : State) (b : DrainBuf) (j : Nat) (x : Row) (pois : Bool) : s.SramOnly (s.applyRow b j x pois).1 := by
  unfold State.applyRow
  split
  · exact s.sramOnly_addRow _ _ _ _ _
  · exact s.sramOnly_refl
/-- The core after a row: its events are in the drained tile's word, and the row has left the buffer. -/
def Core.rowApplied (c : Core) (b : DrainBuf) (ti : TileId) (ev : BitVec 32) (rest : List (Nat × Row × Bool)) : Core :=
  (c.setTile ti { c.ctx.a[ti] with events := c.ctx.a[ti].events ||| ev }).onRun fun r => { r with
    drainBuf := if rest.isEmpty then none else some { b with rows := rest, applied := b.applied + 1 } }
theorem Core.rowApplied_events (c : Core) (b : DrainBuf) (ti : TileId) (ev : BitVec 32) (rest : List (Nat × Row × Bool)) :
    (c.rowApplied b ti ev rest).ctx.a[ti].events = c.ctx.a[ti].events ||| ev := by
  simp [Core.rowApplied, Core.setTile, Core.onCtx, Core.onRun]
theorem execDrainAddApply_idle {s : State} {k : CoreId} (h : s.arg = .core k)
    (hw : s.cores[k].run.drainBuf = none ∨ s.cores[k].addsDue = false) : execDrainAddApply s = .next s := by
  rw [execDrainAddApply, h]
  dsimp only
  split
  · rfl
  · next hb =>
    obtain hw | hw := hw
    · rw [hw] at hb
      cases hb
    · rw [hw]
      rfl
theorem execDrainAddApply_done {s : State} {k : CoreId} {b : DrainBuf} (h : s.arg = .core k) (hb : s.cores[k].run.drainBuf = some b)
    (hd : s.cores[k].addsDue = true) (hr : b.rows = []) :
    execDrainAddApply s = .next (s.onCore k fun c => c.onRun fun r => { r with drainBuf := none }) := by
  rw [execDrainAddApply, h]
  simp only [hb, hd, hr]
  rfl
theorem execDrainAddApply_row {s : State} {k : CoreId} {b : DrainBuf} {j : Nat} {x : Row} {pois : Bool} {rest : List (Nat × Row × Bool)}
    (h : s.arg = .core k) (hb : s.cores[k].run.drainBuf = some b) (hd : s.cores[k].addsDue = true) (hr : b.rows = (j, x, pois) :: rest) :
    execDrainAddApply s =
      let a := s.applyRow b j x pois
      let t := a.1.onCore k fun c => c.rowApplied b (tileRow b.tile j).1 a.2 rest
      .next (if rest.isEmpty then t.wake k else t.cross k 0 (devCore .drainAddApply k)) := by
  rw [execDrainAddApply, h]
  simp only [hb, hd, hr]
  rfl
/-- The step after a row changes neither memory nor what a core holds and runs: the engines look at the effects, or the next row is due. -/
theorem State.afterRow_same (w : State) (k : CoreId) (last : Bool) (d : Due) :
    let t := if last then w.wake k else w.cross k 0 d
    t.hbm = w.hbm ∧ ∀ i : CoreId, t.cores[i].ctx = w.cores[i].ctx ∧ t.cores[i].run = w.cores[i].run ∧ t.cores[i].sram = w.cores[i].sram := by
  intro t
  cases last
  · exact ⟨rfl, fun i => w.core_cross k i 0 d⟩
  · exact ⟨rfl, fun _ => ⟨rfl, rfl, rfl⟩⟩
/-- A row applied: its task's bytes change, the tile's events rise, and the row leaves the buffer (R171). -/
theorem execDrainAddApply_row_eq {s : State} {k : CoreId} {b : DrainBuf} {j : Nat} {x : Row} {pois : Bool} {rest : List (Nat × Row × Bool)}
    (h : s.arg = .core k) (hb : s.cores[k].run.drainBuf = some b) (hd : s.cores[k].addsDue = true) (hr : b.rows = (j, x, pois) :: rest) :
    let a := s.applyRow b j x pois
    let ti := (tileRow b.tile j).1
    ∃ t, execDrainAddApply s = .next t ∧ t.hbm = a.1.hbm ∧ (∀ i : CoreId, t.cores[i].sram = a.1.cores[i].sram) ∧
      t.cores[k].ctx.a[ti].events = s.cores[k].ctx.a[ti].events ||| a.2 ∧
      t.cores[k].run.drainBuf = if rest = [] then none else some { b with rows := rest, applied := b.applied + 1 } := by
  intro a ti
  let w := a.1.onCore k fun c => c.rowApplied b ti a.2 rest
  have hw : w.cores[k] = a.1.cores[k].rowApplied b ti a.2 rest := State.cores_onCore_self ..
  obtain ⟨hhbm, hsame⟩ := w.afterRow_same k rest.isEmpty (devCore .drainAddApply k)
  obtain ⟨hctx, hrun, -⟩ := hsame k
  refine ⟨_, execDrainAddApply_row h hb hd hr, hhbm, fun i => (hsame i).2.2.trans ?_, (congrArg (fun x : Ctx => x.a[ti].events) hctx).trans ?_,
    (congrArg Run.drainBuf hrun).trans ?_⟩
  · obtain rfl | hi := eq_or_ne i k
    · rw [hw]
      rfl
    · rw [State.cores_onCore _ _ _ _ hi]
  · rw [hw, ← (s.sramOnly_applyRow b j x pois k).1]
    exact Core.rowApplied_events ..
  · rw [hw]
    change (if rest.isEmpty then _ else _) = _
    simp only [List.isEmpty_iff]

end Sys2Proof.Machine
end

section
/-! PROOFS. Commits and what follows them (R38, R39, R91, R171, R208, R215, R216, R242, R264, R302, R332, R347). -/

namespace Sys2Proof.Machine

theorem execRegionCommit_core {s : State} {k : CoreId} (h : s.arg = .core k) :
    execRegionCommit s = .next ((s.commitAll k s.cores[k].run.regions.length).wake k) := by
  rw [execRegionCommit, h]
/-- A checked region commits where its signature is the one observed (R332). -/
theorem State.commitAll_commits {s : State} {k : CoreId} {r : Region} (h : s.cores[k].run.regions = [r]) (hc : r.closed = true)
    (hp : s.cores[k].pendingOf r = false) (hr : s.cores[k].run.phase = .running) (hx : r.checked = none ∨ r.checked = some r.observed) :
    s.commitAll k s.cores[k].run.regions.length = s.commitRegion k r := by
  rw [State.commitAll_one h hc hp hr, if_neg]
  obtain hx | hx := hx <;> simp [hx]
theorem State.commitAll_mismatches {s : State} {k : CoreId} {r : Region} {x : BitVec 32} (h : s.cores[k].run.regions = [r])
    (hc : r.closed = true) (hp : s.cores[k].pendingOf r = false) (hr : s.cores[k].run.phase = .running) (hx : r.checked = some x)
    (hne : x ≠ r.observed) : s.commitAll k s.cores[k].run.regions.length = s.mismatch k r := by
  rw [State.commitAll_one h hc hp hr, if_pos (by simp [hx, hne])]

/-- Settles O39, clause by clause: commits, commands sent, rows of a drain-add, and commands that arrive at the distributor. -/
theorem commitSteps : Obligations.CommitSteps := by
  unfold Obligations.CommitSteps
  refine ⟨fun s k harg => ?_, fun s tid u e harg hu he hx => ?_⟩
  · intro c tid joined
    have hcommit : exec .regionCommit s = .next ((s.commitAll k c.run.regions.length).wake k) := execRegionCommit_core harg
    refine ⟨fun h => ?_, fun r h hw => ?_, fun r h hc hp hr ht => ⟨fun x hx hne => ?_, fun hx he => ?_⟩, ?_, fun e rest he hs ha => ?_, ?_,
      fun b hb hd => ⟨fun hr => ?_, fun j x pois rest hr => ?_⟩⟩
    · rw [hcommit, State.commitAll_none h]
    · rw [hcommit, State.commitAll_waits h hw]
    · rw [hcommit, State.commitAll_mismatches h hc hp hr hx hne]
      exact ⟨_, rfl, State.mismatch_traps ht⟩
    · rw [hcommit, State.commitAll_commits h hc hp hr hx]
      obtain ⟨hhbm, hlogs, hctx, hrun⟩ := State.commitRegion_open (s := s) (k := k) (r := r) he
      refine ⟨_, rfl, (congrArg Run.regions hrun).trans ?_, congrArg Run.effects hrun, congrArg Run.tagTable hrun, congrArg Ctx.retry hctx,
        congrArg Ctx.resumed hctx, (congrArg Ctx.s hctx).trans rfl, (congrArg Ctx.p hctx).trans rfl, (congrArg Ctx.v hctx).trans rfl,
        (congrArg Ctx.x hctx).trans rfl,
        (congrArg Ctx.pc hctx).trans rfl, fun i => (congrArg (fun x : Ctx => x.a[i]) hctx).trans (r.commitEvents_events _ i), fun hs => ?_,
        fun g hs hg hb => ?_, hhbm, hlogs, (congrArg Run.copies hrun).trans ?_⟩
      · change List.filter _ s.cores[k].run.regions = _
        rw [h]
        simp
      · exact ⟨hhbm.trans (by rw [hs]; rfl), hlogs.trans (by rw [hs]; rfl)⟩
      · have hj := State.joinSegment_of_none (s.spaceOn k) r.priv hs hg hb
        exact ⟨hhbm.trans (by rw [hj]; rfl), hlogs.trans (by rw [hj]; rfl)⟩
      · refine List.map_congr_left fun m _ => ?_
        simp only [Bool.and_eq_true, decide_eq_true_eq, beq_iff_eq]
        rfl
    · exact execEffectCommandSend_waits harg
    · refine ⟨_, execEffectCommandSend_sends harg he hs ha, ?_, ?_, ?_, fun i hi => ?_⟩
      · rw [(State.core_cross _ k k _ _).2.1, State.cores_onCore_self]
        rfl
      · rw [(State.core_cross _ k k _ _).2.1, State.cores_onCore_self]
        rfl
      · rw [State.agenda_cross_dev, State.cores_onCore_self, State.periodAt_device _ _ (EffKind.way_crossing ..)]
        rfl
      · rw [State.cores_cross _ _ hi, State.cores_onCore _ _ _ _ hi]
    · exact execDrainAddApply_idle harg
    · exact execDrainAddApply_done harg hb hd hr
    · obtain ⟨t, ht, hhbm, hsram, htile, hbuf⟩ := execDrainAddApply_row_eq harg hb hd hr
      refine ⟨t, ht, hbuf, fun hn => ?_, fun u hu => ?_⟩
      · have ha : s.applyRow b j x pois = (s, 0) := by rw [State.applyRow, hn]
        rw [ha] at hhbm hsram
        exact ⟨hhbm, hsram⟩
      · have ha : s.applyRow b j x pois = s.addRow u (b.addr + 512 * j) b.clamp x pois := by rw [State.applyRow, hu]
        rw [ha] at hhbm hsram htile
        exact ⟨hhbm, hsram, htile⟩
  · have htid := State.tid_of_taskOf hu
    subst htid
    intro q taken
    have hrecv : exec .effectCommandSend s = .next (s.receive u e) := State.execEffectCommandSend_arrive harg hu he hx
    refine ⟨fun hk hf => ?_, fun hk hf => ⟨_, hrecv, ?_⟩, fun hk => ⟨_, hrecv, ?_⟩⟩
    · rw [hrecv, State.receive_launch s u hk, if_pos hf]
    · rw [State.receive_launch s u hk, if_neg hf, State.queues_accept]
      refine ⟨State.accept_taken _ u, ?_⟩
      rw [State.queues_rereadHeads, State.queue_onQueue]
      exact ⟨rfl, rfl, rfl⟩
    · rw [State.receive, hk]
      exact State.accept_taken _ u

end Sys2Proof.Machine
end

section
/-! SUPPORT. The fields of a syllable: what each is as a number, and that each format's syllable holds its operands there (R48 to R51). -/

namespace Sys2Proof.Machine

/-! ### Fields as numbers -/

/-- The bits of x above those of y, as a number. -/
theorem toNat_append_eq {a b : Nat} (x : BitVec a) (y : BitVec b) : (x ++ y).toNat = x.toNat * 2 ^ b + y.toNat := by
  rw [BitVec.toNat_append, ← Nat.shiftLeft_add_eq_or_of_lt y.isLt, Nat.shiftLeft_eq]
/-- A field of bits as a number below its bound. -/
theorem val_ofNat_extract (w : Half) (lo n : Nat) : (Fin.ofNat (2 ^ n) (w.extractLsb' lo n).toNat).val = w.toNat / 2 ^ lo % 2 ^ n := by
  rw [Fin.val_ofNat, BitVec.extractLsb'_toNat, Nat.mod_mod, Nat.shiftRight_eq_div_pow]
theorem val_fG (w : Half) : (fG w).val = w.toNat % 32 := (val_ofNat_extract w 0 5).trans (congrArg (· % 32) (Nat.div_one _))
theorem val_fD (w : Half) : (fD w).val = w.toNat / 2 ^ 19 % 64 := val_ofNat_extract w 19 6
theorem val_fA (w : Half) : (fA w).val = w.toNat / 2 ^ 13 % 64 := val_ofNat_extract w 13 6
theorem val_fB (w : Half) : (fB w).val = w.toNat / 2 ^ 7 % 64 := val_ofNat_extract w 7 6
theorem val_fX (w : Half) : (fX w).val = w.toNat / 2 ^ 5 % 4 := val_ofNat_extract w 5 2
theorem toNat_fI8 (w : Half) : (fI8 w).toNat = w.toNat / 2 ^ 5 % 256 := by rw [fI8, BitVec.extractLsb'_toNat, Nat.shiftRight_eq_div_pow]
theorem toNat_fI14 (w : Half) : (fI14 w).toNat = w.toNat / 2 ^ 5 % 2 ^ 14 := by
  rw [fI14, BitVec.extractLsb'_toNat, Nat.shiftRight_eq_div_pow]
theorem toNat_fDisp (w : Half) : (fDisp w).toNat = w.toNat / 2 ^ 5 % 2 ^ 20 := by
  rw [fDisp, BitVec.extractLsb'_toNat, Nat.shiftRight_eq_div_pow]
theorem val_mC (w : Half) : (mC w).val = w.toNat / 2 ^ 22 % 8 := val_ofNat_extract w 22 3
theorem val_mW (w : Half) : (mW w).val = w.toNat / 2 ^ 21 % 2 := val_ofNat_extract w 21 1
theorem val_mA (w : Half) : (mA w).val = w.toNat / 2 ^ 15 % 64 := val_ofNat_extract w 15 6
theorem val_mB (w : Half) : (mB w).val = w.toNat / 2 ^ 9 % 64 := val_ofNat_extract w 9 6
theorem val_mR (w : Half) : (mR w).val = w.toNat / 2 ^ 7 % 4 := val_ofNat_extract w 7 2
theorem val_mV (w : Half) : (mV w).val = w.toNat / 2 ^ 5 % 4 := val_ofNat_extract w 5 2

/-! ### Syllables as numbers -/

theorem toNat_rrr (m : Nat) (d a b : Fin 64) (x : Fin 4) (g : PReg) : (rrr m d a b x g).toNat =
    ((((m % 2 ^ 7 * 64 + d.val) * 64 + a.val) * 64 + b.val) * 4 + x.val) * 32 + g.val := by
  rw [rrr, toNat_append_eq, toNat_append_eq, toNat_append_eq, toNat_append_eq, toNat_append_eq]
  simp only [BitVec.toNat_ofNat]
  omega
theorem toNat_rri (m : Nat) (d a : Fin 64) (i : BitVec 8) (g : PReg) : (rri m d a i g).toNat =
    (((m % 2 ^ 7 * 64 + d.val) * 64 + a.val) * 256 + i.toNat) * 32 + g.val := by
  rw [rri, toNat_append_eq, toNat_append_eq, toNat_append_eq, toNat_append_eq]
  simp only [BitVec.toNat_ofNat]
  omega
theorem toNat_ri (m : Nat) (d : Fin 64) (i : BitVec 14) (g : PReg) : (ri m d i g).toNat =
    ((m % 2 ^ 7 * 64 + d.val) * 2 ^ 14 + i.toNat) * 32 + g.val := by
  rw [ri, toNat_append_eq, toNat_append_eq, toNat_append_eq]
  simp only [BitVec.toNat_ofNat]
  omega
theorem toNat_brf (m : Nat) (i : BitVec 20) (g : PReg) : (brf m i g).toNat = (m % 2 ^ 7 * 2 ^ 20 + i.toNat) * 32 + g.val := by
  rw [brf, toNat_append_eq, toNat_append_eq]
  simp only [BitVec.toNat_ofNat]
  omega
theorem toNat_mx (m : Nat) (c : TileId) (w : BufId) (a b : Fin 64) (r v : Fin 4) (g : PReg) : (mx m c w a b r v g).toNat =
    ((((((m % 2 ^ 7 * 8 + c.val) * 2 + w.val) * 64 + a.val) * 64 + b.val) * 4 + r.val) * 4 + v.val) * 32 + g.val := by
  rw [mx, toNat_append_eq, toNat_append_eq, toNat_append_eq, toNat_append_eq, toNat_append_eq, toNat_append_eq, toNat_append_eq]
  simp only [BitVec.toNat_ofNat]
  omega

/-! ### The fields of a syllable are its operands -/

theorem major_of {m : Nat} {g : PReg} {w : Half} (h : syllableOf m g w) : major w = m % 2 ^ 7 :=
  (congrArg BitVec.toNat h.2).trans (BitVec.toNat_ofNat m 7)
theorem fG_of {m : Nat} {g : PReg} {w : Half} (h : syllableOf m g w) : fG w = g :=
  (Fin.ext ((val_fG w).trans (Fin.val_ofNat 32 w.toNat).symm)).trans h.1

section
variable (m : Nat) (d a b : Fin 64) (x : Fin 4) (g : PReg)
@[simp] theorem major_rrr : major (rrr m d a b x g) = m % 2 ^ 7 := major_of (syllableOf_rrr ..)
@[simp] theorem fG_rrr : fG (rrr m d a b x g) = g := fG_of (syllableOf_rrr ..)
@[simp] theorem fD_rrr : fD (rrr m d a b x g) = d := Fin.ext (by rw [val_fD, toNat_rrr]; omega)
@[simp] theorem fA_rrr : fA (rrr m d a b x g) = a := Fin.ext (by rw [val_fA, toNat_rrr]; omega)
@[simp] theorem fB_rrr : fB (rrr m d a b x g) = b := Fin.ext (by rw [val_fB, toNat_rrr]; omega)
@[simp] theorem fX_rrr : fX (rrr m d a b x g) = x := Fin.ext (by rw [val_fX, toNat_rrr]; omega)

variable (i : BitVec 8)
@[simp] theorem major_rri : major (rri m d a i g) = m % 2 ^ 7 := major_of (syllableOf_rri ..)
@[simp] theorem fG_rri : fG (rri m d a i g) = g := fG_of (syllableOf_rri ..)
@[simp] theorem fD_rri : fD (rri m d a i g) = d := Fin.ext (by rw [val_fD, toNat_rri]; omega)
@[simp] theorem fA_rri : fA (rri m d a i g) = a := Fin.ext (by rw [val_fA, toNat_rri]; omega)
@[simp] theorem fI8_rri : fI8 (rri m d a i g) = i := BitVec.eq_of_toNat_eq (by rw [toNat_fI8, toNat_rri]; omega)

variable (j : BitVec 14)
@[simp] theorem major_ri : major (ri m d j g) = m % 2 ^ 7 := major_of (syllableOf_ri ..)
@[simp] theorem fG_ri : fG (ri m d j g) = g := fG_of (syllableOf_ri ..)
@[simp] theorem fD_ri : fD (ri m d j g) = d := Fin.ext (by rw [val_fD, toNat_ri]; omega)
@[simp] theorem fI14_ri : fI14 (ri m d j g) = j := BitVec.eq_of_toNat_eq (by rw [toNat_fI14, toNat_ri]; omega)
/-- The low byte of an imm14 stands where an imm8 does. -/
@[simp] theorem fI8_ri : fI8 (ri m d (i.setWidth 14) g) = i :=
  BitVec.eq_of_toNat_eq (by rw [toNat_fI8, toNat_ri, BitVec.toNat_setWidth]; omega)

variable (k : BitVec 20)
@[simp] theorem major_brf : major (brf m k g) = m % 2 ^ 7 := major_of (syllableOf_brf ..)
@[simp] theorem fG_brf : fG (brf m k g) = g := fG_of (syllableOf_brf ..)
@[simp] theorem fDisp_brf : fDisp (brf m k g) = k := BitVec.eq_of_toNat_eq (by rw [toNat_fDisp, toNat_brf]; omega)

variable (c : TileId) (w : BufId) (r v : Fin 4)
@[simp] theorem major_mx : major (mx m c w a b r v g) = m % 2 ^ 7 := major_of (syllableOf_mx ..)
@[simp] theorem fG_mx : fG (mx m c w a b r v g) = g := fG_of (syllableOf_mx ..)
@[simp] theorem mC_mx : mC (mx m c w a b r v g) = c := Fin.ext (by rw [val_mC, toNat_mx]; omega)
@[simp] theorem mW_mx : mW (mx m c w a b r v g) = w := Fin.ext (by rw [val_mW, toNat_mx]; omega)
@[simp] theorem mA_mx : mA (mx m c w a b r v g) = a := Fin.ext (by rw [val_mA, toNat_mx]; omega)
@[simp] theorem mB_mx : mB (mx m c w a b r v g) = b := Fin.ext (by rw [val_mB, toNat_mx]; omega)
@[simp] theorem mR_mx : mR (mx m c w a b r v g) = r := Fin.ext (by rw [val_mR, toNat_mx]; omega)
@[simp] theorem mV_mx : mV (mx m c w a b r v g) = v := Fin.ext (by rw [val_mV, toNat_mx]; omega)
end

/-! ### Operands narrower than their field -/

@[simp] theorem val_ofP (x : PReg) : (ofP x).val = x.val := Nat.mod_eq_of_lt (by omega)
@[simp] theorem toP_ofP (x : PReg) : toP (ofP x) = x := Fin.ext (by simp [toP])
@[simp] theorem val_ofRing (x : RingId) : (ofRing x).val = x.val := Nat.mod_eq_of_lt (by omega)
@[simp] theorem toRing_ofRing (x : RingId) : toRing (ofRing x) = x := Fin.ext (by simp [toRing])
@[simp] theorem val_ofPair (x : Fin 32) : (ofPair x).val = 2 * x.val := Nat.mod_eq_of_lt (by omega)
@[simp] theorem toPair_ofPair (x : Fin 32) : toPair (ofPair x) = x := Fin.ext (by simp [toPair])
@[simp] theorem toRamp_ofRamp (r : Ramp) : toRamp (ofRamp r) = r := by cases r <;> rfl
/-- A bounded number fits a wider field. -/
theorem val_mod_of_le {n m : Nat} (h : n ≤ m) (k : Fin n) : k.val % m = k.val := Nat.mod_eq_of_lt (by omega)
/-- Two numbers that share an imm8: the upper one. -/
theorem imm8_high (n : Fin 64) (t : Fin 4) : Fin.ofNat 4 ((BitVec.ofNat 8 (n.val + 64 * t.val)).toNat / 64) = t :=
  Fin.ext (by rw [Fin.val_ofNat, BitVec.toNat_ofNat]; omega)
/-- Two numbers that share an imm8: the lower one. -/
theorem imm8_low (n : Fin 64) (t : Fin 4) : Fin.ofNat 64 (BitVec.ofNat 8 (n.val + 64 * t.val)).toNat = n :=
  Fin.ext (by rw [Fin.val_ofNat, BitVec.toNat_ofNat]; omega)

end Sys2Proof.Machine
end

section
/-! SUPPORT. Encoded instructions decode, table by table and format by format (R48 to R59). -/

namespace Sys2Proof.Machine

/-! ### From a syllable to the table of its slot (R48, R58) -/

theorem decodeSyl_S {w : Half} (lit : Option (BitVec 24)) (h : major w ≠ 0) : decodeSyl 0 w lit = decodeS w lit :=
  if_neg (by rintro rfl; exact h rfl)
theorem decodeSyl_V {w : Half} (lit : Option (BitVec 24)) (h : major w ≠ 0) : decodeSyl 1 w lit = decodeV w lit :=
  if_neg (by rintro rfl; exact h rfl)
theorem decodeSyl_M {w : Half} (lit : Option (BitVec 24)) (h : major w ≠ 0) : decodeSyl 2 w lit = decodeM w :=
  if_neg (by rintro rfl; exact h rfl)
theorem decodeSyl_C {w : Half} (lit : Option (BitVec 24)) (h : major w ≠ 0) : decodeSyl 3 w lit = decodeC w :=
  if_neg (by rintro rfl; exact h rfl)
/-- An entry of the table whose condition on its fields holds answers its instruction. -/
theorem entry_if {p : Prop} [Decidable p] {i j : Instr} (hp : p) (h : i = j) : (if p then some i else none) = some j := by
  rw [if_pos hp, h]

/-- The words of an instruction decode to it: by its slot, its format, and what its entry of the table asks of its fields. -/
theorem decode_encode (i : Instr) (w : Words) (hwf : i.wf = true) (h : encode i = some w) : decodeSyl w.pos w.syl w.lit = some i := by
  cases i with
  | nop =>
    cases h
    rfl
  -- The S slot.
  | add | sub | mul | mulh | mulhu | div | divu | rem | remu | and | or | xor | andn | shl | shr | sra | min | max | minu | maxu
    | sel | clz | popc | cmpeq | cmpne | cmplt | cmpltu | cmple | cmpleu | pand | por | pxor | pandn | pnot | jmp | jmpl =>
    cases h
    rw [decodeSyl_S _ (by simp), decodeS.eq_def, major_rrr]
    exact entry_if (by simp) (by simp)
  | lea =>
    cases h
    rw [decodeSyl_S _ (by simp), decodeS.eq_def, major_rrr]
    exact congrArg some (by simp)
  -- What the entry asks is that the instruction is well-formed (R330); so too below, wherever hwf is used.
  | tlbi =>
    cases h
    rw [decodeSyl_S _ (by simp), decodeS.eq_def, major_rrr]
    exact entry_if (by simpa [Instr.wf] using hwf) (by simp)
  | addi | andi | ori | xori | ldb | ldbz | ldw | ldwz | ldd | stb | stw | std =>
    cases h
    rw [decodeSyl_S _ (by simp), decodeS.eq_def, major_rri]
    exact congrArg some (by simp)
  | shli | shri | srai | cmpeqi | cmplti | pbit =>
    cases h
    rw [decodeSyl_S _ (by simp), decodeS.eq_def, major_rri]
    exact entry_if (by simp [val_mod_of_le]) (by simp [val_mod_of_le])
  | loop | rdsr | wrsr =>
    cases h
    rw [decodeSyl_S _ (by simp), decodeS.eq_def, major_rri]
    exact entry_if (by simpa [Instr.wf] using hwf) (by simp)
  | li | lih =>
    cases h
    rw [decodeSyl_S _ (by simp), decodeS.eq_def, major_ri]
    exact congrArg some (by simp)
  | region | regionc | yield | calsync | sret =>
    cases h
    rw [decodeSyl_S _ (by simp), decodeS.eq_def, major_ri]
    exact entry_if (by simp) (by simp)
  | endTask _ imm | trap _ imm =>
    cases h
    rw [decodeSyl_S _ (by simp), decodeS.eq_def, major_ri]
    exact entry_if (by simp [Nat.mod_lt_of_lt imm.isLt]) (by simp)
  | br | brl | cloop =>
    cases h
    rw [decodeSyl_S _ (by simp), decodeS.eq_def, major_brf]
    exact congrArg some (by simp)
  -- The V slot.
  | vldRaw | vldI32 | vldF32 | vldBf16 | vldFp8e4 | vldFp8e5 | vldFp4 | vldInt8 | vldRns | vst =>
    cases h
    rw [decodeSyl_V _ (by simp), decodeV, major_rri]
    exact congrArg some (by simp)
  | vbcst | vsplat | vbcastl =>
    cases h
    rw [decodeSyl_V _ (by simp), decodeV, major_rri]
    exact entry_if (by simp [val_mod_of_le]) (by simp [val_mod_of_le])
  | vretag =>
    cases h
    rw [decodeSyl_V _ (by simp), decodeV, major_rri]
    exact entry_if (by simpa [Instr.wf, val_mod_of_le] using hwf) (by simp [val_mod_of_le])
  | vmovs =>
    cases h
    rw [decodeSyl_V _ (by simp), decodeV, major_rri]
    exact congrArg some (by rw [fI8_rri, imm8_high, imm8_low]; simp)
  | vlds | vcvtFp4F32Rne | vcvtFp4F32Sr =>
    cases h
    rw [decodeSyl_V _ (by simp), decodeV, major_rrr]
    exact congrArg some (by simp)
  | vmovv | vnegrI32 | vrnsNeg | vrnsMulc | vaddF32 | vsubF32 | vmulF32 | vfmaF32 | vfmsF32 | vminF32 | vmaxF32 | vabsF32 | vnegF32
    | vaddBf16 | vmulBf16 | vfmaBf16 | vaddI32 | vsubI32 | vmulI32 | vmulhI32 | vand | vor | vandn | vshlI32 | vshrI32 | vsraI32
    | vminI32 | vmaxI32 | vsel | vmov | vcmpeqF32 | vcmpltF32 | vcmpleF32 | vcmpunF32 | vcmpeqI32 | vcmpltI32 | vcmpltuI32
    | vcvtBf16F32Rne | vcvtBf16F32Sr | vcvtI32F32Rne | vcvtI32F32Rtz | vcvtF32I32 | vcvtI32Rns | vqmxFp4 | vrsqaF32 | vrcpaF32
    | vexp2aF32 | vlog2aF32 | vsqrtF32 | vdivF32 | vredaddF32 | vredmaxF32 | vredaddI32 | vperm | verase | vtagq =>
    cases h
    rw [decodeSyl_V _ (by simp), decodeV, major_rrr]
    exact entry_if (by simp) (by simp)
  | vspill | vfill | vxor | vcopy | vaddrI32 | vsubrI32 | vrotl | vswap | vpermr | vrnsAdd | vrnsSub | vcvtRnsI32 =>
    cases h
    rw [decodeSyl_V _ (by simp), decodeV, major_rrr]
    exact entry_if (by simpa [Instr.wf] using hwf) (by simp)
  | vcswap =>
    cases h
    rw [decodeSyl_V _ (by simp), decodeV, major_rrr]
    exact entry_if (by simpa [Instr.wf, and_assoc] using hwf) (by simp)
  | vcvtF32Bf16 | vcvtFp8e4F32Rne | vcvtFp8e4F32Sat | vcvtFp8e4F32Sr | vcvtFp8e4F32Srsat | vcvtFp8e5F32Rne | vcvtFp8e5F32Sat
    | vcvtFp8e5F32Sr | vcvtFp8e5F32Srsat | vcvtF32Fp8e4 | vcvtF32Fp8e5 | vcvtF32Fp4 | vcvtInt8I32Sat | vqmxFp8e4 =>
    cases h
    rw [decodeSyl_V _ (by simp), decodeV, major_rrr]
    exact entry_if (by simp [val_mod_of_le, Fin.is_le]) (by simp [val_mod_of_le])
  -- The M slot.
  | wldBf16 | wldFp8e4 | wldFp8e5 | wldFp4 | wldInt8 | wldt | wclr | mmaBf16 | mmaFp8e4 | mmaFp8e5 | mmaFp4 | mmaI8r | mmsI8r | aclr
    | afillF32 | afillRns | astat | drainF32 | drainBf16 | drainAdd | drainAddc | drainRns | drainI32 =>
    cases h
    rw [decodeSyl_M _ (by simp), decodeM, major_mx]
    exact entry_if (by simp) (by simp)
  -- The C slot.
  | cpyIn | cpyInx | cpyOut | cpyPeer | cpyMc | cpyT | cpyFab | cpyRin | cpyHost | twany | twall | tfirst | tclr | tlook | tins
    | tdel | lstW | lstD | lstv | gstat | rel | acq | acqs | phase | synAdd | synCas | synMin | synMax | synXch | synLd | synPost
    | synWait | synBar | fork | grwd | gbar | gcancel | gquit | publish | launch | cancel =>
    cases h
    rw [decodeSyl_C _ (by simp), decodeC, major_rrr]
    exact entry_if (by simp) (by simp)
  | tstat | rwait | rfree | radvc =>
    cases h
    rw [decodeSyl_C _ (by simp), decodeC, major_rri]
    exact entry_if (by simp [val_mod_of_le]) (by simp [val_mod_of_le])
  | radvp =>
    cases h
    rw [decodeSyl_C _ (by simp), decodeC, major_rri]
    exact entry_if (by simp) (by rw [fI8_rri, imm8_high, imm8_low]; simp)
  | qfence _ m =>
    cases h
    rw [decodeSyl_C _ (by simp), decodeC, major_ri]
    exact entry_if (by simp [Nat.mod_lt_of_lt m.isLt]) (by simp [Nat.mod_eq_of_lt (m.isLt.trans (by decide : 2 ^ 4 < 16384))])
  -- RSET and its unconfiguring form share a major, and their imm8 tells them apart.
  | rset =>
    cases h
    rw [decodeSyl_C _ (by simp), decodeC, major_rri]
    exact (if_pos (by simp)).trans (congrArg some (by simp))
  | rsetUnconfigure =>
    cases h
    rw [decodeSyl_C _ (by simp), decodeC, major_rri]
    exact (if_neg (by simp)).trans (entry_if (by simp) (by simp))
  -- A step of the device has no words.
  | resultLanding | matrixRowLanding | icacheFill | crossingDelivery | regionCommit | effectCommandSend | sequencerNumbering
    | weirOperation | logCompaction | logTimeout | publishCounterWrite | copyStart | atomService | readAtomWrite | copyCompletion
    | cpyInxLanding | spillFillCompletion | peerCopyTransfer | drainAddApply | eccWriteback | refreshSlot | selfRefreshEntry
    | selfRefreshExit | trapSequence | shootdownComplete | taskRetirement | completionFinalWrite | inletSlotWrite | inletTailWrite
    | inletCancelWrite | fabricLaunchPacket | fabricCancelPacket | dispatchDecision | waitWordRead | levelAgeing | reservationStart
    | cancelDelivery | taskStop | groupEngineCommand | forkAccept | groupDeadline | groupBarrierComplete | groupStatusMirror
    | preemptRequest | preemptTake | contextSave | pitchWriteOut | resumption | wearInterval | coreStateChange | lifetimeCheckpoint
    | periodStretch | claim | claimWindowClose | handover | thaw | preempt | fwupd | fwCheckDone | fwcommit | attest | attestDone
    | mgmtRegisterWrite | accessControlWrite | linkReset | hostMemAccess | peerFabWrite | bringUp | linkTraining | malformedBundle
    | powerOff =>
    exact absurd h nofun

end Sys2Proof.Machine
end

section
/-! SUPPORT. Forms of the C slot at issue: the alignment of peer addresses (R225), and effect commands that claim a tag (R222, R243). -/

namespace Sys2Proof.Machine

/-- The scratchpad part of an address is aligned as the address is. -/
theorem scrMis_low22 (x : Word) : scrMis (low22 x) = (x.toNat % 256 != 0) := by
  rw [scrMis, low22, BitVec.toNat_and, show (0x3FFFFF : Word).toNat = 2 ^ 22 - 1 from rfl, Nat.and_two_pow_sub_one_eq_mod,
    Nat.mod_mod_of_dvd _ (by decide : 256 ∣ 2 ^ 22)]
/-- The word of an effect instruction, its fields from the highest down (R49, R57). -/
theorem EffKind.syll_eq (k : EffKind) (t : TagId) (a : SReg) (b : SPair) (g : PReg) : k.syll t a b g =
    BitVec.ofNat 32 (k.major * 2 ^ 25 + t.val * 2 ^ 19 + a.val * 2 ^ 13 + 2 * b.val * 2 ^ 7 + g.val) := by
  rw [EffKind.syll, Nat.mul_comm k.major, Nat.mul_comm t.val, Nat.mul_comm a.val, Nat.mul_comm (2 * b.val)]
/-- An effect command that claims a tag: its checks, then the claim and the command that stays with the region (R222, R243). -/
theorem State.effectForm_tag {s : State} {j : Instr} {g : PReg} {t : TagId} {k : EffKind} {m : Nat} {a : SReg} {b : SPair}
    {faults : List (Bool × Cause)} {F : Core → List (Bool × Cause)} {acq : Bool} {image : Line} {I : Core → Line}
    (hx : exec j s = s.tagEffect g t k a b F acq I) (hm : k.major = m) (hf : F s.core = faults) (hi : I s.core = image) :
    s.effectForm j g faults fun c =>
      let e : EffCmd := ⟨BitVec.ofNat 32 (m * 2 ^ 25 + t.val * 2 ^ 19 + a.val * 2 ^ 13 + 2 * b.val * 2 ^ 7 + g.val),
        k, some t, c.s a, s.core.s (Fin.ofNat 64 (2 * b.val)), s.core.s (Fin.ofNat 64 (2 * b.val + 1)), image⟩
      let c1 := (c.claim t).onRegion fun r => { r with effect := some e }
      if acq then c1.onRun fun r => { r with acqs := r.acqs ++ [t.val] } else c1 := by
  subst hm hf hi
  refine State.effectForm_of hx rfl ?_
  rw [EffKind.syll_eq]
  rfl

end Sys2Proof.Machine
end

section
/-! PROOFS. Encodings, copies and synchronising commands (R48 to R58, R222, R223, R225, R243 to R248). -/

namespace Sys2Proof.Machine

/-- Settles O55: each syllable holds its operands in the fields from which the table of its slot reads them. -/
theorem encodeDecode : Obligations.EncodeDecode := by
  unfold Obligations.EncodeDecode
  exact decode_encode
/-- Settles O30: eight forms are their checks and the command; CPY.RIN makes its checks one after another on the ring it names. -/
theorem copyForms : Obligations.CopyForms := by
  unfold Obligations.CopyForms
  intro s g t a b q hg c x y z pending out mis none' cmd joins form peer h
  have low (v : Word) : mis v = scrMis (low22 v) := (scrMis_low22 v).symm
  refine ⟨State.checkedBy_of (State.syl_true hg) rfl rfl, State.checkedBy_of (State.syl_true hg) rfl rfl,
    State.checkedBy_of (State.syl_true hg) rfl rfl, ?peer, ?mc, State.checkedBy_of (State.syl_true hg) rfl rfl,
    State.checkedBy_of (State.syl_true hg) rfl rfl, State.checkedBy_of (State.syl_true hg) rfl rfl, fun hi => ?_,
    fun hz hy hn => ?_⟩
  case peer =>
    rw [low]
    exact State.checkedBy_of (State.syl_true hg) rfl rfl
  case mc =>
    rw [low, low]
    exact State.checkedBy_of (State.syl_true hg) rfl rfl
  · refine State.syl_eq hg (Core.checked_head ?_)
    change (none' z 32 32 || !y.getLsbD 63 || none' y 4 59) = true
    simpa [or_assoc] using hi
  · have fits : (none' z 32 32 || !y.getLsbD 63 || none' y 4 59) = false := by rw [hz, hy, hn]; rfl
    refine ⟨fun hr => State.syl_eq hg ((Core.checked_tail fits).trans (Core.checked_head (Option.isNone_iff_eq_none.2 hr))),
      fun r hr => ?_⟩
    have held : c.ctx.h[h].isNone = false := by rw [hr]; rfl
    have ring : c.ring h = r := by rw [Core.ring, hr]; rfl
    refine ⟨fun hb => State.syl_eq hg ((Core.checked_tail fits).trans ((Core.checked_tail held).trans (Core.checked_head ?_))),
      fun hf hp => State.syl_eq hg
        ((Core.checked_tail fits).trans ((Core.checked_tail held).trans ((Core.checked_tail ?_).trans ?_)))⟩
    · change ((c.ring h).free == 0 || pending) = true
      rw [ring]
      simpa using hb
    · change ((c.ring h).free == 0 || pending) = false
      rw [ring, hp]
      simpa using hf
    · subst ring
      rfl
/-- Settles O35: each form is an effect command that claims its tag, with the checks of its result word. -/
theorem syncForms : Obligations.SyncForms := by
  unfold Obligations.SyncForms
  intro s g t a b c x y z pending high kept form
  have plain : c.resultChecks t b (high x || false) = c.resultChecks t b (high x) := by rw [Bool.or_false]
  exact ⟨State.effectForm_tag rfl rfl rfl rfl, State.effectForm_tag rfl rfl rfl rfl, State.effectForm_tag rfl rfl rfl rfl,
    State.effectForm_tag rfl rfl rfl rfl, State.effectForm_tag rfl rfl plain rfl, State.effectForm_tag rfl rfl plain rfl,
    State.effectForm_tag rfl rfl plain rfl, State.effectForm_tag rfl rfl plain rfl, State.effectForm_tag rfl rfl plain rfl,
    State.effectForm_tag rfl rfl plain rfl, State.effectForm_tag rfl rfl rfl rfl, State.effectForm_tag rfl rfl rfl rfl,
    State.effectForm_tag rfl rfl rfl rfl, State.effectForm_tag rfl rfl rfl rfl⟩

end Sys2Proof.Machine
end

section
/-! SUPPORT. How the dissipative and the in-place reversible V forms end (R33, R123 to R126, R135). -/

namespace Sys2Proof.Machine

/-- A change made after checks that raised no fault stands behind those checks. -/
theorem Core.checked_then {c : Core} {pos : Fin 4} {l : List (Bool × Cause)} {f : Core → Core} (h : Core → Core)
    (hf : (f c).run.trap = none) :
    (if (c.checked pos l f).run.trap.isSome then c.checked pos l f else h (c.checked pos l f)) = c.checked pos l fun c => h (f c) := by
  unfold Core.checked
  split
  · exact if_pos rfl
  · exact if_neg (by simp [hf])

/-- Without a lane a dissipative write does nothing (R33). -/
theorem Core.dissip_zero (c : Core) (lat : Nat) (elems : Line) (d : VReg) (rt : Tag) (pois bad : Bool) (faults : List (Bool × Cause))
    (extra : Nat) (bits : Line) : c.dissip lat 0 elems d rt pois bad faults extra bits = c := if_pos rfl

/-- With a lane a dissipative write is its checks and one result in flight (R33, R123, R124). -/
theorem Core.dissip_checked (c : Core) (lat : Nat) {gm : Word} (elems : Line) (d : VReg) (rt : Tag) (pois bad : Bool)
    (faults : List (Bool × Cause)) (extra : Nat) (bits : Line) (hg : gm ≠ 0) :
    let old := (c.vr d).tag
    let mask := if old = .clean then laneMask gm else laneMask gm &&& elems
    let tag := writeTag old rt (mask == allBits) pois
    c.dissip lat gm elems d rt pois bad faults extra bits = c.checked 1 ((bad || tag.isNone, .format) :: faults) fun c =>
      (c.meter (dissipFj (popcount gm) old + extra)).fly lat 1 (.vec ⟨c.physV d, mask, bits &&& elems, tag, false, none, false, old⟩) := by
  rw [Core.dissip, if_neg hg]
  simp only [beq_iff_eq]
  rfl

/-- A meaning that is a dissipative write ends as its guard, its tags and its checks say. -/
theorem State.vecChecked_of {s : State} {j : Instr} {lat : Nat} {gm : Word} {elems : Line} {d : VReg} {rt : Tag} {pois bad : Bool}
    {faults : List (Bool × Cause)} {extra : Nat} {bits : Line} {F : Core → Core} (h : exec j s = .next (s.onCur F))
    (hF : F s.core = s.core.dissip lat gm elems d rt pois bad faults extra bits) :
    s.vecChecked j lat gm elems d rt pois bad faults extra bits := by
  refine ⟨fun hg => ?_, fun hg => State.checkedBy_of h (hF.trans (Core.dissip_checked _ _ _ _ _ _ _ _ _ _ hg)) rfl⟩
  subst hg
  rw [h, State.onCur_id (hF.trans (Core.dissip_zero ..))]

/-- A change made after a dissipative write that raised no fault stands with the write behind its checks. -/
theorem State.checkedBy_dissip_then {s : State} {j : Instr} {lat : Nat} {gm : Word} {elems : Line} {d : VReg} {rt : Tag} {pois bad : Bool}
    {faults : List (Bool × Cause)} {extra : Nat} {bits : Line} {F : Core → Core} (after : Core → Core) (ht : s.core.run.trap = none)
    (hg : gm ≠ 0) (h : exec j s = .next (s.onCur F)) (hF : let x := s.core.dissip lat gm elems d rt pois bad faults extra bits
      F s.core = if x.run.trap.isSome then x else after x) :
    let old := (s.core.vr d).tag
    let mask := if old = .clean then laneMask gm else laneMask gm &&& elems
    let tag := writeTag old rt (mask == allBits) pois
    s.checkedBy j 1 ((bad || tag.isNone, .format) :: faults) fun c => after ((c.meter (dissipFj (popcount gm) old + extra)).fly lat 1
      (.vec ⟨c.physV d, mask, bits &&& elems, tag, false, none, false, old⟩)) := by
  dsimp only at hF
  rw [Core.dissip_checked _ _ _ _ _ _ _ _ _ _ hg] at hF
  exact State.checkedBy_of h (hF.trans (Core.checked_then after ht)) rfl

/-- A meaning that is an in-place reversible step ends as its guard and its checks say. -/
theorem State.revLands_of {s : State} {j : Instr} {r : Ramp} {g : PReg} {d : VReg} {t : Tag} {pois : Bool}
    {faults : List (Bool × Cause)} {bits : Line} {F : Core → Core} (h : exec j s = .next (s.onCur F))
    (hF : F s.core = s.core.inPlace r g d t pois faults bits) : s.revLands j r (s.core.pr g) d t pois faults bits := by
  unfold Core.inPlace at hF
  refine ⟨fun hg => ?_, fun hg => ?_⟩
  · rw [if_pos hg] at hF
    rw [h, State.onCur_id hF]
  · rw [if_neg hg] at hF
    exact State.checkedBy_of h hF rfl

/-- The executed lanes that hold no canonical container (R32, R74). -/
theorem not_rnsLanesOk (gm : Word) (v : VecR) :
    (!rnsLanesOk gm v) = (v.tag != .poison && (execLanes gm).any fun i => !rnsCanon (lane v.bits i)) := by
  rw [rnsLanesOk, Bool.not_or, List.not_all_eq_any_not]
  rfl

/-- Bytes that lie outside the granted pitches (R114). -/
theorem Core.not_inBounds (c : Core) (a n : Nat) : (!c.inBounds a n) = (decide (0x400000 ≤ a) || decide (c.granted < a + n)) := by
  simp only [Core.inBounds, Bool.not_and, ← decide_not, Nat.not_lt, Nat.not_le]

/-- A guard that enables no lane executes none. -/
theorem execLanes_zero : execLanes 0 = [] := by decide

end Sys2Proof.Machine
end

section
/-! PROOFS. In-place reversible forms, vector loads, stochastic conversions and VQMX (R74, R77, R81, R83, R127, R129, R130, R135, R136,
R138, R144 to R146). -/

namespace Sys2Proof.Machine

/-- Settles O20: each form is one in-place step, that of VRNS.MULC behind the check of its constant. -/
theorem reversibleForms : Obligations.ReversibleForms := by
  unfold Obligations.ReversibleForms
  intro s g d a b r c gm x y p2 no lanes stray index k i32 rns
  have rns_of {j : Instr} {f : Half → Half → Half} (h : exec j s = .next (s.onCur (·.revRns r g d a f))) : rns j f := by
    refine State.revLands_of h ?_
    rw [Core.revRns, not_rnsLanesOk, not_rnsLanesOk]
    rfl
  refine ⟨State.revLands_of rfl ?_, State.revLands_of rfl rfl, State.revLands_of rfl rfl, State.revLands_of rfl ?_,
    State.revLands_of rfl rfl, State.revLands_of rfl rfl, rns_of rfl, rns_of rfl, State.revLands_of rfl ?_, fun hm => ?_, fun hm => ?_⟩
  · simp only [tagsEqual, beq_iff_eq, Bool.or_assoc, p2, x, y, c]
  · simp only [Core.revI32, Bool.or_self]
    rfl
  · simp only [Core.revRns, Bool.or_assoc, Bool.or_self, not_rnsLanesOk]
    rfl
  · exact congrArg Host.Outcome.next (State.onCur_congr (Core.checked_head (congrArg _ hm)))
  · refine State.revLands_of rfl ((Core.checked_tail (congrArg _ hm)).trans ?_)
    rw [Core.checked_nil, not_rnsLanesOk]
    rfl

/-- Settles O22: every load is one dissipative write whose checks are those of the addresses of the executed lanes. -/
theorem vectorLoads : Obligations.VectorLoads := by
  unfold Obligations.VectorLoads
  intro s g d a b i t c gm at_ outside odd lines reads e unit strided e0 w
  have gathers {j : Instr} {tag : Tag} {f : Nat → Nat} {v : Line} {F : Core → Core} (h : exec j s = .next (s.onCur F))
      (hF : F c = c.gather g d tag f fun _ => v) : reads j tag (at_ f) false v := by
    refine State.vecChecked_of h (hF.trans ?_)
    simp only [Core.gather, Core.not_inBounds]
    rfl
  have loads {j : Instr} {tag : Tag} (h : exec j s = .next (s.onCur (·.vld g d a i tag))) : unit j tag := gathers h rfl
  refine ⟨loads rfl, loads rfl, loads rfl, loads rfl, loads rfl, loads rfl, loads rfl, loads rfl, loads rfl, gathers rfl rfl,
    State.vecChecked_of rfl ?_⟩
  have one_outside : outside [e0] = !c.inBounds e0 4 := by rw [Core.not_inBounds]; exact Bool.or_false _
  have one_odd : odd [e0] = (e0 % 4 != 0) := Bool.or_false _
  have one_line : lines [e0] = 1 := rfl
  rw [one_outside, one_odd, one_line, List.any_cons, List.any_nil, Bool.or_false, Nat.mul_one]

/-- Settles O18: for no lane nothing is written or drawn; with a lane the write and the draws stand behind the one check of the tags. -/
theorem stochasticConversions : Obligations.StochasticConversions := by
  unfold Obligations.StochasticConversions
  intro s g d a b x2 x4 ht c gm x y old pois no ds form
  have ends {j : Instr} {w k : Nat} {rt : Tag} {f : FltFmt} {sat : Bool}
      (h : exec j s = .next (s.onCur (·.narrowSr g d a b w k rt (srBits f sat)))) : form j w k rt f sat := by
    have checks (hg : gm ≠ 0) := State.checkedBy_dissip_then (·.onSpr fun v => { v with srs := ds.1 }) ht hg h rfl
    refine ⟨fun hg => ?_, fun hg hbad => (checks hg).1 0 .format (congrArg some (Prod.ext ?_ rfl)) (by omega),
      fun hg hno htag => (checks hg).2 fun z hz => ?_⟩
    · rw [h]
      refine congrArg _ (State.onCur_id ?_)
      unfold Core.narrowSr
      dsimp only
      rw [show s.core.pr g = 0 from hg, execLanes_zero, Core.dissip_zero, ht]
      rfl
    · exact Bool.or_eq_true_iff.2 (hbad.imp_right Option.isNone_iff_eq_none.2)
    · rw [List.mem_singleton.1 hz]
      exact Bool.or_eq_false_iff.2 ⟨hno, Option.isNone_eq_false_iff.2 (Option.isSome_iff_ne_none.2 htag)⟩
  exact ⟨ends rfl, ends rfl, ends rfl, ends rfl, ends rfl, ends rfl⟩

/-- Settles O19: for no lane nothing is written; with a lane the write and the scales stand behind the checks of the tags. -/
theorem blockQuantisation : Obligations.BlockQuantisation := by
  unfold Obligations.BlockQuantisation
  intro s g d a b x2 x4 ht c p q old no vals form
  have ends {j : Instr} {x : Nat} {f : FltFmt} {emax : Int} {rt : Tag}
      (h : exec j s = .next (s.onCur (·.vqmx g d a b x f emax rt))) : form j x f emax rt := by
    refine ⟨fun hg => ?_, fun hg => State.checkedBy_dissip_then (extra := 0) (·.flyS 3 1 b _) ht hg h ?_⟩
    · rw [h]
      refine congrArg _ (State.onCur_id ?_)
      exact (if_pos (Bool.or_eq_true_iff.2 (.inl (decide_eq_true hg)))).trans (if_pos hg)
    · have some_lane : decide (s.core.pr g &&& BitVec.ofNat 64 ((2 ^ (4 * f.width) - 1) * 2 ^ (4 * f.width * x)) = 0) = false :=
        decide_eq_false hg
      dsimp only [Core.vqmx]
      rw [some_lane]
      rfl
  exact ⟨ends rfl, ends rfl⟩

end Sys2Proof.Machine
end

section
/-! SUPPORT. The address hash, bit by bit (R187). -/

namespace Sys2Proof.Machine

/-- Distinct powers of two summed where a condition holds: bit k is the condition at k. -/
theorem testBit_foldl_twoPow (p : Nat → Bool) : ∀ n : Nat,
    (List.range n).foldl (fun h k => if p k then h + 2 ^ k else h) 0 < 2 ^ n ∧
      ∀ k, ((List.range n).foldl (fun h k => if p k then h + 2 ^ k else h) 0).testBit k = (decide (k < n) && p k)
  | 0 => ⟨Nat.one_pos, fun k => Nat.zero_testBit k⟩
  | n + 1 => by
    obtain ⟨lt, bits⟩ := testBit_foldl_twoPow p n
    rw [List.range_succ, List.foldl_append, List.foldl_cons, List.foldl_nil]
    generalize (List.range n).foldl (fun h k => if p k then h + 2 ^ k else h) 0 = h at lt bits ⊢
    have next : (if p n then h + 2 ^ n else h) = 2 ^ n * (p n).toNat + h := by
      cases p n <;> simp [Nat.add_comm]
    rw [next]
    refine ⟨?_, fun k => ?_⟩
    · have : 2 ^ n * (p n).toNat ≤ 2 ^ n * 1 := Nat.mul_le_mul_left _ (p n).toNat_le
      omega
    · rw [Nat.testBit_two_pow_mul_add _ lt, bits, Nat.testBit_bool_toNat]
      rcases Nat.lt_trichotomy k n with hk | rfl | hk
      · simp [hk, Nat.lt_succ_of_lt hk]
      · simp
      · simp [Nat.not_lt.2 hk.le, Nat.not_lt.2 (Nat.succ_le_of_lt hk), Nat.sub_eq_zero_iff_le, Nat.not_le.2 hk]

/-- The bit that a pattern adds to bit k of a pseudo-channel (R187). -/
def hashBit (pat : Word) (off k : Nat) : Bool :=
  (pat.extractLsb' (8 * k) 8).toNat != 0 && off.testBit (pat.extractLsb' (8 * k) 8).toNat

/-- Each bit of a pseudo-channel is an offset bit, with the bit that the pattern's byte selects. -/
theorem testBit_hashChan (pat : Word) (off k : Nat) :
    (hashChan pat off).testBit k = (decide (k < 8) && (off.testBit (5 + k)).xor (hashBit pat off k)) := by
  have sel : (fun h k => if (pteField pat (8 * k) 8 != 0 && off / 2 ^ pteField pat (8 * k) 8 % 2 == 1) = true then h + 2 ^ k else h) =
      fun (h k : Nat) => if hashBit pat off k then h + 2 ^ k else h := by
    funext h k
    rw [hashBit, Nat.testBit_eq_decide_div_mod_eq]
    rfl
  unfold hashChan
  dsimp only
  rw [sel]
  change (_ ^^^ _ : Nat).testBit k = _
  rw [Nat.testBit_xor, (testBit_foldl_twoPow (hashBit pat off) 8).2, show (256 : Nat) = 2 ^ 8 from rfl, Nat.testBit_mod_two_pow,
    show (32 : Nat) = 2 ^ 5 from rfl, Nat.testBit_div_two_pow, Nat.add_comm k 5]
  cases decide (k < 8) <;> rfl

/-- A stack has 256 pseudo-channels. -/
theorem hashChan_lt (pat : Word) (off : Nat) : hashChan pat off < 256 :=
  Nat.lt_pow_two_of_testBit (n := 8) _ fun k hk => by rw [testBit_hashChan, decide_eq_false (Nat.not_lt.2 hk), Bool.false_and]

/-- A pattern that R187 allows selects bits above those of an 8 KiB block alone. -/
theorem hashBit_eq_of_block {pat : Word} {off off' : Nat} (hp : hpatBad pat = false) (h : off / 2 ^ 13 = off' / 2 ^ 13) {k : Nat}
    (hk : k < 8) : hashBit pat off k = hashBit pat off' k := by
  have allowed : (pat.extractLsb' (8 * k) 8).toNat = 0 ∨ 13 ≤ (pat.extractLsb' (8 * k) 8).toNat := by
    have := (List.any_eq_false.1 hp) k (List.mem_range.2 hk)
    simp only [Bool.not_eq_true, Bool.not_eq_false', Bool.or_eq_true, beq_iff_eq, Bool.and_eq_true, decide_eq_true_eq] at this
    exact this.imp_right And.left
  unfold hashBit
  generalize (pat.extractLsb' (8 * k) 8).toNat = sel at allowed ⊢
  rcases allowed with rfl | high
  · rfl
  · obtain ⟨m, rfl⟩ := Nat.exists_eq_add_of_le high
    rw [Nat.add_comm 13 m, ← Nat.testBit_div_two_pow, ← Nat.testBit_div_two_pow, h]

/-- Within an 8 KiB block the hash maps the atoms of 32 bytes one-to-one (R187). -/
theorem hashChan_injOn_block {pat : Word} {off off' : Nat} (hp : hpatBad pat = false) (h : off / 2 ^ 13 = off' / 2 ^ 13)
    (e : hashChan pat off = hashChan pat off') : off / 32 = off' / 32 := by
  have low : off / 32 % 256 = off' / 32 % 256 := by
    rw [show (256 : Nat) = 2 ^ 8 from rfl, show (32 : Nat) = 2 ^ 5 from rfl]
    refine Nat.eq_of_testBit_eq fun k => ?_
    rw [Nat.testBit_mod_two_pow, Nat.testBit_mod_two_pow, Nat.testBit_div_two_pow, Nat.testBit_div_two_pow]
    by_cases hk : k < 8
    · have := congrArg (Nat.testBit · k) e
      simp only [testBit_hashChan, hashBit_eq_of_block hp h hk, Bool.bne_left_inj, hk, decide_true, Bool.true_and,
        Nat.add_comm 5 k] at this ⊢
      simpa using this
    · rw [decide_eq_false hk, Bool.false_and, Bool.false_and]
  omega

/-- The channel of a stack's byte is the hash of its offset among the stack's 256. -/
theorem val_chanOf {pat : Word} {stack off : Nat} (hs : stack < 12) (ho : off < 2 ^ 36) :
    (chanOf pat (stack * 2 ^ 36 + off)).val = stack * 256 + hashChan pat off := by
  have hd : (stack * 2 ^ 36 + off) / 2 ^ 36 = stack := by omega
  have hm : (stack * 2 ^ 36 + off) % 2 ^ 36 = off := by omega
  have := hashChan_lt pat off
  change (_ : Nat) % 3072 = _
  rw [hd, hm, Nat.mod_eq_of_lt (by omega)]

end Sys2Proof.Machine
end

section
/-! SUPPORT. Bytes gathered into atoms (R189, R202). -/

namespace Sys2Proof.Machine

/-- Atoms give back the bytes they were gathered from, in their order. -/
theorem flatMap_gatherAtoms (l : List (Nat × Nat)) : (gatherAtoms l).flatMap (fun a => a.2.map fun p => (32 * a.1 + p.1, p.2)) = l := by
  induction l with
  | nil => rfl
  | cons q r ih =>
    obtain ⟨f, x⟩ := q
    unfold gatherAtoms
    have hf : 32 * (f / 32) + f % 32 = f := Nat.div_add_mod f 32
    split
    next h =>
      rw [h] at ih
      simp [hf, ← ih]
    next a l t h =>
      rw [h] at ih
      split
      next ha =>
        subst ha
        simp [hf, ← ih]
      next => simp [hf, ← ih]

/-- An atom moves at least one byte, and none beyond its 32. -/
theorem gatherAtoms_bytes (l : List (Nat × Nat)) : ∀ a ∈ gatherAtoms l, a.2 ≠ [] ∧ ∀ p ∈ a.2, p.1 < 32 := by
  induction l with
  | nil => exact fun a h => absurd h List.not_mem_nil
  | cons q r ih =>
    obtain ⟨f, x⟩ := q
    have hf : f % 32 < 32 := Nat.mod_lt f (by decide)
    unfold gatherAtoms
    split
    next => simp [hf]
    next a l t h =>
      rw [h] at ih
      obtain ⟨⟨-, bytes⟩, rest⟩ := List.forall_mem_cons.1 ih
      split
      next => exact List.forall_mem_cons.2 ⟨⟨List.cons_ne_nil _ _, List.forall_mem_cons.2 ⟨hf, bytes⟩⟩, rest⟩
      next => exact List.forall_mem_cons.2 ⟨⟨List.cons_ne_nil _ _, by simp [hf]⟩, ih⟩

end Sys2Proof.Machine
end

section
/-! SUPPORT. Shape records and the bytes of their rows (R183, R184, R226). -/

namespace Sys2Proof.Machine

/-- The faults that a shape record has none of (R183). -/
theorem sound_shapeOf_iff (r : BitVec 512) :
    let h := shapeOf r
    let f (lo n : Nat) : Nat := (r.extractLsb' lo n).toNat
    h.sound = true ↔ f 54 10 = 0 ∧ f 124 4 = 0 ∧ 1 ≤ h.fmt ∧ h.fmt ≤ 9 ∧ f 256 32 = 0 ∧
      0 < h.e0 ∧ 0 < h.e1 ∧ 0 < h.e2 ∧ 0 < h.e3 ∧ h.p0 ≤ h.e0 ∧ h.p1 ≤ h.e1 ∧ h.p2 ≤ h.e2 ∧ h.p3 ≤ h.e3 := by
  intro h f
  have fits : ((List.range 4).all fun i => f (128 + 32 * i) 32 != 0 && decide (f (384 + 32 * i) 32 ≤ f (128 + 32 * i) 32)) = true ↔
      (0 < h.e0 ∧ h.p0 ≤ h.e0) ∧ (0 < h.e1 ∧ h.p1 ≤ h.e1) ∧ (0 < h.e2 ∧ h.p2 ≤ h.e2) ∧ 0 < h.e3 ∧ h.p3 ≤ h.e3 := by
    simp only [List.all_eq_true, List.mem_range, Bool.and_eq_true, bne_iff_ne, decide_eq_true_eq, ← Nat.pos_iff_ne_zero]
    exact ⟨fun k => ⟨k 0 (by decide), k 1 (by decide), k 2 (by decide), k 3 (by decide)⟩, fun ⟨k0, k1, k2, k3⟩ i hi => by
      interval_cases i
      exacts [k0, k1, k2, k3]⟩
  change (f 124 4 == 0 && f 54 10 == 0 && decide (1 ≤ h.fmt) && decide (h.fmt ≤ 9) && f 256 32 == 0 && (List.range 4).all _) = true ↔ _
  rw [Bool.and_eq_true]
  refine (and_congr_right fun _ => fits).trans ?_
  simp only [Bool.and_eq_true, beq_iff_eq, decide_eq_true_eq]
  exact ⟨fun ⟨⟨⟨⟨⟨z, y⟩, lo⟩, hi⟩, w⟩, ⟨a0, b0⟩, ⟨a1, b1⟩, ⟨a2, b2⟩, a3, b3⟩ => ⟨y, z, lo, hi, w, a0, a1, a2, a3, b0, b1, b2, b3⟩,
    fun ⟨y, z, lo, hi, w, a0, a1, a2, a3, b0, b1, b2, b3⟩ => ⟨⟨⟨⟨⟨z, y⟩, lo⟩, hi⟩, w⟩, ⟨a0, b0⟩, ⟨a1, b1⟩, ⟨a2, b2⟩, a3, b3⟩⟩

section
variable {h : Shape} {r : Nat}

/-- A row with present elements has a present first index as well (R184). -/
theorem Shape.present_iff : h.present r = true ↔
    (r % h.e1 < h.p1 ∧ r / h.e1 % h.e2 < h.p2 ∧ r / (h.e1 * h.e2) < h.p3) ∧ 0 < h.p0 := by
  change (decide (r % h.e1 < h.p1) && decide (r / h.e1 % h.e2 < h.p2) && decide (r / (h.e1 * h.e2) < h.p3) && decide (0 < h.p0)) = true ↔ _
  simp [and_assoc]

/-- A row's number from its indexes (R226). -/
theorem index_row (r a b : Nat) : r % a + a * (r / a % b + b * (r / (a * b))) = r := by
  rw [← Nat.div_div_eq_div_mul, Nat.mod_add_div, Nat.mod_add_div]

/-- The bytes of present elements are moved (R184, R226). -/
theorem Shape.mem_pairs_data (origin : Int) (x : Nat) {b : Nat} (hr : r < h.rows) (hp : h.present r = true) (hb : b < h.rowBytes) :
    (wrap64 (origin + h.far r + b), h.scr x (r * h.pitch + b)) ∈ h.pairs origin x :=
  List.mem_append_left _ (List.mem_flatMap.2 ⟨r, List.mem_filter.2 ⟨List.mem_range.2 hr, hp⟩,
    List.mem_map.2 ⟨b, List.mem_range.2 hb, rfl⟩⟩)

/-- The scale bytes of present blocks are moved (R184, R226). -/
theorem Shape.mem_pairs_scale (origin : Int) (x : Nat) {b : Nat} (hs : h.scales ≠ 0) (hr : r < h.rows) (hp : h.present r = true)
    (hb : b < h.presentBlocks) :
    (h.scales + h.blocks * r + b, x + h.rows * h.pitch + h.blocks * r + b) ∈ h.pairs origin x := by
  unfold Shape.pairs
  dsimp only
  rw [if_neg hs]
  exact List.mem_append_right _ (List.mem_flatMap.2 ⟨r, List.mem_filter.2 ⟨List.mem_range.2 hr, hp⟩,
    List.mem_map.2 ⟨b, List.mem_range.2 hb, rfl⟩⟩)

/-- The bytes of a row behind its present elements are filled with zero (R184, R226). -/
theorem Shape.mem_fills_data (x : Nat) {b : Nat} (hr : r < h.rows) (hb : b < h.pitch)
    (hn : (if h.present r then h.rowBytes else 0) ≤ b) : (h.scr x (r * h.pitch + b), (0 : Byte)) ∈ h.fills x := by
  refine List.mem_append_left _ (List.mem_flatMap.2 ⟨r, List.mem_range.2 hr, List.mem_map.2 ⟨b - _, List.mem_range.2
    (Nat.sub_lt_sub_right hn hb), ?_⟩⟩)
  rw [Nat.add_assoc, Nat.add_sub_of_le hn]

/-- The scale bytes behind those of a row's present blocks are filled with -128 (R184, R226). -/
theorem Shape.mem_fills_scale (x : Nat) {b : Nat} (hs : h.scales ≠ 0) (hr : r < h.rows) (hb : b < h.blocks)
    (hn : (if h.present r then h.presentBlocks else 0) ≤ b) :
    (x + h.rows * h.pitch + h.blocks * r + b, (0x80 : Byte)) ∈ h.fills x := by
  unfold Shape.fills
  dsimp only
  rw [if_neg hs]
  refine List.mem_append_right _ (List.mem_flatMap.2 ⟨r, List.mem_range.2 hr, List.mem_map.2 ⟨b - _, List.mem_range.2
    (Nat.sub_lt_sub_right hn hb), ?_⟩⟩)
  rw [Nat.add_assoc _ _ (b - _), Nat.add_sub_of_le hn]
  rfl
end

end Sys2Proof.Machine
end

section
/-! SUPPORT. The padding of an inbound copy (R202, R226). -/

namespace Sys2Proof.Machine

/-- Making a list free of repeats takes no number out of it and puts none in. -/
theorem mem_distinct (l : List Nat) (x : Nat) : x ∈ distinct l ↔ x ∈ l := by
  have go (l m : List Nat) : x ∈ l.foldl setInsert m ↔ x ∈ m ∨ x ∈ l := by
    induction l generalizing m with
    | nil => simp
    | cons y l ih => rw [List.foldl_cons, ih, mem_setInsert_iff, List.mem_cons, or_comm (a := x = y), or_assoc]
  exact (go l []).trans (by simp)

/-- The last of a list of atoms that brings bytes of a unit of 32 scratchpad bytes. -/
def lastOf (l : List Atom) (u : Nat) : Option Nat := ((l.zipIdx.filter fun p => p.1.moves.any (·.2 / 32 == u)).getLast?).map (·.2)

/-- The padding of a unit. -/
def padsOf (fills : List (Nat × Byte)) (u : Nat) : List (Nat × Byte) := fills.filter (·.1 / 32 == u)

/-- The padding of a unit put with the last atom that brings bytes of it. -/
def padUnit (l : List Atom) (fills : List (Nat × Byte)) (r : List Atom) (u : Nat) : List Atom :=
  match lastOf l u with
  | some i => r.modify i fun a => { a with pads := a.pads ++ padsOf fills u }
  | none => r

/-- An atom of its own for the padding of a unit. -/
def padAlone (fills : List (Nat × Byte)) (u : Nat) : Atom :=
  ⟨.fill, 0, 0, 0, false, true, [], padsOf fills u, false, 0, 0, false, false, false, 0, false⟩

/-- The units that take padding. -/
def padUnits (fills : List (Nat × Byte)) : List Nat := distinct (fills.map (·.1 / 32))
theorem padAtoms_eq (l : List Atom) (fills : List (Nat × Byte)) : padAtoms l fills =
    (padUnits fills).foldl (padUnit l fills) l ++ ((padUnits fills).filter fun u => (lastOf l u).isNone).map (padAlone fills) := rfl

theorem mem_padsOf {fills : List (Nat × Byte)} {u : Nat} {p : Nat × Byte} : p ∈ padsOf fills u ↔ p ∈ fills ∧ p.1 / 32 = u := by
  simp [padsOf]
theorem mem_padUnits {fills : List (Nat × Byte)} {p : Nat × Byte} (h : p ∈ fills) : p.1 / 32 ∈ padUnits fills :=
  (mem_distinct _ _).2 (List.mem_map_of_mem h)

/-- The last atom of a unit is in the list and brings bytes of the unit. -/
theorem lastOf_eq_some {l : List Atom} {u i : Nat} (h : lastOf l u = some i) : ∃ a, l[i]? = some a ∧ ∃ q ∈ a.moves, q.2 / 32 = u := by
  obtain ⟨⟨a, j⟩, hlast, rfl⟩ := Option.map_eq_some_iff.1 h
  obtain ⟨hmem, hany⟩ := List.mem_filter.1 (List.mem_of_getLast? hlast)
  refine ⟨a, List.mem_zipIdx_iff_getElem?.1 hmem, ?_⟩
  simpa using hany

/-- A unit without a last atom is one that no atom brings bytes of. -/
theorem lastOf_eq_none {l : List Atom} {u : Nat} (h : lastOf l u = none) : ∀ b ∈ l, ∀ q ∈ b.moves, q.2 / 32 ≠ u := by
  intro b hb q hq e
  obtain ⟨i, hi⟩ := List.getElem?_of_mem hb
  have none_left := List.getLast?_eq_none_iff.1 (Option.map_eq_none_iff.1 h)
  have := (List.filter_eq_nil_iff.1 none_left) (b, i) (List.mem_zipIdx_iff_getElem?.2 hi)
  exact this (List.any_eq_true.2 ⟨q, hq, by simpa using e⟩)

/-- Padding changes what goes with an atom alone: that of the units whose last atom it is. -/
theorem getElem?_foldl_padUnit (l : List Atom) (fills : List (Nat × Byte)) (us : List Nat) (r : List Atom) (i : Nat) :
    (us.foldl (padUnit l fills) r)[i]? =
      r[i]?.map fun a => { a with pads := a.pads ++ (us.filter fun u => lastOf l u == some i).flatMap (padsOf fills) } := by
  induction us generalizing r with
  | nil => simp
  | cons u us ih =>
    rw [List.foldl_cons, ih]
    unfold padUnit
    split
    next j h =>
      rw [List.getElem?_modify]
      by_cases e : j = i
      · simp [h, e, Function.comp_def]
      · simp [h, e]
    next h => simp [h]
theorem length_foldl_padUnit (l : List Atom) (fills : List (Nat × Byte)) (us : List Nat) (r : List Atom) :
    (us.foldl (padUnit l fills) r).length = r.length := by
  induction us generalizing r with
  | nil => rfl
  | cons u us ih =>
    rw [List.foldl_cons, ih]
    unfold padUnit
    split
    next => exact List.length_modify ..
    next => rfl

/-- The atoms of a copy, each with its padding, come first, and those of padding alone behind them. -/
theorem take_padAtoms (l : List Atom) (fills : List (Nat × Byte)) :
    (padAtoms l fills).take l.length = (padUnits fills).foldl (padUnit l fills) l := by
  rw [padAtoms_eq]
  exact List.take_left' (length_foldl_padUnit ..)
theorem drop_padAtoms (l : List Atom) (fills : List (Nat × Byte)) : (padAtoms l fills).drop l.length =
    ((padUnits fills).filter fun u => (lastOf l u).isNone).map (padAlone fills) := by
  rw [padAtoms_eq]
  exact List.drop_left' (length_foldl_padUnit ..)

/-- An atom of a copy, with the padding of the units whose last atom it is. -/
theorem getElem?_take_padAtoms (l : List Atom) (fills : List (Nat × Byte)) (i : Nat) : ((padAtoms l fills).take l.length)[i]? =
    l[i]?.map fun a => { a with pads := a.pads ++ ((padUnits fills).filter fun u => lastOf l u == some i).flatMap (padsOf fills) } := by
  rw [take_padAtoms, getElem?_foldl_padUnit]

/-- Padding changes the atoms of a copy in nothing else. -/
theorem map_take_padAtoms {l : List Atom} (fills : List (Nat × Byte)) (hl : ∀ a ∈ l, a.pads = []) :
    ((padAtoms l fills).take l.length).map (fun a => { a with pads := [] }) = l := by
  refine List.ext_getElem? fun i => ?_
  rw [List.getElem?_map, getElem?_take_padAtoms, Option.map_map]
  cases h : l[i]? with
  | none => rfl
  | some a => exact congrArg (fun p => some { a with pads := p }) (hl a (List.mem_of_getElem? h)).symm

/-- Every byte of padding goes with an atom. -/
theorem exists_pads_padAtoms (l : List Atom) {fills : List (Nat × Byte)} {p : Nat × Byte} (hp : p ∈ fills) :
    ∃ a ∈ padAtoms l fills, p ∈ a.pads := by
  cases h : lastOf l (p.1 / 32) with
  | some i =>
    obtain ⟨a, ha, -⟩ := lastOf_eq_some h
    have padded := getElem?_take_padAtoms l fills i
    rw [ha] at padded
    exact ⟨_, List.mem_of_mem_take (List.mem_of_getElem? padded), List.mem_append_right _ (List.mem_flatMap.2
      ⟨p.1 / 32, List.mem_filter.2 ⟨mem_padUnits hp, beq_iff_eq.2 h⟩, mem_padsOf.2 ⟨hp, rfl⟩⟩)⟩
  | none =>
    refine ⟨padAlone fills (p.1 / 32), List.mem_of_mem_drop (i := l.length) ?_, mem_padsOf.2 ⟨hp, rfl⟩⟩
    rw [drop_padAtoms]
    exact List.mem_map_of_mem (List.mem_filter.2 ⟨mem_padUnits hp, Option.isNone_iff_eq_none.2 h⟩)

/-- The padding that goes with an atom of a copy is of a unit that the atom brings bytes of. -/
theorem pads_take_padAtoms {l : List Atom} {fills : List (Nat × Byte)} (hl : ∀ a ∈ l, a.pads = []) :
    ∀ a ∈ (padAtoms l fills).take l.length, ∀ p ∈ a.pads, p ∈ fills ∧ ∃ q ∈ a.moves, q.2 / 32 = p.1 / 32 := by
  intro a ha p hp
  obtain ⟨i, hi⟩ := List.getElem?_of_mem ha
  rw [getElem?_take_padAtoms] at hi
  obtain ⟨b, hb, rfl⟩ := Option.map_eq_some_iff.1 hi
  rw [hl b (List.mem_of_getElem? hb), List.nil_append] at hp
  obtain ⟨u, hu, hpu⟩ := List.mem_flatMap.1 hp
  obtain ⟨hfill, rfl⟩ := mem_padsOf.1 hpu
  obtain ⟨c, hc, hq⟩ := lastOf_eq_some (beq_iff_eq.1 (List.mem_filter.1 hu).2)
  obtain rfl : b = c := Option.some.inj (hb.symm.trans hc)
  exact ⟨hfill, hq⟩

/-- An atom of padding alone is that of one unit, which no atom of the copy brings bytes of. -/
theorem pads_drop_padAtoms {l : List Atom} {fills : List (Nat × Byte)} : ∀ a ∈ (padAtoms l fills).drop l.length,
    a.role = .fill ∧ a.moves = [] ∧ ∀ p ∈ a.pads, p ∈ fills ∧ (∀ b ∈ l, ∀ q ∈ b.moves, q.2 / 32 ≠ p.1 / 32) ∧
      ∀ q ∈ a.pads, q.1 / 32 = p.1 / 32 := by
  intro a ha
  rw [drop_padAtoms] at ha
  obtain ⟨u, hu, rfl⟩ := List.mem_map.1 ha
  have alone := lastOf_eq_none (Option.isNone_iff_eq_none.1 (List.mem_filter.1 hu).2)
  refine ⟨rfl, rfl, fun p hp => ?_⟩
  obtain ⟨hfill, rfl⟩ := mem_padsOf.1 hp
  exact ⟨hfill, alone, fun q hq => (mem_padsOf.1 hq).2⟩

end Sys2Proof.Machine
end

section
/-! PROOFS. Shape records, the bytes of copies and the address hash (R68, R182 to R184, R187, R189, R202, R226). -/

namespace Sys2Proof.Machine

/-- Settles O44: each byte of a row is of a present element or of padding, each unit of padding has a last atom or none, and the hash of an
offset is read bit by bit. -/
theorem shapesAndChannels : Obligations.ShapesAndChannels := by
  unfold Obligations.ShapesAndChannels
  refine ⟨fun r => ?_, fun h origin x r hr => ?_, fun l => ⟨flatMap_gatherAtoms l, gatherAtoms_bytes l⟩, fun l fills hl =>
      ⟨map_take_padAtoms fills hl, fun p => exists_pads_padAtoms l, pads_take_padAtoms hl, pads_drop_padAtoms⟩,
    fun pat off => ⟨fun k hk => ?_, hashChan_lt pat off, fun ho stack hs => val_chanOf hs ho, fun off' => hashChan_injOn_block⟩⟩
  · exact ⟨rfl, rfl, Nat.mod_eq_of_lt (r.extractLsb' 52 2).isLt, rfl, rfl, rfl, rfl, rfl, rfl, rfl, rfl, rfl, rfl, rfl, rfl, rfl,
      sound_shapeOf_iff r⟩
  · intro i1 i2 i3 row
    have blocks {b : Nat} : 32 * b < h.p0 ↔ b < h.presentBlocks := by unfold Shape.presentBlocks; omega
    have some_byte {b : Nat} (hb : b < h.rowBytes) : 0 < h.p0 := by
      rcases Nat.eq_zero_or_pos h.p0 with e | e
      · simp [Shape.rowBytes, e] at hb
      · exact e
    refine ⟨fun b hb => ⟨fun hh => ?_, fun hh => Shape.mem_fills_data x hr hb ?_⟩,
      fun b hs hb => ⟨fun hh => ?_, fun hh => Shape.mem_fills_scale x hs hr hb ?_⟩⟩
    · have far : origin + i1 * h.t1 + i2 * h.t2 + i3 * h.t3 + b = origin + h.far r + b := by
        simp only [Shape.far, Shape.index, i1, i2, i3, Int.add_assoc]
      rw [far]
      exact Shape.mem_pairs_data origin x hr (Shape.present_iff.2 ⟨hh.1, some_byte hh.2⟩) hh.2
    · split
      next hp => exact Nat.le_of_not_lt fun k => hh ⟨(Shape.present_iff.1 hp).1, k⟩
      next => exact Nat.zero_le b
    · rw [index_row, Nat.add_right_comm]
      exact Shape.mem_pairs_scale origin x hs hr (Shape.present_iff.2 ⟨hh.1, by omega⟩) (blocks.1 hh.2)
    · split
      next hp => exact Nat.le_of_not_lt fun k => hh ⟨(Shape.present_iff.1 hp).1, blocks.2 k⟩
      next => exact Nat.zero_le b
  · rw [testBit_hashChan, decide_eq_true hk]
    rfl

end Sys2Proof.Machine
end

section
/-! SUPPORT. Numbers laid one after another in equal fields of bits (R68). -/

namespace Sys2Proof.Machine

/-- The bits of numbers of w bits laid one after another. -/
theorem testBit_foldr_fields {α : Type} {w : Nat} (g : α → Nat) (hw : 0 < w) (hg : ∀ a, g a < 2 ^ w) : ∀ (l : List α) (j : Nat),
    (l.foldr (fun a x => g a + 2 ^ w * x) 0).testBit j = ((l[j / w]?).map fun a => (g a).testBit (j % w)).getD false
  | [], j => by simp
  | a :: l, j => by
    rw [List.foldr_cons, Nat.add_comm, Nat.testBit_two_pow_mul_add _ (hg a), testBit_foldr_fields g hw hg l]
    by_cases h : j < w
    · simp [h, Nat.div_eq_of_lt h, Nat.mod_eq_of_lt h]
    · have e : j / w = (j - w) / w + 1 := by
        rw [← Nat.add_div_right _ hw, Nat.sub_add_cancel (Nat.le_of_not_lt h)]
      have m : j % w = (j - w) % w := Nat.mod_eq_sub_mod (Nat.le_of_not_lt h)
      rw [if_neg h, e, m, List.getElem?_cons_succ]

/-- A field read back. -/
theorem extractLsb'_foldr_fields {α : Type} {n w k : Nat} {g : α → Nat} (hg : ∀ a, g a < 2 ^ w) (l : List α) (hk : k < l.length)
    (hn : w * k + w ≤ n) :
    (BitVec.ofNat n (l.foldr (fun a x => g a + 2 ^ w * x) 0)).extractLsb' (w * k) w = BitVec.ofNat w (g l[k]) := by
  refine BitVec.eq_of_getLsbD_eq fun i hi => ?_
  have hw : 0 < w := Nat.zero_lt_of_lt hi
  rw [BitVec.getLsbD_extractLsb', BitVec.getLsbD_ofNat, BitVec.getLsbD_ofNat, testBit_foldr_fields g hw hg, Nat.mul_add_div hw,
    Nat.div_eq_of_lt hi, Nat.add_zero, Nat.mul_add_mod, Nat.mod_eq_of_lt hi, List.getElem?_eq_getElem hk]
  simp [hi, Nat.lt_of_lt_of_le (Nat.add_lt_add_left hi (w * k)) hn]

/-- Element k of a row is its k-th field of 32 bits. -/
theorem elem_eq (x : Row) (k : Nat) : elem x k = (x.extractLsb' (32 * k) 32).toNat := by
  rw [BitVec.extractLsb'_toNat, Nat.shiftRight_eq_div_pow]
  rfl

/-- An element of a row made of elements. -/
theorem elem_ofElems (f : Nat → Nat) {k : Nat} (hk : k < 128) : elem (ofElems ((List.range 128).map f)) k = f k % 2 ^ 32 := by
  rw [elem_eq, ofElems, extractLsb'_foldr_fields (g := (· % 2 ^ 32)) (fun e => Nat.mod_lt e (by decide)) _ (by simpa using hk) (by omega),
    BitVec.toNat_ofNat, Nat.mod_mod]
  simp

/-- A field of a number, as its bits. -/
theorem ofNat_field {n : Nat} (x : BitVec n) (s w : Nat) : BitVec.ofNat w (x.toNat / 2 ^ s % 2 ^ w) = x.extractLsb' s w := by
  apply BitVec.eq_of_toNat_eq
  rw [BitVec.extractLsb'_toNat, BitVec.toNat_ofNat, Nat.mod_mod, Nat.shiftRight_eq_div_pow]

/-- A transposed line of kp elements of w bits, each from a source row below m (R160). -/
def transposedOf (w kp m : Nat) (ls : List (Line × Bool)) (j : Nat) : Line :=
  BitVec.ofNat 2048 ((List.range kp).foldr (fun k acc => (if k < m then
    (ls.getD ((128 * k + j) * w / 2048) (0, false)).1.toNat / 2 ^ ((128 * k + j) * w % 2048) % 2 ^ w else 0) + 2 ^ w * acc) 0)
theorem transposedLine_bf16 (m : Nat) (ls : List (Line × Bool)) (j : Nat) : transposedLine .bf16 m ls j = transposedOf 16 128 m ls j := rfl
theorem transposedLine_bytes {g : Tag} (hg : g ≠ .bf16) (m : Nat) (ls : List (Line × Bool)) (j : Nat) :
    transposedLine g m ls j = transposedOf 8 256 m ls j := by
  unfold transposedLine
  rw [beq_false_of_ne hg]
  rfl

/-- Element k of a transposed line is the element its row has in the source, and zero beyond the last row (R160). -/
theorem extractLsb'_transposedOf {w kp : Nat} (m : Nat) (ls : List (Line × Bool)) (j : Nat) {k : Nat} (hk : k < kp)
    (hn : w * k + w ≤ 2048) :
    (transposedOf w kp m ls j).extractLsb' (w * k) w = if k < m then
      ((ls.getD ((128 * k + j) * w / 2048) (0, false)).1).extractLsb' ((128 * k + j) * w % 2048) w else 0 := by
  rw [transposedOf, extractLsb'_foldr_fields (g := fun k => if k < m then _ else 0) (fun a => ?lt) _ (by simpa using hk) hn,
    List.getElem_range]
  case lt =>
    split
    · exact Nat.mod_lt _ (Nat.two_pow_pos w)
    · exact Nat.two_pow_pos w
  split
  · exact ofNat_field ..
  · rfl

/-- The elements of a line of 16 bits, and of one of bytes (R160). -/
theorem transposedLine_element16 (m : Nat) (ls : List (Line × Bool)) {j k : Nat} (hj : j < 128) (hk : k < 128) :
    (transposedLine .bf16 m ls j).extractLsb' (16 * k) 16 =
      if k < m then ((ls.getD k (0, false)).1).extractLsb' (16 * j) 16 else (0 : BitVec 16) := by
  rw [transposedLine_bf16, extractLsb'_transposedOf m ls j hk (by omega), show (128 * k + j) * 16 / 2048 = k by omega,
    show (128 * k + j) * 16 % 2048 = 16 * j by omega]
theorem transposedLine_element8 {g : Tag} (hg : g ≠ .bf16) (m : Nat) (ls : List (Line × Bool)) (j : Nat) {k : Nat} (hk : k < 256) :
    (transposedLine g m ls j).extractLsb' (8 * k) 8 =
      if k < m then ((ls.getD ((128 * k + j) / 256) (0, false)).1).extractLsb' (8 * ((128 * k + j) % 256)) 8 else (0 : BitVec 8) := by
  rw [transposedLine_bytes hg, extractLsb'_transposedOf m ls j hk (by omega),
    show (128 * k + j) * 8 / 2048 = (128 * k + j) / 256 by omega,
    show (128 * k + j) * 8 % 2048 = 8 * ((128 * k + j) % 256) by omega]

end Sys2Proof.Machine
end

section
/-! SUPPORT. The order of a matrix cycle: what is sampled, and what lands on what (R157, R158, R165). -/

namespace Sys2Proof.Machine

/-- A fold that collects an answer at each element, taken apart: the states it goes through, and the answers it gives. -/
theorem foldl_collect {σ α β : Type} (f : σ → α → σ × β) (d : α) (l : List α) (s : σ) (acc : List β) :
    l.foldl (fun x a => ((f x.1 a).1, x.2 ++ [(f x.1 a).2])) (s, acc) = (l.foldl (fun s a => (f s a).1) s,
      acc ++ (List.range l.length).map fun k => (f ((l.take k).foldl (fun s a => (f s a).1) s) (l.getD k d)).2) := by
  induction l generalizing s acc with
  | nil => simp
  | cons a l ih =>
    rw [List.foldl_cons, ih, List.length_cons, List.range_succ_eq_map]
    simp [Function.comp_def]

/-- A fold over one element more. -/
theorem foldl_take_succ {σ α : Type} (f : σ → α → σ) {l : List α} {k : Nat} {a : α} (h : l[k]? = some a) (s : σ) :
    (l.take (k + 1)).foldl f s = f ((l.take k).foldl f s) a := by
  rw [List.take_add_one, h, List.foldl_append]
  rfl

/-- The turn of a line or a row (R157). -/
theorem MOp.index_turn (o : MOp) (k : Nat) (hr : 0 < o.ramp) : o.index (o.start + o.ramp * k) = some k := by
  simp [MOp.index, hr]
theorem MOp.index_early {o : MOp} {t : Nat} (h : t < o.start) : o.index t = none := by
  simp [MOp.index, h]

/-- The rows of an MMA that have landed before a cycle are those whose cycle has passed (R163, R165). -/
theorem MOp.lt_landedRows (o : MOp) (t i : Nat) (hr : 0 < o.ramp) :
    i < o.landedRows t ↔ i < o.rows ∧ o.start + o.ramp * (i + 130) < t := by
  have turn : i + 130 ≤ (t - o.start - 1) / o.ramp ↔ (i + 130) * o.ramp ≤ t - o.start - 1 := Nat.le_div_iff_mul_le hr
  rw [Nat.mul_comm o.ramp]
  unfold MOp.landedRows
  split
  next h =>
    have : 130 * o.ramp ≤ (i + 130) * o.ramp := Nat.mul_le_mul_right _ (by omega)
    omega
  next h => omega

/-- An entry beside the one that is set. -/
theorem getElem_set_other {α : Type} {n : Nat} (v : Vector α n) {i j : Fin n} (x : α) (h : j ≠ i) : (v.set i x)[j] = v[j] := by
  have : (i : Nat) ≠ j := fun e => h (Fin.ext e.symm)
  simp [this]
theorem Core.a_setTile (c : Core) (t b : TileId) (x : Tile) : (c.setTile t x).ctx.a[b] = if b = t then x else c.ctx.a[b] := by
  by_cases h : b = t
  · subst h
    exact (Vector.getElem_set_self ..).trans (if_pos rfl).symm
  · exact (getElem_set_other _ _ h).trans (if_neg h).symm

/-- Row i of an MMA is live, and is a row of tile b. -/
def writesTile (acc : TileId) (live : List Bool) (b : TileId) (i : Nat) : Bool := live.getD i false && (tileRow acc i).1 == b
theorem any_writesTile {acc : TileId} {live : List Bool} {b : TileId} {l : List Nat} :
    l.any (writesTile acc live b) = true ↔ ∃ i ∈ l, live.getD i false = true ∧ (tileRow acc i).1 = b := by
  simp [List.any_eq_true, writesTile]

/-- The tile of a live row of an MMA turns POISON (R165). -/
def Core.poisonRow (acc : TileId) (live : List Bool) (c : Core) (i : Nat) : Core :=
  if live.getD i false then c.setTile (tileRow acc i).1 { c.ctx.a[(tileRow acc i).1] with tag := .poison } else c
theorem Core.a_poisonRow (acc : TileId) (live : List Bool) (c : Core) (i : Nat) (b : TileId) : (Core.poisonRow acc live c i).ctx.a[b] =
    if writesTile acc live b i then { c.ctx.a[b] with tag := .poison } else c.ctx.a[b] := by
  unfold Core.poisonRow writesTile
  cases live.getD i false
  · rfl
  · by_cases hb : (tileRow acc i).1 = b
    · subst hb
      rw [if_pos rfl, Core.a_setTile, if_pos rfl, Bool.true_and, beq_self_eq_true, if_pos rfl]
    · rw [if_pos rfl, Core.a_setTile, if_neg (Ne.symm hb), Bool.true_and, beq_false_of_ne hb]
      rfl

/-- The tiles that rows of an MMA have written turn POISON (R165). -/
theorem Core.a_poisonRows (acc : TileId) (live : List Bool) (l : List Nat) (c : Core) (b : TileId) :
    (l.foldl (Core.poisonRow acc live) c).ctx.a[b] =
      if l.any (writesTile acc live b) then { c.ctx.a[b] with tag := .poison } else c.ctx.a[b] := by
  induction l generalizing c with
  | nil => rfl
  | cons i l ih =>
    rw [List.foldl_cons, ih, Core.a_poisonRow, List.any_cons]
    cases writesTile acc live b i <;> cases l.any (writesTile acc live b) <;> rfl

/-- Beside the tiles nothing of the core turns with them. -/
theorem Core.poisonRows_leave (acc : TileId) (live : List Bool) (l : List Nat) (c : Core) :
    let n := l.foldl (Core.poisonRow acc live) c
    n.run = c.run ∧ n.sram = c.sram ∧ n.ctx.w = c.ctx.w := by
  induction l generalizing c with
  | nil => exact ⟨rfl, rfl, rfl⟩
  | cons i l ih =>
    obtain ⟨hrun, hsram, hw⟩ := ih (Core.poisonRow acc live c i)
    have one : (Core.poisonRow acc live c i).run = c.run ∧ (Core.poisonRow acc live c i).sram = c.sram ∧
        (Core.poisonRow acc live c i).ctx.w = c.ctx.w := by
      unfold Core.poisonRow
      split <;> exact ⟨rfl, rfl, rfl⟩
    exact ⟨hrun.trans one.1, hsram.trans one.2.1, hw.trans one.2.2⟩

/-- Poison met late by an MMA marks the tiles of the rows that have landed. -/
theorem Core.latePoison_eq {c : Core} {t : Nat} {was o : MOp} {f : MmaFmt} {w : BufId} {acc : TileId} (hk : o.kind = .mma f w acc)
    (hw : was.poison = false) (ho : o.poison = true) :
    c.latePoison t was o = (List.range (o.landedRows t)).foldl (Core.poisonRow acc o.live) c := by
  unfold Core.latePoison
  rw [hk]
  dsimp only
  rw [hw, ho]
  rfl

/-- Poison met late by an MMA marks the tiles of its live rows that have landed, and changes nothing else (R165). -/
theorem Core.latePoison_marks {c : Core} {t : Nat} {was o : MOp} {f : MmaFmt} {w : BufId} {acc : TileId} (hk : o.kind = .mma f w acc)
    (hr : 0 < o.ramp) (hw : was.poison = false) (ho : o.poison = true) :
    let n := c.latePoison t was o
    n.run = c.run ∧ n.sram = c.sram ∧ n.ctx.w = c.ctx.w ∧ ∀ b : TileId,
      ((∃ i, i < o.rows ∧ o.start + o.ramp * (i + 130) < t ∧ o.live.getD i false = true ∧ (tileRow acc i).1 = b) →
        n.ctx.a[b] = { c.ctx.a[b] with tag := .poison }) ∧
      ((∀ i, i < o.rows → o.start + o.ramp * (i + 130) < t → o.live.getD i false = true → (tileRow acc i).1 ≠ b) →
        n.ctx.a[b] = c.ctx.a[b]) := by
  have marks (b : TileId) : (List.range (o.landedRows t)).any (writesTile acc o.live b) = true ↔
      ∃ i, i < o.rows ∧ o.start + o.ramp * (i + 130) < t ∧ o.live.getD i false = true ∧ (tileRow acc i).1 = b := by
    simp only [any_writesTile, List.mem_range, o.lt_landedRows t _ hr, and_assoc]
  have tiles := Core.a_poisonRows acc o.live (List.range (o.landedRows t)) c
  obtain ⟨hrun, hsram, hbuf⟩ := Core.poisonRows_leave acc o.live (List.range (o.landedRows t)) c
  rw [Core.latePoison_eq hk hw ho]
  refine ⟨hrun, hsram, hbuf, fun b => ⟨fun h => (tiles b).trans (if_pos ((marks b).2 h)), fun h => (tiles b).trans (if_neg fun e => ?_)⟩⟩
  obtain ⟨i, hi, hlate, hlive, htile⟩ := (marks b).1 e
  exact h i hi hlate hlive htile

/-- No other operation marks a tile. -/
theorem Core.latePoison_none {c : Core} {t : Nat} {was o : MOp}
    (h : was.poison = true ∨ o.poison = false ∨ ∀ f w acc, o.kind ≠ .mma f w acc) : c.latePoison t was o = c := by
  unfold Core.latePoison
  split
  next f w acc hk =>
    rcases h with h | h | h
    · rw [h]; rfl
    · rw [h]; simp
    · exact absurd hk (h f w acc)
  next => rfl

end Sys2Proof.Machine
end

section
/-! SUPPORT. A matrix cycle, taken apart into the operations of the unit (R157, R158). -/

namespace Sys2Proof.Machine

section
variable (c : Core) (t fresh : Nat) (hold : Bool) (k : Nat)

/-- The core after the poison met late by the first k operations. -/
def Core.unitMarked : Core := ((c.run.mops.zip (c.run.mops.map (c.msample t fresh))).take k).foldl (fun x p => x.latePoison t p.1 p.2) c

/-- The core after the landings of the first k operations. -/
def Core.unitLanded : Core := ((c.run.mops.map (c.msample t fresh)).take k).foldl (fun x o => (x.mland t fresh hold o).1)
  (c.unitMarked t fresh c.run.mops.length)

/-- Operation k as its landing leaves it. -/
def Core.unitOp : MOp :=
  ((c.unitLanded t fresh hold k).mland t fresh hold ((c.run.mops.map (c.msample t fresh)).getD k (c.mop (.aclr 0) 0 0))).2
end
theorem Core.unitMarked_succ {c : Core} {k : Nat} {o : MOp} (t fresh : Nat) (h : c.run.mops[k]? = some o) :
    c.unitMarked t fresh (k + 1) = (c.unitMarked t fresh k).latePoison t o (c.msample t fresh o) :=
  foldl_take_succ (a := (o, c.msample t fresh o)) (fun (x : Core) (p : MOp × MOp) => x.latePoison t p.1 p.2)
    (List.getElem?_zip_eq_some.2 ⟨h, by rw [List.getElem?_map, h]; rfl⟩) c
theorem Core.unitLanded_succ {c : Core} {k : Nat} {o : MOp} (t fresh : Nat) (hold : Bool) (h : c.run.mops[k]? = some o) :
    (c.unitLanded t fresh hold (k + 1), c.unitOp t fresh hold k) =
      (c.unitLanded t fresh hold k).mland t fresh hold (c.msample t fresh o) := by
  have hs : (c.run.mops.map (c.msample t fresh))[k]? = some (c.msample t fresh o) := by rw [List.getElem?_map, h]; rfl
  refine Prod.ext (foldl_take_succ (fun (x : Core) o => (x.mland t fresh hold o).1) hs _) ?_
  unfold Core.unitOp
  rw [List.getD_eq_getElem?_getD, hs]
  rfl

/-- A matrix cycle is the marks of late poison, the landings in issue order, and the operations past their last cycle leaving (R158). -/
theorem Core.matrixCycle_eq (c : Core) (fresh : Nat) (hold : Bool) :
    c.matrixCycle fresh hold = (c.unitLanded c.run.mcycle fresh hold c.run.mops.length).onRun fun x => { x with
      mops := ((List.range c.run.mops.length).map (c.unitOp c.run.mcycle fresh hold)).filter fun o => c.run.mcycle < o.last
      mcycle := c.run.mcycle + 1 } := by
  have all : ((c.run.mops.zip (c.run.mops.map (c.msample c.run.mcycle fresh))).foldl (fun x p => x.latePoison c.run.mcycle p.1 p.2) c) =
      c.unitMarked c.run.mcycle fresh c.run.mops.length := by
    unfold Core.unitMarked
    rw [List.take_of_length_le (by simp)]
  unfold Core.matrixCycle
  dsimp only
  have land := foldl_collect (fun (x : Core) o => x.mland c.run.mcycle fresh hold o) (c.mop (.aclr 0) 0 0)
    (c.run.mops.map (c.msample c.run.mcycle fresh)) (c.unitMarked c.run.mcycle fresh c.run.mops.length) []
  rw [List.length_map, List.nil_append] at land
  rw [all, land]
  unfold Core.unitLanded
  rw [List.take_of_length_le (by simp)]
  rfl

end Sys2Proof.Machine
end

section
/-! SUPPORT. What one operation samples and lands in a cycle (R157 to R161, R163 to R169). -/

namespace Sys2Proof.Machine

/-! ### Sampling -/

section
variable {c : Core} {o : MOp} {t fresh k : Nat}

/-- Line k of an operand as it is sampled: read back through the swizzle, with whether it is poisoned (R157, R181). -/
def Core.opLine (c : Core) (o : MOp) (k : Nat) : Line × Bool :=
  (unswizzle o.swz.val k (c.line (o.addr + 256 * k)), c.poisonAt (o.addr + 256 * k))

/-- A weight load samples line k in its turn. -/
theorem Core.msample_load (ht : t = o.start + o.ramp * k) (hr : 0 < o.ramp) (hk : k < o.dlines) {w : BufId} {g : Tag}
    (hkind : o.kind = .wld w g ∨ o.kind = .wldt w g) :
    c.msample t fresh o = { o with lines := o.lines ++ [c.opLine o k], poison := o.poison || (c.opLine o k).2 } := by
  subst ht
  unfold Core.msample
  rcases hkind with h | h
  all_goals
    rw [h]
    dsimp only
    rw [o.index_turn k hr]
    exact if_pos hk

/-- An MMA samples line k in its turn; a poisoned line counts where its row is live. -/
theorem Core.msample_mma (ht : t = o.start + o.ramp * k) (hr : 0 < o.ramp) (hk : k < o.dlines) {f : MmaFmt} {w : BufId} {acc : TileId}
    (hkind : o.kind = .mma f w acc) : c.msample t fresh o =
      { o with lines := o.lines ++ [c.opLine o k], poison := o.poison || ((c.opLine o k).2 && o.live.getD k false) } := by
  subst ht
  unfold Core.msample
  rw [hkind]
  dsimp only
  rw [o.index_turn k hr]
  exact if_pos hk

/-- A transfer samples row k in its turn. -/
theorem Core.transfer_turn (ht : t = o.start + k) (hk : k < o.rows) : (decide (t < o.start) || decide (t - o.start ≥ o.rows)) = false ∧
    t - o.start = k := by
  subst ht
  refine ⟨?_, Nat.add_sub_cancel_left ..⟩
  simp [hk]
theorem Core.msample_afill (ht : t = o.start + k) (hk : k < o.rows) {rns : Bool} {acc : TileId} (hkind : o.kind = .afill rns acc) :
    c.msample t fresh o = { o with lines := o.lines ++ [c.opLine o (2 * k), c.opLine o (2 * k + 1)] } := by
  obtain ⟨turn, row⟩ := Core.transfer_turn ht hk
  unfold Core.msample
  rw [hkind]
  dsimp only
  rw [turn, row]
  rfl
theorem Core.msample_drain (ht : t = o.start + k) (hk : k < o.rows) {d : DrainKind} {acc : TileId} {g : Fin 8}
    (hkind : o.kind = .drain d acc g) : c.msample t fresh o = { o with out := o.out ++ [c.drainSample o d acc k fresh] } := by
  obtain ⟨turn, row⟩ := Core.transfer_turn ht hk
  unfold Core.msample
  rw [hkind]
  dsimp only
  rw [turn, row]
  rfl

/-- Before its first cycle an operation samples nothing. -/
theorem Core.msample_early (h : t < o.start) : c.msample t fresh o = o := by
  have early : (decide (t < o.start) || decide (t - o.start ≥ o.rows)) = true := by simp [h]
  unfold Core.msample
  split
  case h_1 => exact if_pos early
  case h_2 => exact if_pos early
  case h_6 => rfl
  all_goals
    dsimp only
    rw [MOp.index_early h]

/-- A row of a tile that was POISON at issue is sampled with its mark (R169). -/
theorem Core.drainSample_poison {d : DrainKind} {acc : TileId} (h : o.wasTag.getD (if k < 128 then 0 else 1) .clean = .poison) :
    (c.drainSample o d acc k fresh).2.getLsbD 31 = true := by
  unfold Core.drainSample
  rw [h]
  change (_ ||| poisonMark).getLsbD 31 = true
  simp [poisonMark]
theorem Core.drainSample_sound {d : DrainKind} {acc : TileId} (h : o.wasTag.getD (if k < 128 then 0 else 1) .clean ≠ .poison) :
    c.drainSample o d acc k fresh = drainRow d (c.ctx.a[(tileRow acc k).1].rowVal (tileRow acc k).2) := by
  unfold Core.drainSample
  rw [beq_false_of_ne h]
  rfl
end

/-! ### Frames -/

/-- A context with one tile set. -/
def Ctx.setTile (x : Ctx) (a : TileId) (y : Tile) : Ctx := { x with a := x.a.set a y }

/-- A context with one weight buffer set. -/
def Ctx.setBuf (x : Ctx) (w : BufId) (y : WBuf) : Ctx := { x with w := x.w.set w y }
theorem Ctx.w_setBuf (x : Ctx) (w : BufId) (y : WBuf) : (x.setBuf w y).w[w] = y := Vector.getElem_set_self ..
theorem Ctx.setBuf_setBuf (x : Ctx) (w : BufId) (y z : WBuf) : (x.setBuf w y).setBuf w z = x.setBuf w z :=
  congrArg (fun v => { x with w := v }) (Vector.set_set ..)
theorem Ctx.setBuf_self (x : Ctx) (w : BufId) : x.setBuf w x.w[w] = x :=
  congrArg (fun v => { x with w := v }) (Vector.set_getElem_self _)

/-- One tile has changed, and no other part of the core that a program sees. -/
theorem tileOnly_of {c n : Core} {a : TileId} {x : Tile} (hc : n.ctx = c.ctx.setTile a x) (hs : n.sram = c.sram) :
    n.ctx.a[a] = x ∧ (∀ b : TileId, b ≠ a → n.ctx.a[b] = c.ctx.a[b]) ∧ n.ctx.w = c.ctx.w ∧ n.sram = c.sram ∧
      n.ctx.s = c.ctx.s ∧ n.ctx.p = c.ctx.p ∧ n.ctx.v = c.ctx.v ∧ n.ctx.x = c.ctx.x ∧ n.ctx.tags = c.ctx.tags := by
  rw [hc]
  exact ⟨Vector.getElem_set_self .., fun b hb => getElem_set_other _ _ hb, rfl, hs, rfl, rfl, rfl, rfl, rfl⟩

/-- One weight buffer has changed, and no other part of the core that a program sees. -/
theorem bufOnly_of {c n : Core} {w : BufId} {x : WBuf} (hc : n.ctx = c.ctx.setBuf w x) (hs : n.sram = c.sram) :
    n.ctx.w[w] = x ∧ (∀ b : BufId, b ≠ w → n.ctx.w[b] = c.ctx.w[b]) ∧ n.ctx.a = c.ctx.a ∧ n.sram = c.sram ∧
      n.ctx.s = c.ctx.s ∧ n.ctx.p = c.ctx.p ∧ n.ctx.v = c.ctx.v ∧ n.ctx.x = c.ctx.x ∧ n.ctx.tags = c.ctx.tags := by
  rw [hc]
  exact ⟨c.ctx.w_setBuf .., fun b hb => getElem_set_other _ _ hb, rfl, hs, rfl, rfl, rfl, rfl, rfl⟩

/-! ### Event words -/

/-- The event bits that the regions of a core have raised, with the regions' numbers. -/
def Core.words (c : Core) : List (Nat × Vector (BitVec 32) 8) := c.run.regions.map fun r => (r.id, r.raised)
theorem Core.ctx_onRegionId (c : Core) (id f) : (c.onRegionId id f).ctx = c.ctx := rfl

/-- What is kept for an unwind raises nothing. -/
@[simp] theorem Core.words_keep (c : Core) (region u fj) : (c.keep region u fj).words = c.words := by
  simp only [Core.words, Core.keep, Core.onRegionId, Core.onRun, List.map_map]
  refine List.map_congr_left fun r _ => ?_
  rw [Function.comp_apply]
  split <;> rfl
@[simp] theorem Core.words_onCtx (c : Core) (f) : (c.onCtx f).words = c.words := rfl
@[simp] theorem Core.words_setTile (c : Core) (t x) : (c.setTile t x).words = c.words := rfl

/-- The bits that a region's operation raises on a tile are the region's (R90). -/
theorem Core.raised_raise {c n : Core} (h : n.words = c.words) (id : Nat) (a : TileId) (ev : BitVec 32) :
    (n.onRegionId id (·.raise a ev)).run.regions.map (·.raised) =
      c.run.regions.map fun r => if r.id = id then r.raised.set a (r.raised[a] ||| ev) else r.raised := by
  have e := congrArg (List.map fun p : Nat × Vector (BitVec 32) 8 => if p.1 = id then p.2.set a (p.2[a] ||| ev) else p.2) h
  simp only [Core.words, List.map_map] at e
  simp only [Core.onRegionId, Core.onRun, List.map_map]
  refine Eq.trans (List.map_congr_left fun r _ => ?_) e
  rw [Function.comp_apply, Function.comp_apply]
  split <;> rfl

/-- An operation that raises no bit leaves those raised as they are. -/
theorem Core.raised_none {c n : Core} (h : n.words = c.words) (id : Nat) (a : TileId) :
    n.run.regions.map (·.raised) = c.run.regions.map fun r => if r.id = id then r.raised.set a (r.raised[a] ||| 0) else r.raised := by
  have e := congrArg (List.map Prod.snd) h
  simp only [Core.words, List.map_map] at e
  refine e.trans (List.map_congr_left fun r _ => ?_)
  split
  · rw [show r.raised[a] ||| 0 = r.raised[a] from BitVec.or_zero]
    exact (Vector.set_getElem_self _).symm
  · rfl

/-! ### Rows of an MMA -/

section
variable (c : Core) (o : MOp) (f : MmaFmt) (w : BufId) (acc : TileId) (i fresh : Nat)

/-- The row that an MMA writes, with its events: unspecified where an operand was poisoned (R163 to R165). -/
def Core.mmaRow : Row × BitVec 32 :=
  let tr := tileRow acc i
  let free := Config.freeBits 4096 fresh (512 * o.ord + i)
  if f.isI8 then
    (if o.poison then ofElems ((List.range 128).map fun j => (toRns (elem free j)).toNat)
      else int8Row (f == .i8sub) (o.lines.headD (0, false)).1 (o.scales.getD i 0) c.ctx.w[w] (c.ctx.a[tr.1].rowVal tr.2), 0)
  else if o.poison then (free, Config.freeBits 32 fresh (512 * o.ord + 256 + i) &&& 3)
  else floatRow f (o.lines.headD (0, false)).1 (o.scales.getD i 0) c.ctx.w[w] (c.ctx.a[tr.1].rowVal tr.2)

/-- The clean bits of a tile with row r written (R34, R164). -/
def cleanOver (a : Tile) (r : Fin 128) (clean : Bool) : BitVec 128 :=
  if clean then a.clean ||| BitVec.twoPow 128 r.val else a.clean &&& ~~~BitVec.twoPow 128 r.val

/-- The tile with the row of an MMA written (R163 to R165). -/
def Core.mmaTile : Tile :=
  let tr := tileRow acc i
  let a := c.ctx.a[tr.1]
  let y := (c.mmaRow o f w acc i fresh).1
  let clean := cleanOver a tr.2 (f == .i8sub && y == 0)
  { a with
    rows := a.rows.set tr.2 y, clean := clean
    tag := if a.tag == .poison || o.poison then .poison else if f.isI8 && clean == BitVec.allOnes 128 then .clean else f.tileTag }
variable {c o f w acc i fresh}
theorem Core.landMma_dead (h : o.live.getD i false = false) : c.landMma o f w acc i fresh = c := by
  unfold Core.landMma
  rw [h]
  rfl

/-- A live row lands on its tile alone. -/
theorem Core.ctx_landMma (h : o.live.getD i false = true) : (c.landMma o f w acc i fresh).ctx =
    c.ctx.setTile (tileRow acc i).1 (c.mmaTile o f w acc i fresh) := by
  unfold Core.landMma
  rw [h]
  unfold Core.mmaTile Core.mmaRow
  cases f.isI8
  · rfl
  · rfl

/-- A float row raises its events on its tile, a residue row none (R90, R163, R164). -/
theorem Core.raised_landMma (h : o.live.getD i false = true) : (c.landMma o f w acc i fresh).run.regions.map (·.raised) =
    c.run.regions.map fun r => if r.id = o.region then
      r.raised.set (tileRow acc i).1 (r.raised[(tileRow acc i).1] ||| (c.mmaRow o f w acc i fresh).2) else r.raised := by
  unfold Core.landMma
  rw [h]
  unfold Core.mmaRow
  cases f.isI8
  · exact Core.raised_raise (Core.words_keep (c.setTile _ _) _ _ _) _ _ _
  · exact Core.raised_none (Core.words_keep (c.setTile _ _) _ _ _) _ _

/-- Poison makes the tile POISON, and leaves its other rows (R165). -/
theorem Core.tag_mmaTile_poison (h : o.poison = true) : (c.mmaTile o f w acc i fresh).tag = .poison := by
  rw [Core.mmaTile, h, Bool.or_true]
  rfl

/-- The row of a sound operand. -/
theorem Core.mmaRow_sound (h : o.poison = false) : c.mmaRow o f w acc i fresh =
    let line := (o.lines.headD (0, false)).1
    let x := c.ctx.a[(tileRow acc i).1].rowVal (tileRow acc i).2
    (if f.isI8 then int8Row (f == .i8sub) line (o.scales.getD i 0) c.ctx.w[w] x else (floatRow f line (o.scales.getD i 0) c.ctx.w[w] x).1,
      if f.isI8 then 0 else (floatRow f line (o.scales.getD i 0) c.ctx.w[w] x).2) := by
  unfold Core.mmaRow
  rw [h]
  cases f.isI8
  · exact Prod.mk.eta.symm
  · rfl

/-- The tile with a row of a sound operand written (R163, R164). -/
theorem Core.mmaTile_sound (h : o.poison = false) {y : Row} (hy : (c.mmaRow o f w acc i fresh).1 = y) :
    let a := c.ctx.a[(tileRow acc i).1]
    let clean := cleanOver a (tileRow acc i).2 (f == .i8sub && y == 0)
    c.mmaTile o f w acc i fresh = { a with
      rows := a.rows.set (tileRow acc i).2 y, clean := clean
      tag := if a.tag = .poison then .poison else if f.isI8 = true ∧ clean = BitVec.allOnes 128 then .clean
        else if f.isI8 then .rns else .f32 } := by
  subst hy
  rw [Core.mmaTile, h]
  simp only [Bool.or_false, beq_iff_eq, Bool.and_eq_true]
  rfl
end

/-! ### Rows of an AFILL -/

section
variable (c : Core) (o : MOp) (rns : Bool) (acc : TileId) (j : Nat)

/-- Whether row j of an AFILL, or an earlier one of its tile, took a poisoned line (R167). -/
def MOp.fillTaint : Bool :=
  o.live.getD (if j < 128 then 0 else 1) false || (o.lines.headD (0, false)).2 || ((o.lines.drop 1).headD (0, false)).2

/-- The row that an AFILL writes: its two lines, each residue made canonical (R74, R167). -/
def MOp.fillRow : Row :=
  let raw : Row := ((o.lines.drop 1).headD (0, false)).1 ++ (o.lines.headD (0, false)).1
  if rns then ofElems ((List.range 128).map fun k => (rnsAdd 0 (BitVec.ofNat 32 (elem raw k))).toNat) else raw

/-- The elements that an AFILL of residues writes are canonical (R74). -/
theorem MOp.elem_fillRow {k : Nat} (hk : k < 128) : elem (o.fillRow true) k =
    (rnsAdd 0 (BitVec.ofNat 32 (elem (((o.lines.drop 1).headD (0, false)).1 ++ (o.lines.headD (0, false)).1) k))).toNat :=
  (elem_ofElems _ hk).trans (Nat.mod_eq_of_lt (rnsAdd ..).isLt)

/-- The tag that row j of an AFILL leaves its tile (R167). -/
def Core.fillTag : Tag :=
  let tr := tileRow acc j
  let was := o.wasTag.getD (if j < 128 then 0 else 1) .clean
  let rt : Tag := if rns then .rns else .f32
  if o.fillTaint j then .poison
  else if was = .clean ∨ was = rt then (if c.ctx.a[tr.1].tag = .poison then .poison else rt)
  else if tr.2.val = 127 then rt else c.ctx.a[tr.1].tag
variable {c o rns acc j}

/-- The model's choice of the tag, with its case of a tile that was POISON at issue put with the last one. -/
theorem fillTag_choice {was rt old : Tag} {taint : Bool} {r : Nat} (h : rt ≠ .poison) :
    (if taint then Tag.poison
      else if was == .poison then (if r == 127 then rt else old)
      else if was == .clean || was == rt then (if old == .poison then .poison else rt)
      else if r == 127 then rt else old) =
    if taint then .poison else if was = .clean ∨ was = rt then (if old = .poison then .poison else rt)
      else if r = 127 then rt else old := by
  simp only [beq_iff_eq, Bool.or_eq_true]
  by_cases hw : was = .poison
  · subst hw
    rw [if_pos rfl, if_neg (not_or.2 ⟨Tag.noConfusion, h.symm⟩)]
  · rw [if_neg hw]

/-- A row of an AFILL lands on its tile alone. -/
theorem Core.ctx_landAfill : (c.landAfill o rns acc j).1.ctx = c.ctx.setTile (tileRow acc j).1 { c.ctx.a[(tileRow acc j).1] with
      rows := c.ctx.a[(tileRow acc j).1].rows.set (tileRow acc j).2 (o.fillRow rns)
      clean := c.ctx.a[(tileRow acc j).1].clean &&& ~~~BitVec.twoPow 128 (tileRow acc j).2.val
      tag := c.fillTag o rns acc j } := by
  have rt : (if rns then .rns else .f32 : Tag) ≠ .poison := by cases rns <;> decide
  unfold Core.fillTag
  dsimp only
  rw [← fillTag_choice rt, MOp.fillTaint, Bool.or_assoc]
  rfl
end

/-! ### Clears, weight loads and drains -/

/-- Entries of a vector set one after another. -/
theorem getElem_foldl_set {α : Type} {n : Nat} (f : Fin n → α) (l : List (Fin n)) (v : Vector α n) (i : Fin n) :
    (l.foldl (fun v j => v.set j (f j)) v)[i] = if i ∈ l then f i else v[i] := by
  induction l generalizing v with
  | nil => rfl
  | cons j l ih =>
    rw [List.foldl_cons, ih]
    by_cases hl : i ∈ l
    · rw [if_pos hl, if_pos (List.mem_cons_of_mem _ hl)]
    · rw [if_neg hl]
      by_cases e : i = j
      · subst e
        rw [if_pos List.mem_cons_self]
        exact Vector.getElem_set_self ..
      · rw [if_neg (by simp [e, hl])]
        exact getElem_set_other _ _ e

/-- Every entry set is a new vector. -/
theorem foldl_set_finRange {α : Type} {n : Nat} (f : Fin n → α) (v : Vector α n) :
    (List.finRange n).foldl (fun v j => v.set j (f j)) v = Vector.ofFn f := by
  refine Vector.ext fun i hi => ?_
  rw [Vector.getElem_ofFn]
  exact (getElem_foldl_set f _ v ⟨i, hi⟩).trans (if_pos (List.mem_finRange _))

/-- A buffer with the lines of a weight load, and their scales, set (R159, R160). -/
def MOp.loadLines (o : MOp) (x : Fin 128 → Line) (l : List (Fin 128)) (b : WBuf) : WBuf :=
  { b with
    lines := l.foldl (fun v (j : Fin 128) => v.set j (x j)) b.lines
    scales := l.foldl (fun v (j : Fin 128) => v.set j (o.scales.getD j.val 0)) b.scales }
theorem Core.ctx_landLine (c : Core) (o : MOp) (w : BufId) (j : Fin 128) (x : Line) : (c.landLine o w j x).ctx = c.ctx.setBuf w
    { c.ctx.w[w] with lines := c.ctx.w[w].lines.set j x, scales := c.ctx.w[w].scales.set j (o.scales.getD j.val 0) } := rfl

/-- Lines of a weight load land on its buffer alone (R159, R160). -/
theorem Core.ctx_landLines (o : MOp) (w : BufId) (x : Fin 128 → Line) (l : List (Fin 128)) (c : Core) :
    (l.foldl (fun c j => c.landLine o w j (x j)) c).ctx = c.ctx.setBuf w (o.loadLines x l c.ctx.w[w]) := by
  induction l generalizing c with
  | nil => exact (c.ctx.setBuf_self w).symm
  | cons j l ih =>
    rw [List.foldl_cons, ih, Core.ctx_landLine, Ctx.w_setBuf, Ctx.setBuf_setBuf]
    rfl

/-- A buffer that a weight load has filled (R159, R160). -/
def MOp.ready (o : MOp) (t : Tag) (b : WBuf) : WBuf := { b with tag := if o.poison then .poison else t, clean := false }
theorem Core.ctx_landReady (c : Core) (o : MOp) (w : BufId) (t : Tag) :
    (c.landReady o w t).ctx = c.ctx.setBuf w (o.ready t c.ctx.w[w]) := rfl

/-- A transposed load lands on its buffer alone, all of its lines at once (R160). -/
theorem Core.ctx_landWldt (c : Core) (o : MOp) (w : BufId) (tag : Tag) : (c.landWldt o w tag).ctx = c.ctx.setBuf w
    ⟨Vector.ofFn fun j => transposedLine tag o.rows o.lines j.val, Vector.ofFn fun j => o.scales.getD j.val 0,
      if o.poison then .poison else tag, false⟩ := by
  unfold Core.landWldt
  rw [Core.ctx_landReady, Core.ctx_landLines o w fun j => transposedLine tag o.rows o.lines j.val, Ctx.w_setBuf, Ctx.setBuf_setBuf,
    MOp.loadLines, foldl_set_finRange, foldl_set_finRange]
  rfl

/-- A line of a weight load lands in its cycle, and in the last one the buffer has its tag (R159). -/
theorem Core.ctx_landWld {c : Core} {o : MOp} (w : BufId) (tag : Tag) {t : Nat} {j : Fin 128} (hk : o.kind = .wld w tag) (hr : 0 < o.ramp)
    (ht : t = o.start + o.ramp * (j.val + 1) - 1) : (c.landWld o w tag t).ctx = c.ctx.setBuf w
      { lines := c.ctx.w[w].lines.set j (if j.val < o.rows then (o.lines.getD j.val (0, false)).1 else 0)
        scales := c.ctx.w[w].scales.set j (o.scales.getD j.val 0)
        tag := if j.val = 127 then (if o.poison then .poison else tag) else c.ctx.w[w].tag
        clean := if j.val = 127 then false else c.ctx.w[w].clean } := by
  have pos : 0 < o.ramp * (j.val + 1) := Nat.mul_pos hr j.val.succ_pos
  have turn : t + 1 - o.start = o.ramp * (j.val + 1) := by omega
  have index : o.ramp * (j.val + 1) / o.ramp = j.val + 1 := Nat.mul_div_cancel_left _ hr
  have last : t = o.last ↔ j.val = 127 := by
    unfold MOp.last
    rw [hk]
    dsimp only
    have scale : o.ramp * (j.val + 1) = o.ramp * 128 ↔ j.val + 1 = 128 := Nat.mul_left_cancel_iff hr
    omega
  unfold Core.landWld
  dsimp only
  rw [turn, index, if_neg (by simp [Nat.pos_iff_ne_zero.1 hr]), Nat.add_sub_cancel]
  have line : Fin.ofNat 128 j.val = j := Fin.ofNat_eq_cast .. |>.trans (Fin.cast_val_eq_self j)
  rw [line]
  by_cases h : j.val = 127
  · rw [if_pos (last.2 h), if_pos h, if_pos h]
    rw [Core.ctx_landReady, Core.ctx_landLine, Ctx.w_setBuf, Ctx.setBuf_setBuf]
    rfl
  · rw [if_neg (mt last.1 h), if_neg h, if_neg h]
    rfl

/-- The SRAM after row j of a drain: one line for BF16 and two for every other form (R169). -/
def Core.drainSram (c : Core) (o : MOp) (d : DrainKind) (j : Nat) : Sram :=
  let x := (o.out.headD (0, 0)).1
  let eff : LineEff := if (o.out.headD (0, 0)).2.getLsbD 31 then .poisoned else .full
  let all := BitVec.allOnes 256
  if d = .bf16 then c.sram.store (c.ctx.phys (o.addr + 256 * j)) all (x.extractLsb' 0 2048) eff
  else (c.sram.store (c.ctx.phys (o.addr + 512 * j)) all (x.extractLsb' 0 2048) eff).store
    (c.ctx.phys (o.addr + 512 * j + 256)) all (x.extractLsb' 2048 2048) eff

/-- The row of a drain-add goes to its buffer (R171). -/
theorem Core.landDrain_add {c : Core} {o : MOp} {d : DrainKind} (acc : TileId) (j : Nat) (h : d = .add ∨ d = .addc) :
    c.landDrain o d acc j = c.onRun fun r => { r with drainBuf := r.drainBuf.map fun b =>
      { b with rows := b.rows ++ [(j, (o.out.headD (0, 0)).1, (o.out.headD (0, 0)).2.getLsbD 31)] } } := by
  rcases h with rfl | rfl <;> rfl

/-- The row of any other drain goes to the scratchpad, and its events to the tile (R90, R95, R169). -/
theorem Core.landDrain_store {c : Core} {o : MOp} {d : DrainKind} (acc : TileId) (j : Nat) (ha : d ≠ .add) (hc : d ≠ .addc) :
    (c.landDrain o d acc j).ctx = c.ctx ∧ (c.landDrain o d acc j).sram = c.drainSram o d j ∧
      (c.landDrain o d acc j).run.regions.map (·.raised) = c.run.regions.map fun r => if r.id = o.region then
        r.raised.set (tileRow acc j).1 (r.raised[(tileRow acc j).1] ||| ((o.out.headD (0, 0)).2 &&& 0xF)) else r.raised := by
  have line (x : Core) (a : Nat) (data : Line) (pois : Bool) (fj : Nat) : (x.drainLine o a data pois fj).words = x.words :=
    Core.words_keep ..
  unfold Core.landDrain Core.drainSram
  dsimp only
  rw [beq_false_of_ne ha, beq_false_of_ne hc, Bool.or_false, if_neg Bool.false_ne_true]
  by_cases h : d = .bf16
  · rw [if_pos h, if_pos (beq_iff_eq.2 h)]
    exact ⟨rfl, rfl, Core.raised_raise (line ..) _ _ _⟩
  · rw [if_neg h, if_neg (mt beq_iff_eq.1 h)]
    exact ⟨rfl, rfl, Core.raised_raise ((line ..).trans (line ..)) _ _ _⟩

/-! ### What an operation lands in its cycles -/

section
variable {c : Core} {o : MOp} {t fresh : Nat} {hold : Bool}

/-- Row i of an MMA lands in its cycle (R163 to R165). -/
theorem Core.mland_mma {f : MmaFmt} {w : BufId} {acc : TileId} {i : Nat} (hk : o.kind = .mma f w acc) (hr : 0 < o.ramp) (hi : i < o.rows)
    (ht : t = o.start + o.ramp * (i + 130)) : (c.mland t fresh hold o).1 = c.landMma o f w acc i fresh := by
  unfold Core.mland
  rw [hk, ht]
  dsimp only
  rw [o.index_turn _ hr]
  simp [hi]

/-- Row j of an AFILL lands in its cycle (R167). -/
theorem Core.mland_afill {rns : Bool} {acc : TileId} {j : Nat} (hk : o.kind = .afill rns acc) (hj : j < o.rows) (ht : t = o.start + j + 5) :
    c.mland t fresh hold o = c.landAfill o rns acc j := by
  have late : o.start + 5 ≤ t := by omega
  have row : t - o.start - 5 = j := by omega
  unfold Core.mland
  rw [hk]
  dsimp only
  rw [row, if_pos (by simp [late, hj])]

/-- Row j of a drain lands in its cycle (R169). -/
theorem Core.mland_drain {d : DrainKind} {acc : TileId} {g : Fin 8} {j : Nat} (hk : o.kind = .drain d acc g) (hj : j < o.rows)
    (ht : t = o.start + j + 5) : (c.mland t fresh hold o).1 = c.landDrain o d acc j := by
  have late : o.start + 5 ≤ t := by omega
  have row : t - o.start - 5 = j := by omega
  unfold Core.mland
  rw [hk]
  dsimp only
  rw [row, if_pos (by simp [late, hj])]

/-- A weight load lands its lines as they come (R159). -/
theorem Core.mland_wld {w : BufId} {tag : Tag} (hk : o.kind = .wld w tag) : (c.mland t fresh hold o).1 = c.landWld o w tag t := by
  unfold Core.mland
  rw [hk]

/-- What lands in the last cycle of a transposed load, a clear or an ASTAT, and in no other (R160, R161, R166, R168). -/
theorem Core.mland_wldt {w : BufId} {tag : Tag} (hk : o.kind = .wldt w tag) :
    (c.mland t fresh hold o).1 = if t = o.last then c.landWldt o w tag else c := by
  unfold Core.mland
  rw [hk]
theorem Core.mland_wclr {w : BufId} (hk : o.kind = .wclr w) : (c.mland t fresh hold o).1 =
    if t = o.last then (c.onCtx (·.setBuf w WBuf.cleared)).keep o.region (.buf w c.ctx.w[w]) none else c := by
  unfold Core.mland
  rw [hk]
  exact apply_ite Prod.fst ..
theorem Ctx.a_setS (x : Ctx) (d : SReg) (v : Word) : (x.setS d v).a = x.a := by
  unfold Ctx.setS
  split <;> rfl

/-- A scalar that lands is in its register, but for s0, and in no other (R27). -/
theorem Core.s_landS (c : Core) (region : Nat) (d : SReg) (v : Word) :
    (c.landS region d v).s d = (if d = 0 then 0 else v) ∧ ∀ r, r ≠ d → (c.landS region d v).s r = c.s r := by
  have reg (r : SReg) : (c.landS region d v).s r = if r = d ∧ d ≠ 0 then v else c.s r := Ctx.sreg_setS ..
  refine ⟨?_, fun r hr => (reg r).trans (if_neg fun e => hr e.1)⟩
  rw [reg]
  by_cases hd : d = 0
  · subst hd
    rfl
  · rw [if_pos ⟨rfl, hd⟩, if_neg hd]
theorem Core.mland_astat {d : SReg} {v : Word} (hk : o.kind = .astat d v) : (c.mland t fresh hold o).1 =
    if t = o.last then (if hold then c.landS o.region d v else c.onRun fun r => { r with
      flights := insertFlight ⟨1, o.ord, o.region, 2, o.bundle, .scalar d v⟩ r.flights }) else c := by
  unfold Core.mland
  rw [hk]
  exact apply_ite Prod.fst ..

/-- The rows of a tile as ACLR keeps them for an unwind. -/
def Core.keepTile (region : Nat) (acc : TileId) (old : Tile) (c : Core) : Core :=
  (List.finRange 128).foldl (fun c r => c.keep region (.row acc r old.rows[r] (old.clean.getLsbD r.val) old.tag) none) c
theorem Core.keepTile_leaves (region : Nat) (acc : TileId) (old : Tile) (c : Core) :
    (c.keepTile region acc old).ctx = c.ctx ∧ (c.keepTile region acc old).sram = c.sram := by
  unfold Core.keepTile
  induction List.finRange 128 generalizing c with
  | nil => exact ⟨rfl, rfl⟩
  | cons a l ih => exact ih _

/-- What lands of an ACLR: its tile, and the clear of the tile's event word (R91, R166). -/
def Core.landAclr (c : Core) (region : Nat) (acc : TileId) : Core :=
  ((c.setTile acc (Tile.cleared c.ctx.a[acc].events)).keepTile region acc c.ctx.a[acc]).onRegionId region (·.clear acc)
theorem Core.landAclr_leaves (c : Core) (region : Nat) (acc : TileId) :
    (c.landAclr region acc).ctx = c.ctx.setTile acc (Tile.cleared c.ctx.a[acc].events) ∧ (c.landAclr region acc).sram = c.sram := by
  rw [Core.landAclr, Core.ctx_onRegionId, Core.sram_onRegionId]
  exact Core.keepTile_leaves ..
theorem Core.mland_aclr {acc : TileId} (hk : o.kind = .aclr acc) :
    (c.mland t fresh hold o).1 = if t = o.last then c.landAclr o.region acc else c := by
  unfold Core.mland
  rw [hk]
  exact apply_ite Prod.fst ..

/-- A region that clears a tile has no bit raised on it, and notes the clear (R91). -/
theorem Core.cleared_regions (id : Nat) (acc : TileId) : ∀ r ∈ (c.onRegionId id (·.clear acc)).run.regions, r.id = id →
    r.raised[acc] = 0 ∧ r.cleared.getLsbD acc.val = true := by
  intro r hr hid
  obtain ⟨x, hx, rfl⟩ := List.mem_map.1 hr
  have same : x.id = id := by
    by_contra h
    rw [if_neg h] at hid
    exact h hid
  rw [if_pos same]
  refine ⟨Vector.getElem_set_self .., ?_⟩
  simp [Region.clear]
end

end Sys2Proof.Machine
end

section
/-! PROOFS. Matrix cycles (R90, R91, R95, R158 to R161, R163 to R169). -/

namespace Sys2Proof.Machine

/-- Settles O29: a cycle is a fold over the operations of the unit; what each samples, marks and lands comes kind by kind. -/
theorem matrixLandings : Obligations.MatrixLandings := by
  unfold Obligations.MatrixLandings
  refine ⟨fun c fresh hold => ?_, fun c t was o => ?_, fun c o t fresh k => ?_, fun c o t fresh hold => ?_, fun m ls j k hj => ?_⟩
  · intro t n
    exact ⟨c.unitMarked t fresh, c.unitLanded t fresh hold, c.unitOp t fresh hold, rfl, rfl,
      fun k o h => ⟨Core.unitMarked_succ t fresh h, Core.unitLanded_succ t fresh hold h⟩, c.matrixCycle_eq fresh hold⟩
  · exact ⟨Core.latePoison_none, fun f w acc => Core.latePoison_marks⟩
  · intro line
    refine ⟨fun ht hr hk => ⟨fun w g => Core.msample_load ht hr hk, fun f w acc => Core.msample_mma ht hr hk⟩,
      fun ht hk => ⟨fun rns acc => Core.msample_afill ht hk, fun d acc g hkind => ?_⟩, Core.msample_early⟩
    intro tr was
    rw [Core.msample_drain ht hk hkind]
    exact ⟨fun h => by rw [Core.drainSample_sound h], fun h => ⟨_, Core.drainSample_poison h, rfl⟩⟩
  · intro n old rest tileOnly bufOnly still raises
    have still_of (h : n = c) : still := ⟨congrArg Core.ctx h, congrArg Core.sram h, congrArg Core.run h⟩
    refine ⟨fun f w acc i hk hr hi ht => ?mma, fun rns acc j hk hj ht => ?afill, fun acc hk => ?aclr, fun w tag j hk hr ht => ?wld,
      fun w tag hk => ?wldt, fun w hk => ?wclr, fun d v hk => ?astat, fun d acc g j hk hj ht => ?drain⟩
    case mma =>
      have hn : n = c.landMma o f w acc i fresh := Core.mland_mma hk hr hi ht
      refine ⟨fun hl => still_of (hn.trans (Core.landMma_dead hl)), fun hl => ?_⟩
      intro tr a up line sc y clean
      have hctx : n.ctx = c.ctx.setTile tr.1 (c.mmaTile o f w acc i fresh) := (congrArg Core.ctx hn).trans (Core.ctx_landMma hl)
      have hsram : n.sram = c.sram := (congrArg Core.sram hn).trans (Core.sram_landMma ..)
      have hraised := (congrArg (fun x : Core => x.run.regions.map (·.raised)) hn).trans (Core.raised_landMma hl)
      obtain ⟨htile, hothers, hrest⟩ := tileOnly_of hctx hsram
      refine ⟨fun hp => ?_, fun hp => ?_⟩
      · have row := c.mmaRow_sound (f := f) (w := w) (acc := acc) (i := i) (fresh := fresh) hp
        rw [row] at hraised
        exact ⟨⟨htile.trans (Core.mmaTile_sound hp (congrArg Prod.fst row)), hothers, hrest⟩, hraised⟩
      · rw [htile]
        exact ⟨Core.tag_mmaTile_poison hp, fun r hr => getElem_set_other _ _ hr, hothers⟩
    case afill =>
      have hn : n = (c.landAfill o rns acc j).1 := congrArg Prod.fst (Core.mland_afill hk hj ht)
      have hctx := (congrArg Core.ctx hn).trans Core.ctx_landAfill
      intro tr a l0 l1 raw side was rt taint
      have sound (h : taint = false) : ¬ o.fillTaint j = true := Bool.eq_false_iff.1 h
      refine ⟨(o.fillRow rns, c.fillTag o rns acc j), tileOnly_of hctx ((congrArg Core.sram hn).trans rfl), fun h => ?_, fun h k hk => ?_,
        fun h => if_pos h, fun h hw => (if_neg (sound h)).trans (if_pos hw),
        fun h hc hw => (if_neg (sound h)).trans (if_neg (not_or.2 ⟨hc, hw⟩))⟩
      · rw [h]
        rfl
      · rw [h]
        exact o.elem_fillRow hk
    case aclr =>
      refine ⟨fun h => ?_, fun h => still_of ((Core.mland_aclr hk).trans (if_neg h))⟩
      have hn : n = c.landAclr o.region acc := (Core.mland_aclr hk).trans (if_pos h)
      obtain ⟨hctx, hsram⟩ := c.landAclr_leaves o.region acc
      refine ⟨tileOnly_of ((congrArg Core.ctx hn).trans hctx) ((congrArg Core.sram hn).trans hsram), fun r hr => ?_⟩
      rw [hn, Core.landAclr] at hr
      exact Core.cleared_regions o.region acc r hr
    case wld =>
      have hn : n = c.landWld o w tag t := Core.mland_wld hk
      exact bufOnly_of ((congrArg Core.ctx hn).trans (Core.ctx_landWld w tag hk hr ht))
        ((congrArg Core.sram hn).trans (Core.sram_landWld ..))
    case wldt =>
      refine ⟨fun h => still_of ((Core.mland_wldt hk).trans (if_neg h)), fun h => ?_⟩
      have hn : n = c.landWldt o w tag := (Core.mland_wldt hk).trans (if_pos h)
      exact bufOnly_of ((congrArg Core.ctx hn).trans (Core.ctx_landWldt ..)) ((congrArg Core.sram hn).trans (Core.sram_landWldt ..))
    case wclr =>
      refine ⟨fun h => still_of ((Core.mland_wclr hk).trans (if_neg h)), fun h => ?_⟩
      have hn := (Core.mland_wclr (c := c) (fresh := fresh) (hold := hold) hk).trans (if_pos h)
      exact bufOnly_of ((congrArg Core.ctx hn).trans rfl) ((congrArg Core.sram hn).trans rfl)
    case astat =>
      refine ⟨fun h => still_of ((Core.mland_astat hk).trans (if_neg h)), fun h hh => ?_, fun h hh => ?_⟩
      · have hn : n = c.landS o.region d v := (Core.mland_astat hk).trans ((if_pos h).trans (if_pos hh))
        obtain ⟨here, others⟩ := c.s_landS o.region d v
        rw [hn, Core.ctx_landS, Ctx.a_setS, Ctx.v_setS]
        exact ⟨here, others, rfl, rfl⟩
      · have hn := (Core.mland_astat (c := c) (fresh := fresh) (hold := hold) hk).trans ((if_pos h).trans (if_neg (Bool.eq_false_iff.1 hh)))
        exact ⟨(congrArg Core.ctx hn).trans rfl, (congrArg (fun x : Core => x.run.flights) hn).trans rfl⟩
    case drain =>
      have hn : n = c.landDrain o d acc j := Core.mland_drain hk hj ht
      intro x eff all
      by_cases ha : d = .add ∨ d = .addc
      · have hn := hn.trans (Core.landDrain_add acc j ha)
        refine ⟨(congrArg Core.ctx hn).trans rfl, fun _ => ⟨(congrArg Core.sram hn).trans rfl, (congrArg (·.run.drainBuf) hn).trans rfl⟩,
          fun h => absurd ha (by simp [h]), fun h => absurd ha (by rcases h with rfl | rfl | rfl <;> simp),
          fun hadd haddc => absurd ha (not_or.2 ⟨hadd, haddc⟩)⟩
      · obtain ⟨hadd, haddc⟩ := not_or.1 ha
        obtain ⟨hctx, hsram, hraised⟩ := Core.landDrain_store (c := c) (o := o) acc j hadd haddc
        rw [← hn] at hctx hsram hraised
        exact ⟨hctx, fun h => absurd h ha, fun h => hsram.trans (if_pos h),
          fun h => hsram.trans (if_neg (by rcases h with rfl | rfl | rfl <;> simp)), fun _ _ => hraised⟩
  · exact ⟨fun g hg => transposedLine_element8 hg m ls j, transposedLine_element16 m ls hj⟩

end Sys2Proof.Machine
end

section
/-! SUPPORT. Scalar forms as results in flight, and the values of the S slot: quotients, remainders, counts, shifts and immediates (R107 to
R110). -/

namespace Sys2Proof.Machine

/-! ### Results of the S slot -/

/-- A form of two scalars completes with its value in flight (R106, R107). -/
theorem State.syl_aluRR {s : State} {g : PReg} {lat : Nat} {d a b : SReg} {f : Word → Word → Word} {v : Word} (hg : s.core.g0 g = true)
    (hv : f (s.core.s a) (s.core.s b) = v) : s.syl g (·.aluRR lat d a b f) = .next (s.onCur fun c => c.fly lat 0 (.scalar d v)) :=
  State.syl_eq hg (congrArg (s.core.flyS lat 0 d) hv)
/-- A form of a scalar and an immediate completes with its value in flight (R109). -/
theorem State.syl_aluRI {s : State} {g : PReg} {d a : SReg} {i : Word} {f : Word → Word → Word} {v : Word} (hg : s.core.g0 g = true)
    (hv : f (s.core.s a) i = v) : s.syl g (·.aluRI d a i f) = .next (s.onCur fun c => c.fly 1 0 (.scalar d v)) :=
  State.syl_eq hg (congrArg (s.core.flyS 1 0 d) hv)
/-- A predicate form completes with its value in flight (R112). -/
theorem State.syl_predRR {s : State} {g d a b : PReg} {f : Word → Word → Word} (hg : s.core.g0 g = true) :
    s.syl g (·.predRR d a b f) =
      .next (s.onCur fun c => c.fly 1 0 (.pred (c.physP d) (BitVec.allOnes 64) (f (s.core.pr a) (s.core.pr b)))) :=
  State.syl_eq hg rfl
/-- p0 is no rotating predicate, and reads all ones (R27, R29). -/
@[simp] theorem Core.pr_zero (c : Core) : c.pr 0 = BitVec.allOnes 64 := rfl

/-! ### Quotients and remainders (R108) -/

section

variable {x y : Word}

theorem divS_of_eq (h : y = 0) : divS x y = BitVec.allOnes 64 := if_pos h
theorem divU_of_eq (h : y = 0) : divU x y = BitVec.allOnes 64 := if_pos h
theorem remS_of_eq (h : y = 0) : remS x y = x := if_pos h
theorem remU_of_eq (h : y = 0) : remU x y = x := if_pos h
theorem divS_of_ne (h : y ≠ 0) : divS x y = BitVec.ofInt 64 (x.toInt.tdiv y.toInt) := if_neg h
theorem divU_of_ne (h : y ≠ 0) : divU x y = BitVec.ofNat 64 (x.toNat / y.toNat) := if_neg h
theorem remS_of_ne (h : y ≠ 0) : remS x y = BitVec.ofInt 64 (x.toInt.tmod y.toInt) := if_neg h
theorem remU_of_ne (h : y ≠ 0) : remU x y = BitVec.ofNat 64 (x.toNat % y.toNat) := if_neg h

end

/-- The remainder of a truncated division is smaller than the divisor. -/
theorem natAbs_tmod_lt (a : Int) {b : Int} (hb : b ≠ 0) : (a.tmod b).natAbs < b.natAbs := by
  rw [Int.natAbs_tmod]
  exact Nat.mod_lt _ (Int.natAbs_pos.2 hb)
/-- A remainder of a truncated division that is not zero has the sign of the dividend. -/
theorem tmod_neg_iff (a b : Int) : a.tmod b = 0 ∨ (a.tmod b < 0 ↔ a < 0) := by
  by_cases h : b ∣ a
  · exact .inl (Int.tmod_eq_zero_of_dvd h)
  · rw [← Int.sign_eq_neg_one_iff_neg, Int.sign_tmod, if_neg h, Int.sign_eq_neg_one_iff_neg]
    exact .inr Iff.rfl

/-! ### Selections, counts and shifts (R107) -/

theorem slt_iff (x y : Word) : slt x y = true ↔ x.toInt < y.toInt := decide_eq_true_iff
/-- A count that rises by one for each element that passes. -/
theorem foldl_count {α : Type} (p : α → Bool) (l : List α) (n : Nat) :
    l.foldl (fun n x => if p x then n + 1 else n) n = n + (l.filter p).length := by
  induction l generalizing n with
  | nil => rfl
  | cons x l ih =>
    rw [List.foldl_cons, ih, List.filter_cons]
    split
    · rw [List.length_cons, Nat.add_right_comm, Nat.add_assoc]
    · rfl
/-- The population count is the number of positions that hold a one. -/
theorem popcount_eq (x : Word) : popcount x = ((List.range 64).filter fun i => x.getLsbD i).length := by
  rw [popcount, foldl_count, Nat.zero_add]
theorem leaShift_eq (k : Fin 4) : leaShift k = [0, 2, 3, 4].getD k.val 0 := by
  fin_cases k <;> rfl

/-! ### Immediates with a literal (R53, R110) -/

/-- The low eight bits of an imm14 that holds an imm8. -/
theorem extractLsb'_low8 (lo : BitVec 8) : (lo.setWidth 14).extractLsb' 0 8 = lo := by
  ext i hi
  simp [BitVec.getElem_extractLsb', hi, show i < 14 by omega]
theorem imm14Sext_lit (lo : BitVec 8) (p : BitVec 24) : imm14Sext ⟨lo.setWidth 14, some p⟩ = (p ++ lo : BitVec 32).signExtend 64 := by
  rw [imm14Sext, extractLsb'_low8]
theorem imm14Zext_lit (lo : BitVec 8) (p : BitVec 24) : imm14Zext ⟨lo.setWidth 14, some p⟩ = (p ++ lo : BitVec 32).setWidth 64 := by
  rw [imm14Zext, extractLsb'_low8]

end Sys2Proof.Machine
end

section
/-! SUPPORT. The first two checks of a scratchpad access (R114). -/

namespace Sys2Proof.Machine

theorem Core.inBounds_iff (c : Core) (a n : Nat) : c.inBounds a n = true ↔ a < 0x400000 ∧ a + n ≤ c.granted := by
  simp [Core.inBounds]

section

variable {c : Core} {p : Fin 4} {e n : Nat} {l : List (Bool × Cause)} {f : Core → Core}

/-- An access outside the granted pitches raises BOUNDS first of all. -/
theorem Core.access_outside (h : ¬ (e < 0x400000 ∧ e + n ≤ c.granted)) :
    c.checked p ((!c.inBounds e n, .bounds) :: (e % n != 0, .align) :: l) f = c.raise p .bounds :=
  Core.checked_head (by rwa [Bool.not_eq_true', ← Bool.not_eq_true, Core.inBounds_iff])
theorem Core.access_misaligned (h : e < 0x400000 ∧ e + n ≤ c.granted) (ha : e % n ≠ 0) :
    c.checked p ((!c.inBounds e n, .bounds) :: (e % n != 0, .align) :: l) f = c.raise p .align := by
  rw [Core.checked_tail (by rw [(Core.inBounds_iff ..).2 h]; rfl), Core.checked_head (bne_iff_ne.2 ha)]
theorem Core.access_aligned (h : e < 0x400000 ∧ e + n ≤ c.granted) (ha : e % n = 0) :
    c.checked p ((!c.inBounds e n, .bounds) :: (e % n != 0, .align) :: l) f = c.checked p l f := by
  rw [Core.checked_tail (by rw [(Core.inBounds_iff ..).2 h]; rfl), Core.checked_tail (bne_eq_false_iff_eq.2 ha)]

end

/-- A scalar load is its checks in the order of R114 and a result in flight (R113). -/
theorem Core.loadS_checked (c : Core) (d a : SReg) (i : Imm8) (n : Nat) (ext : Nat → Word) : c.loadS d a i n ext =
    c.checked 0 [(!c.inBounds (c.ea a i) n, .bounds), (c.ea a i % n != 0, .align), (c.poisonAt (c.ea a i), .poisonUse)]
      fun c' => c'.flyS 4 0 d (ext (c'.load (c.ea a i) n)) := rfl
/-- A scalar store is its checks in the order of R114 and bytes in flight (R113, R114). -/
theorem Core.storeS_checked (c : Core) (d a : SReg) (i : Imm8) (n : Nat) : c.storeS d a i n =
    c.checked 0 [(!c.inBounds (c.ea a i) n, .bounds), (c.ea a i % n != 0, .align)] fun c' =>
      c'.fly 1 0 (.store (c'.ctx.phys (c.ea a i)) (BitVec.ofNat 256 (2 ^ n - 1)) ((c'.s d).setWidth 2048) .dirty) := rfl
/-- A spill or a fill is its checks, whatever its guard, and one command of the engines where a lane is enabled (R132, R133). -/
theorem Core.spillIssue_checked (c : Core) (g : PReg) (d : VReg) (a : SReg) (n : Fin 64) (k : CopyKind) : c.spillIssue g d a n k =
    c.checked 1 [((c.s a).extractLsb' 48 16 != 0, .bounds), ((c.s a).toNat % 256 != 0, .align)] fun c' =>
      let regs := (c.run16 d (n.val + 1)).map fun r => (r, c.ctx.v[r])
      let erase := if k == .fill then (regs.filter fun r => r.2.tag != .clean).length * 24 * popcount (c.pr g) else 0
      if c.pr g = 0 then c' else (c'.meter (40 * (n.val + 1) * popcount (c.pr g) + erase)).enqueue
        { c'.newCmd k none none (c.s a) 0 0 with regs := regs, guard := c.pr g } := rfl

end Sys2Proof.Machine
end

section
/-! PROOFS. Scalar arithmetic, predicates, scalar accesses, and vector stores, spills and fills (R27, R95, R107 to R110, R112 to R114, R127,
R128, R132, R133). -/

namespace Sys2Proof.Machine

/-- Settles O2: the quotient and the remainder are those of truncated division, whose remainder takes the dividend's sign. -/
theorem divisionResults : Obligations.DivisionResults := by
  unfold Obligations.DivisionResults
  intro s g d a b hg x y lands
  refine ⟨fun hy => ?_, fun hy => ?_, fun hx hy => ?_⟩
  · exact ⟨State.syl_aluRR hg (divS_of_eq hy), State.syl_aluRR hg (divU_of_eq hy), State.syl_aluRR hg (remS_of_eq hy),
      State.syl_aluRR hg (remU_of_eq hy)⟩
  · have hy0 : y.toInt ≠ 0 := fun h => hy (BitVec.eq_of_toInt_eq h)
    have hpos : 0 < y.toNat := Nat.pos_of_ne_zero fun h => hy (BitVec.eq_of_toNat_eq h)
    exact ⟨x.toInt.tdiv y.toInt, x.toInt.tmod y.toInt, x.toNat / y.toNat, x.toNat % y.toNat, rfl,
      (Int.tdiv_mul_add_tmod ..).symm, natAbs_tmod_lt _ hy0, tmod_neg_iff .., (Nat.div_add_mod' ..).symm, Nat.mod_lt _ hpos,
      State.syl_aluRR hg (divS_of_ne hy), State.syl_aluRR hg (remS_of_ne hy), State.syl_aluRR hg (divU_of_ne hy),
      State.syl_aluRR hg (remU_of_ne hy)⟩
  · have ha : s.core.s a = 0x8000000000000000 := hx
    have hb : s.core.s b = 0xFFFFFFFFFFFFFFFF := hy
    exact ⟨State.syl_aluRR hg (by rw [ha, hb]; decide), State.syl_aluRR hg (by rw [ha, hb]; decide)⟩

/-- Settles O5: an access is its checks of bounds and alignment, a load that of poison behind them, and then its one result in flight. -/
theorem scalarMemoryForms : Obligations.ScalarMemoryForms := by
  unfold Obligations.ScalarMemoryForms
  intro s g d a i hg e inside lands traps load store
  have loads {j : Instr} {n : Nat} {v : Word} {ext : Nat → Word} (h : exec j s = s.syl g (·.loadS d a i n ext))
      (hv : ext (s.core.load e n) = v) : load j n v := by
    subst hv
    have ends {f : Core → Core} (hf : _ = f s.core) : exec j s = .next (s.onCur f) :=
      h.trans (State.syl_eq hg ((s.core.loadS_checked d a i n ext).trans hf))
    exact ⟨fun hi ha hp => ends ((Core.access_aligned hi ha).trans (Core.checked_tail hp)), fun hi => ends (Core.access_outside hi),
      fun hi ha => ends (Core.access_misaligned hi ha),
      fun hi ha hp => ends ((Core.access_aligned hi ha).trans (Core.checked_head hp))⟩
  have stores {j : Instr} {n : Nat} (h : exec j s = s.syl g (·.storeS d a i n)) : store j n := by
    have ends {f : Core → Core} (hf : _ = f s.core) : exec j s = .next (s.onCur f) :=
      h.trans (State.syl_eq hg ((s.core.storeS_checked d a i n).trans hf))
    exact ⟨fun hi ha => ends (Core.access_aligned hi ha), fun hi => ends (Core.access_outside hi),
      fun hi ha => ends (Core.access_misaligned hi ha)⟩
  exact ⟨loads rfl rfl, loads rfl rfl, loads rfl rfl, loads rfl rfl, loads rfl rfl, stores rfl, stores rfl, stores rfl⟩

/-- Settles O23: a store is its checks and its parts in the lines it touches; a spill and a fill are theirs and one command. -/
theorem vectorStoresAndSpills : Obligations.VectorStoresAndSpills := by
  unfold Obligations.VectorStoresAndSpills
  intro s g d a i n c gm x e as outside whole eff fj k m ga regs moved erase moves
  refine ⟨fun hg => ?_, fun hg => ?_, State.checkedBy_of rfl (Core.spillIssue_checked ..) rfl,
    State.checkedBy_of rfl (Core.spillIssue_checked ..) rfl⟩
  · exact congrArg Host.Outcome.next (State.onCur_id (if_pos hg))
  · have inside : (as.any fun a => !s.core.inBounds a 4) = outside := by simp only [Core.not_inBounds]; rfl
    refine State.checkedBy_of rfl ((if_neg hg).trans (congrArg (fun b => s.core.checked 1 [(b, .bounds), _] _) inside)) ?_
    -- What the model tests as booleans the statement says as propositions.
    simp only [beq_iff_eq, Bool.not_eq_true', ← Bool.not_eq_true, Bool.and_eq_true]
    rfl

/-- Settles O1: each form is one result in flight; its value is the table's. -/
theorem scalarIntegerResults : Obligations.ScalarIntegerResults := by
  unfold Obligations.ScalarIntegerResults
  intro s g d a b lo lo14 p n hg x y lands form
  have rr {lat : Nat} {f : Word → Word → Word} {b : SReg} {v : Word} (h : f x (s.core.s b) = v) :
      s.syl g (·.aluRR lat d a b f) = lands lat v := State.syl_aluRR hg h
  have ri {a : SReg} {i : Word} {f : Word → Word → Word} {v : Word} (h : f (s.core.s a) i = v) :
      s.syl g (·.aluRI d a i f) = lands 1 v := State.syl_aluRI hg h
  have immediates (i : Imm8) : form i (imm8Sext i) := ⟨ri rfl, ri rfl, ri rfl, ri rfl⟩
  refine ⟨rr rfl, rr rfl, rr (BitVec.mul_def ..), rr rfl, rr rfl, rr rfl, rr rfl, rr rfl, rr rfl, rr rfl, rr rfl, rr rfl,
    rr (if_congr (slt_iff ..) rfl rfl), rr (if_congr (slt_iff ..) rfl rfl), rr rfl, rr rfl,
    State.syl_eq hg (congrArg (s.core.flyS 1 0 d) ?sel), rr rfl, rr (congrArg _ (popcount_eq x)), fun k => rr (by rw [leaShift_eq]),
    immediates _, immediates _, ri rfl, ri rfl, ri rfl, ri rfl, ri (imm14Sext_lit lo p), ri rfl, ri (by rw [imm14Zext_lit])⟩
  case sel =>
    simp only [bne_iff_ne, ne_eq, ite_not]
    rfl

/-- Settles O4: the five forms are one result in flight each. -/
theorem predicateForms : Obligations.PredicateForms := by
  unfold Obligations.PredicateForms
  intro s g d a b hg x y lands
  exact ⟨State.syl_predRR hg, State.syl_predRR hg, State.syl_predRR hg, State.syl_predRR hg, State.syl_predRR hg, Core.pr_zero _⟩

end Sys2Proof.Machine
end

section
/-! SUPPORT. V forms as meanings of their core; exchanges and copying forms taken apart (R33, R35, R123, R135, R137, R139). -/

namespace Sys2Proof.Machine

/-- A V form does what its meaning makes of the core. -/
theorem State.act_eq {s : State} {f h : Core → Core} (e : f s.core = h s.core) : s.act f = .next (s.onCur h) :=
  congrArg Host.Outcome.next (State.onCur_congr e)
/-- A V form whose meaning leaves the core as it is does nothing. -/
theorem State.act_id {s : State} {f : Core → Core} (e : f s.core = s.core) : s.act f = .next s :=
  congrArg Host.Outcome.next (State.onCur_id e)

/-- A dissipative form whose tags are its only check ends as its guard and its tags say. -/
theorem State.vecLands_of {s : State} {j : Instr} {lat : Nat} {gm : Word} {elems : Line} {d : VReg} {rt : Tag} {pois bad : Bool}
    {extra : Nat} {bits : Line} {F : Core → Core} (h : exec j s = .next (s.onCur F))
    (hF : F s.core = s.core.dissip lat gm elems d rt pois bad [] extra bits) : s.vecLands j lat gm elems d rt pois bad extra bits :=
  State.vecChecked_of h hF

/-! ### Exchanges (R137) -/

/-- The check of VSWAP, whether an operand is POISON and whether the guard is full: two tags under a guard that is not. -/
def swapRefused (x y : Tag) (pois full : Bool) : Bool := !pois && x != y && !full
/-- The check of VCSWAP: two tags under a guard that is not full, or with neither of them CLEAN. -/
def cswapRefused (x y : Tag) (pois full : Bool) : Bool := !pois && x != y && (!full || (x != .clean && y != .clean))
/-- The tag that VCSWAP means for a register of tag t exchanged in the lanes ex with one of tag u. -/
def cswapTag (ex : Word) (t u : Tag) : Tag := if t == .clean && ex != 0 then u else t
/-- The tag with which a register lands that the lanes ex of an exchange reach, t where no operand is POISON. -/
def exchangeTag (pois : Bool) (ex : Word) (t : Tag) : Option Tag := if pois then some .poison else if ex = 0 then none else some t

theorem cswapTag_clean {ex : Word} {u : Tag} (he : ex ≠ 0) : cswapTag ex .clean u = u := if_pos (bne_iff_ne.2 he)
theorem cswapTag_with_clean (ex : Word) (t : Tag) : cswapTag ex t .clean = t :=
  ite_eq_right_iff.2 fun h => (beq_iff_eq.1 (Bool.and_eq_true_iff.1 h).1).symm
theorem cswapTag_self (ex : Word) (t : Tag) : cswapTag ex t t = t := ite_self t
theorem exchangeTag_lanes {ex : Word} {t : Tag} (he : ex ≠ 0) : exchangeTag false ex t = some t := if_neg he

/-- Both exchanges have one shape: nothing for no lane, one check, and the exchange in the lanes that the form names. -/
theorem execVswap_eq (s : State) (g : PReg) (d a : VReg) (r : Ramp) : exec (.vswap g d a r) s = s.act fun c =>
    let pois := (c.vr d).tag == .poison || (c.vr a).tag == .poison
    if c.pr g = 0 then c else c.checked 1 [(swapRefused (c.vr d).tag (c.vr a).tag pois (c.pr g == allLanes), .format)]
      (·.exchange r (c.pr g) (c.pr g) d a (c.vr a).tag (c.vr d).tag pois) := rfl
theorem execVcswap_eq (s : State) (g : PReg) (d a b : VReg) (r : Ramp) : exec (.vcswap g d a b r) s = s.act fun c =>
    let pois := (c.vr d).tag == .poison || (c.vr a).tag == .poison || (c.vr b).tag == .poison
    let ex := c.pr g &&& nonZeroLanes (c.vr b).bits
    if c.pr g = 0 then c else c.checked 1 [(cswapRefused (c.vr d).tag (c.vr a).tag pois (c.pr g == allLanes), .format)]
      (·.exchange r (c.pr g) ex d a (cswapTag ex (c.vr d).tag (c.vr a).tag) (cswapTag ex (c.vr a).tag (c.vr d).tag) pois) := rfl

/-! ### Copying forms (R139) -/

section
variable {c : Core} {r : Ramp} {g : PReg} {d : VReg} {t : Tag} {pois bad : Bool} {v : Line}

/-- A copying form is two checks and, with a lane, one result in flight that needs its destination CLEAN (R33, R35, R139). -/
theorem Core.copyClean_checked : c.copyClean r g d t pois bad v =
    c.checked 1 [(c.pr g != 0 && bad, .format), ((c.vr d).tag != .clean, .cleanRequired)] fun x => if c.pr g = 0 then x else
      (x.meter (revFj r (c.pr g))).flyRev r (c.pr g) d v (some (if pois then .poison else t)) true (revFj r (c.pr g)) false := rfl
/-- With a lane, a copying form of a refused source raises FORMAT. -/
theorem Core.copyClean_format (hg : c.pr g ≠ 0) (hb : bad = true) : c.copyClean r g d t pois bad v = c.raise 1 .format := by
  rw [copyClean_checked, checked_head (Bool.and_eq_true_iff.2 ⟨bne_iff_ne.2 hg, hb⟩)]
/-- A copying form needs its destination CLEAN, with a lane or without. -/
theorem Core.copyClean_dirty (h : c.pr g = 0 ∨ bad = false) (hc : (c.vr d).tag ≠ .clean) :
    c.copyClean r g d t pois bad v = c.raise 1 .cleanRequired := by
  rw [copyClean_checked, checked_tail (Bool.and_eq_false_iff.2 (h.imp_left bne_eq_false_iff_eq.2)), checked_head (bne_iff_ne.2 hc)]
/-- Onto a CLEAN register a copying form without a lane does nothing. -/
theorem Core.copyClean_zero (hg : c.pr g = 0) (hc : (c.vr d).tag = .clean) : c.copyClean r g d t pois bad v = c := by
  rw [copyClean_checked, checked_tail (Bool.and_eq_false_iff.2 (.inl (bne_eq_false_iff_eq.2 hg))),
    checked_tail (bne_eq_false_iff_eq.2 hc), checked_nil, if_pos hg]
/-- With a lane, a source that is not refused and a CLEAN destination, a copying form is its result in flight. -/
theorem Core.copyClean_lanes (hg : c.pr g ≠ 0) (hb : bad = false) (hc : (c.vr d).tag = .clean) :
    c.copyClean r g d t pois bad v = (c.meter (revFj r (c.pr g))).flyRev r (c.pr g) d v (some (if pois then .poison else t)) true
      (revFj r (c.pr g)) false := by
  rw [copyClean_checked, checked_tail (Bool.and_eq_false_iff.2 (.inr hb)), checked_tail (bne_eq_false_iff_eq.2 hc), checked_nil, if_neg hg]

end

end Sys2Proof.Machine
end

section
/-! PROOFS. Dissipative V forms, moves, tags, conversions, exchanges and copying forms (R31, R33, R35, R123 to R125, R130, R137, R139 to
R142, R144, R145, R147 to R153). -/

namespace Sys2Proof.Machine

/-- Settles O12: each form is one dissipative write whose only check is that of its tags. -/
theorem vectorFloatResults : Obligations.VectorFloatResults := by
  unfold Obligations.VectorFloatResults
  intro s g d a b c gm x y z p no two three one f all
  refine ⟨?_, ?_, ?_, ?_, ?_, ?_, ?_, ?_, ?_, ?_, ?_, ?_, ?_, ?_, ?_, ?_, ?_, ?_, ?_, ?_⟩ <;> exact State.vecLands_of rfl rfl

/-- Settles O13: each form is one dissipative write, lane by lane or on the whole register. -/
theorem vectorIntegerResults : Obligations.VectorIntegerResults := by
  unfold Obligations.VectorIntegerResults
  intro s g d a b c gm x y p no two bits
  refine ⟨?_, ?_, ?_, ?_, ?_, ?_, ?_, ?_, ?_, ?_, ?_, ?_, ?_⟩ <;> exact State.vecLands_of rfl rfl

/-- Settles O17: each form is one dissipative write, a narrowing one of its element pair's bits. -/
theorem conversionResults : Obligations.ConversionResults := by
  unfold Obligations.ConversionResults
  intro s g d a b x2 x4 x8 c gm x y p no near narrow wide up
  refine ⟨?_, ?_, ?_, ?_, ?_, ?_, ?_, ?_, ?_, ?_, ?_, ?_, ?_, ?_, ?_⟩ <;> exact State.vecLands_of rfl rfl

/-- Settles O14: the moves are dissipative writes; the other forms are their guard and their checks, and then one result in flight. -/
theorem vectorMoveResults : Obligations.VectorMoveResults := by
  unfold Obligations.VectorMoveResults
  intro s g d a b e f t n code c gm x y z p w notRns
  refine ⟨State.vecLands_of rfl rfl, State.vecLands_of rfl rfl, State.vecLands_of rfl rfl, State.vecLands_of rfl rfl,
    State.vecLands_of rfl rfl, State.vecLands_of rfl ?_, ⟨fun hm => ?_, fun hm hp => ?_, fun hm hp => ?_⟩, fun hg => ⟨?_, ?_⟩, fun hg => ?_,
    fun hg ht => ?_, fun hg hc hp => ?_⟩
  · rfl
  · exact State.act_id (if_neg (Bool.eq_false_iff.1 hm))
  · exact State.act_eq ((if_pos hm).trans (Core.checked_head (beq_iff_eq.2 hp)))
  · exact State.act_eq ((if_pos hm).trans (Core.checked_tail (beq_false_of_ne hp)))
  · exact State.act_id (if_pos hg)
  · exact State.act_id (if_pos (by simp [show s.core.pr g = 0 from hg]))
  · refine State.act_eq ((if_neg hg).trans ?_)
    simp only [beq_iff_eq]
    rfl
  · exact State.act_id (if_pos (by simpa [Bool.or_assoc] using .inr ht))
  · exact State.act_eq (if_neg (by simpa using ⟨⟨hg, hc⟩, hp⟩))

/-- Settles O15: with a lane the one result in flight is the tag's code. -/
theorem tagQuery : Obligations.TagQuery := by
  unfold Obligations.TagQuery
  intro s g d a gm
  refine ⟨fun hg => State.act_id (if_pos hg), fun p hp hg ht => State.act_eq ((if_neg hg).trans ?_)⟩
  have code : BitVec.ofNat 64 p.1.code = p.2 := by clear ht; revert p; decide
  rw [ht, code]
  rfl

/-- Settles O21: an exchange is one check of its tags and one landing of two results; a copy is its checks and one result. -/
theorem exchangeAndCopyForms : Obligations.ExchangeAndCopyForms := by
  unfold Obligations.ExchangeAndCopyForms
  intro s g d a b r c gm x y z ex fj swap copy i32 needs
  have exchanges {j : Instr} {F : Core → Core} {e : Word} {bad pois : Bool} {td ta : Tag} {td' ta' : Option Tag}
      (h : exec j s = s.act F) (hF : F c = if gm = 0 then c else c.checked 1 [(bad, .format)] (·.exchange r gm e d a td ta pois))
      (hg : gm ≠ 0) (hb : bad = false) (hd : exchangeTag pois e td = td') (ha : exchangeTag pois e ta = ta') : swap j e td' ta' := by
    subst hd ha
    exact h.trans (State.act_eq ((hF.trans (if_neg hg)).trans (Core.checked_tail hb)))
  have refuses {j : Instr} {F f : Core → Core} {bad : Bool} (h : exec j s = s.act F)
      (hF : F c = if gm = 0 then c else c.checked 1 [(bad, .format)] f) (hg : gm ≠ 0) (hb : bad = true) :
      exec j s = .next (s.onCur fun c => c.raise 1 .format) :=
    h.trans (State.act_eq ((hF.trans (if_neg hg)).trans (Core.checked_head hb)))
  have vswap {p : Bool} {td ta : Option Tag} (hp : (x.tag == .poison || y.tag == .poison) = p) (hg : gm ≠ 0)
      (hb : swapRefused x.tag y.tag p (gm == allLanes) = false) (hd : exchangeTag p gm y.tag = td) (ha : exchangeTag p gm x.tag = ta) :
      swap (.vswap g d a r) gm td ta := by
    subst hp
    exact exchanges (execVswap_eq ..) rfl hg hb hd ha
  have vcswap {p : Bool} {td ta : Option Tag} (hp : (x.tag == .poison || y.tag == .poison || z.tag == .poison) = p) (hg : gm ≠ 0)
      (hb : cswapRefused x.tag y.tag p (gm == allLanes) = false) (hd : exchangeTag p ex (cswapTag ex x.tag y.tag) = td)
      (ha : exchangeTag p ex (cswapTag ex y.tag x.tag) = ta) : swap (.vcswap g d a b r) ex td ta := by
    subst hp
    exact exchanges (execVcswap_eq ..) rfl hg hb hd ha
  have sound (hx : x.tag ≠ .poison) (hy : y.tag ≠ .poison) : (x.tag == .poison || y.tag == .poison) = false := by simp [hx, hy]
  have sound3 (hx : x.tag ≠ .poison) (hy : y.tag ≠ .poison) (hz : z.tag ≠ .poison) :
      (x.tag == .poison || y.tag == .poison || z.tag == .poison) = false := by simp [hx, hy, hz]
  have copies {j : Instr} {F : Core → Core} {t : Tag} {v : Line} {no : Bool} (h : exec j s = s.act F)
      (hF : F c = c.copyClean r g d t (y.tag == .poison) no v) (hg : gm ≠ 0) (hb : no = false) (hc : x.tag = .clean) : copy j t v := by
    refine h.trans (State.act_eq ((hF.trans (Core.copyClean_lanes hg hb hc)).trans ?_))
    simp only [beq_iff_eq]
    rfl
  have ok : i32 ↔ (!tagOk y.tag .i32) = false := by simp only [tagOk, i32, Bool.not_eq_false', Bool.or_eq_true, beq_iff_eq, or_assoc]
  refine ⟨fun hg => ⟨State.act_id (if_pos hg), State.act_id (if_pos hg)⟩, fun hg hp => ?_, fun hg hx hy => ⟨fun h => ?_, fun hne hl => ?_⟩,
    fun hg hp => ?_, fun hg hx hy hz => ⟨fun he h => ?_, fun he h => ?_, fun he hl hc => ?_, fun he hl hc => ?_, fun hne h => ?_⟩,
    fun hc => ?_, fun hc h => ?_, fun hg hi => ?_, fun hg hc => ⟨?_, ?_⟩, fun hg hc => ?_, fun hg hc hi => ?_⟩
  · exact vswap (p := true) (by simpa using hp) hg rfl rfl rfl
  · refine vswap (sound hx hy) hg ?_ (exchangeTag_lanes hg) (exchangeTag_lanes hg)
    rcases h with h | h <;> simp [swapRefused, h]
  · exact refuses (execVswap_eq s g d a r) rfl hg (by rw [show _ = false from sound hx hy]; simpa [swapRefused] using ⟨hne, hl⟩)
  · exact vcswap (p := true) (by simpa [or_assoc] using hp) hg rfl rfl rfl
  · rw [he] at vcswap
    refine he ▸ vcswap (sound3 hx hy hz) hg ?_ rfl rfl
    rcases h with h | ⟨hl, h | h⟩ <;> simp [cswapRefused, *]
  · refine vcswap (sound3 hx hy hz) hg (by simp [cswapRefused, h]) ?_ ?_ <;> rw [h, cswapTag_self, exchangeTag_lanes he]
  · refine vcswap (sound3 hx hy hz) hg (by simp [cswapRefused, hl, hc]) ?_ ?_ <;> rw [hc]
    · rw [cswapTag_clean he, exchangeTag_lanes he]
    · rw [cswapTag_with_clean, exchangeTag_lanes he]
  · refine vcswap (sound3 hx hy hz) hg (by simp [cswapRefused, hl, hc]) ?_ ?_ <;> rw [hc]
    · rw [cswapTag_with_clean, exchangeTag_lanes he]
    · rw [cswapTag_clean he, exchangeTag_lanes he]
  · exact refuses (execVcswap_eq s g d a b r) rfl hg (by rw [show _ = false from sound3 hx hy hz]; simpa [cswapRefused] using And.intro hne h)
  · exact State.act_eq (Core.copyClean_dirty (.inr rfl) hc)
  · exact State.act_eq (Core.copyClean_dirty (h.imp_right ok.1) hc)
  · exact State.act_eq (Core.copyClean_format hg (Bool.eq_true_of_not_eq_false fun h => hi (ok.2 h)))
  · exact State.act_id (Core.copyClean_zero hg hc)
  · exact State.act_id (Core.copyClean_zero hg hc)
  · exact copies rfl rfl hg rfl hc
  · exact copies rfl rfl hg (ok.1 hi) hc

end Sys2Proof.Machine
end

section
/-! PROOFS. Refutation: the status of a fill that failed after a slip. -/

namespace Sys2Proof.Machine

open Sys2Proof.Tests (after copying copy0)

/-- A fill one of whose atoms slipped, and which then failed with PERMISSION: its status word has the SLIP bit beside the failure's code. -/
def slippedFill : Cmd :=
  { copy0 with
    kind := .fill, tag := none, queue := none, halted := true, status := 0x104, regs := [(5, ⟨0, .clean⟩)], guard := 1
    atoms := copy0.atoms.map fun a : Atom => { a with done := true } }

/-- Core 0 with that fill, about to complete. -/
def fillFails : State := { copying [slippedFill] with arg := .cmd 0 0 }

/-- Refutes O46: the trap record of the fill's BOUNDS holds its whole status word (R323), the statement has its low four bits alone. -/
theorem not_copySteps : ¬ Obligations.CopySteps := by
  unfold Obligations.CopySteps
  intro h
  obtain ⟨-, -, hcmd, -⟩ := h fillFails 0
  obtain ⟨-, -, -, -, -, -, -, -, -, -, -, hmoves⟩ := hcmd 0 slippedFill rfl (by decide +kernel)
  obtain ⟨t, ht, -, -, -, -, -, -, hfails, -⟩ := hmoves rfl (by decide)
  obtain ⟨-, htrap⟩ := hfails (by decide +kernel) rfl (by decide +kernel)
  have hstatus : (after (exec .spillFillCompletion fillFails)).cores[0].run.trap.map (·.status) = some (0x104 &&& 0xF) := by
    rw [ht]
    exact congrArg (Option.map Trap.status) htrap
  exact absurd hstatus (by decide +kernel)

end Sys2Proof.Machine
end

section
/-! SUPPORT. What the engines of a core leave as they go on, and a command that changes (R189, R228, R347). -/

namespace Sys2Proof.Machine

/-- What the engines of a core leave as they note what comes next: of the cores all but the clocks of k's crossings, and every memory. -/
structure State.EngineKeeps (s t : State) (k : CoreId) : Prop where
  others : ∀ i : CoreId, i ≠ k → t.cores[i] = s.cores[i]
  ctx : t.cores[k].ctx = s.cores[k].ctx
  run : t.cores[k].run = s.cores[k].run
  sram : t.cores[k].sram = s.cores[k].sram
  hbm : t.hbm = s.hbm
  host : t.host = s.host

namespace State.EngineKeeps

theorem trans {s t u : State} {k : CoreId} (h : s.EngineKeeps t k) (h' : t.EngineKeeps u k) : s.EngineKeeps u k :=
  ⟨fun i hi => (h'.others i hi).trans (h.others i hi), h'.ctx.trans h.ctx, h'.run.trans h.run, h'.sram.trans h.sram, h'.hbm.trans h.hbm,
    h'.host.trans h.host⟩
theorem of_cores {s t : State} (k : CoreId) (hc : t.cores = s.cores) (hm : t.hbm = s.hbm) (hh : t.host = s.host) : s.EngineKeeps t k := by
  refine ⟨fun i _ => ?_, ?_, ?_, ?_, hm, hh⟩ <;> rw [hc]
theorem refl (s : State) (k : CoreId) : s.EngineKeeps s k := of_cores k rfl rfl rfl
theorem soon (s : State) (k : CoreId) (l : List Due) : s.EngineKeeps (s.soon l) k := of_cores k rfl rfl rfl
theorem later (s : State) (k : CoreId) (d : Due) : s.EngineKeeps (s.later d) k := of_cores k rfl rfl rfl
theorem atClock (s : State) (k : CoreId) (t : Nat) (d : Due) : s.EngineKeeps (s.atClock t d) k := of_cores k rfl rfl rfl
theorem cross (s : State) (k : CoreId) (j : Fin 10) (d : Due) : s.EngineKeeps (s.cross k j d) k := by
  obtain ⟨hx, hr, hm⟩ := s.core_cross k k j d
  exact ⟨fun i hi => State.cores_cross j d hi, hx, hr, hm, rfl, rfl⟩
theorem completes (s : State) (k : CoreId) (m : Cmd) : s.EngineKeeps (s.completes k m) k := by
  unfold State.completes
  dsimp only
  split
  · exact cross ..
  · exact soon ..
theorem goOn (s : State) (k : CoreId) (m : Cmd) : s.EngineKeeps (s.goOn k m) k := by
  unfold State.goOn
  dsimp only
  split
  · exact (completes s k m).trans (soon ..)
  · exact soon ..
theorem foldl_later (k : CoreId) (f : Nat → Due) (l : List Nat) (s : State) : s.EngineKeeps (l.foldl (fun (s : State) i => s.later (f i)) s) k := by
  induction l generalizing s with
  | nil => exact refl s k
  | cons i l ih => exact (later s k (f i)).trans (ih _)

end State.EngineKeeps

/-- A command as it has become stands under its number. -/
theorem State.cmdOf_setCmd {s : State} {k : CoreId} {m : Cmd} (h : ∃ q ∈ s.cores[k].run.copies, q.id = m.id) :
    (s.setCmd k m).cores[k].cmdOf m.id = some m := by
  obtain ⟨q, hq, hid⟩ := h
  simp only [State.setCmd, State.cores_onCore_self, Core.cmdOf, Core.onCmd, Core.onRun]
  generalize s.cores[k].run.copies = l at hq
  induction l with
  | nil => exact absurd hq List.not_mem_nil
  | cons x l ih =>
    rw [List.map_cons, List.find?_cons]
    by_cases hx : x.id = m.id
    · simp [hx]
    · have hq := (List.mem_cons.1 hq).resolve_left fun e => hx (e ▸ hid)
      rw [if_neg hx, beq_false_of_ne hx]
      exact ih hq
/-- Two updates of a core, one after the other, are one. -/
theorem State.onCore_onCore (s : State) (k : CoreId) (f g : Core → Core) : (s.onCore k f).onCore k g = s.onCore k fun c => g (f c) := by
  change ({ s with cores := (s.cores.set k.val (f s.cores[k])).set k.val (g (s.onCore k f).cores[k]) } : State) = _
  rw [s.cores_onCore_self k f, Vector.set_set]
  rfl
/-- Of two ways in which a command has become, one after the other, the second stands. -/
theorem State.setCmd_setCmd (s : State) (k : CoreId) {m m' : Cmd} (h : m'.id = m.id) : (s.setCmd k m).setCmd k m' = s.setCmd k m' := by
  have second (q : Cmd) : (if (if q.id = m.id then m else q).id = m.id then m' else if q.id = m.id then m else q) =
      if q.id = m.id then m' else q := by
    by_cases hq : q.id = m.id <;> simp [hq]
  unfold State.setCmd
  rw [State.onCore_onCore, h]
  simp only [Core.onCmd, Core.onRun, List.map_map, Function.comp_def, second]
/-- The commands before one in its queue stay as they are when it changes. -/
theorem State.ahead_setCmd (s : State) (k : CoreId) {m m' : Cmd} (h : m'.id = m.id) :
    (s.setCmd k m').cores[k].ahead m = s.cores[k].ahead m := by
  simp only [State.setCmd, State.cores_onCore_self, Core.ahead, Core.onCmd, Core.onRun, h]
  generalize s.cores[k].run.copies = l
  induction l with
  | nil => rfl
  | cons x l ih =>
    rw [List.map_cons, List.filter_cons, List.filter_cons, ih]
    by_cases hx : x.id = m.id
    · simp [hx, h]
    · simp [hx]

end Sys2Proof.Machine
end

section
/-! SUPPORT. Atoms that start: in their order, each placed by a leaf (R189, R226, R299, R301). -/

namespace Sys2Proof.Machine

/-- What an engine has yet to do of an atom when it starts it, and what a start leaves as it is (R189). -/
def Atom.plan (a : Atom) : Role × Nat × Bool × List (Nat × Nat) × List (Nat × Byte) := (a.role, a.va, a.write, a.moves, a.pads)

/-- A leaf that a site holds for the page of an address, in any entry that covers it, is held for the whole page of 64 KiB (R297, R301). -/
theorem Site.held_page (t : Site) (sp : Space) {va va' : Nat} (h : va / 65536 = va' / 65536) : t.held sp va = t.held sp va' := by
  have page (level : Nat) : va / leafSize level = va' / leafSize level := by
    have big : ∃ j, leafSize level = 65536 * 2 ^ j := by
      have : ∃ j, levelBit level = 16 + j := ⟨levelBit level - 16, by unfold levelBit; split <;> (try split) <;> (try split) <;> rfl⟩
      obtain ⟨j, hj⟩ := this
      exact ⟨j, by rw [leafSize, hj, Nat.pow_add]⟩
    obtain ⟨j, hj⟩ := big
    rw [hj, ← Nat.div_div_eq_div_mul, ← Nat.div_div_eq_div_mul, h]
  unfold Site.held
  simp only [page]

section
variable (s : State) (site : Fin 48) (sp : Space) (tid : Word) (ready : Bool) (held : Atom → Bool)

/-- A leaf admits an atom to be started: it is the command's for the atom's page, or its site holds it and it is the command's from then on;
it permits what the atom does; and a write keeps off prompts and foreign arenas (R268, R299). -/
structure State.Admits (m m' : Cmd) (leaf : Nat × Word) (a : Atom) : Prop where
  page : (m' = m ∧ pairGet m.pages (a.va / 65536) = some leaf) ∨
    (m' = { m with pages := (a.va / 65536, leaf) :: m.pages } ∧ s.sites[site].held sp a.va = some leaf)
  permits : leafDenies leaf.2 m.priv (if a.write then .write else .read) = none
  unguarded : a.write = true → ∀ p ∈ a.moves, s.guarded sp tid (a.va + p.1) true = false

/-- A unit of padding alone as it starts. -/
def Atom.startPads (m : Cmd) (a : Atom) : Atom := { a with started := true, start := m.clock.1, served := true, done := m.kind.exact }

/-- What an engine does at an atom (R189, R226): it stops before one that has not started; it passes one that has; it starts a unit of
padding alone, or an atom that a leaf admits, with the next tick. -/
inductive State.StartsAtom (m : Cmd) (a : Atom) (r : List Atom) (next : Cmd → Cmd × List Atom × Pause) : Cmd × List Atom × Pause → Prop
  | stops (pages : List (Nat × Nat × Word)) (w : Pause) (fresh : a.started = false) :
    StartsAtom m a r next ({ m with pages := pages }, a :: r, w)
  | passes (done : a.started = true) : StartsAtom m a r next ((next m).1, a :: (next m).2.1, (next m).2.2)
  | pads (fresh : a.started = false) (fill : a.role = .fill) :
    StartsAtom m a r next ((next m).1, a.startPads m :: (next m).2.1, (next m).2.2)
  | starts (m' : Cmd) (leaf : Nat × Word) (fresh : a.started = false) (notFill : a.role ≠ .fill)
      (admits : s.Admits site sp tid m m' leaf a) :
    StartsAtom m a r next ((next m'.tick).1, s.startAtom m' leaf a :: (next m'.tick).2.1, (next m'.tick).2.2)

theorem State.startAtoms_cons (m : Cmd) (a : Atom) (r : List Atom) :
    s.StartsAtom site sp tid m a r (s.startAtoms site sp tid ready held · r) (s.startAtoms site sp tid ready held m (a :: r)) := by
  rw [State.startAtoms]
  have stops (hs : ¬ a.started = true) (w : Pause) :
      s.StartsAtom site sp tid m a r (s.startAtoms site sp tid ready held · r) (m, a :: r, w) :=
    .stops m.pages w (Bool.eq_false_of_not_eq_true hs)
  split
  next hs => exact .passes hs
  next hs =>
  split
  next => exact stops hs _
  next =>
  split
  next hf => exact .pads (Bool.eq_false_of_not_eq_true hs) (beq_iff_eq.1 hf)
  next hf =>
  split
  next => exact stops hs _
  next =>
  have goes (pages : List (Nat × Nat × Word)) (leaf : Nat × Word)
      (page : (({ m with pages := pages } : Cmd) = m ∧ pairGet m.pages (a.va / 65536) = some leaf) ∨
        (({ m with pages := pages } : Cmd) = { m with pages := (a.va / 65536, leaf) :: m.pages } ∧ s.sites[site].held sp a.va = some leaf)) :
      s.StartsAtom site sp tid m a r (s.startAtoms site sp tid ready held · r)
        (match leafDenies leaf.2 m.priv (if a.write then .write else .read) with
        | some x => ({ m with pages := pages }, a :: r, .stop x)
        | none => if (a.write && a.moves.any fun p => s.guarded sp tid (a.va + p.1) true) = true then
            ({ m with pages := pages }, a :: r, .stop stPermission)
          else
            let x := s.startAtoms site sp tid ready held ({ m with pages := pages } : Cmd).tick r
            (x.1, s.startAtom { m with pages := pages } leaf a :: x.2.1, x.2.2)) := by
    split
    next => exact .stops _ _ (Bool.eq_false_of_not_eq_true hs)
    next hd =>
      split
      next => exact .stops _ _ (Bool.eq_false_of_not_eq_true hs)
      next hg =>
        refine .starts _ leaf (Bool.eq_false_of_not_eq_true hs) (fun e => hf (beq_iff_eq.2 e)) ⟨page, hd, fun hw p hp => ?_⟩
        exact Bool.eq_false_of_not_eq_true fun h => hg (Bool.and_eq_true_iff.2 ⟨hw, List.any_eq_true.2 ⟨p, hp, h⟩⟩)
  split
  next leaf hp => exact goes m.pages leaf (.inl ⟨rfl, hp⟩)
  next =>
  split
  next => exact stops hs _
  next =>
  split
  next => exact stops hs _
  next leaf hl => exact goes _ leaf (.inr ⟨rfl, hl⟩)

/-- Starting atoms changes of a command its clock and the leaves it holds alone. -/
theorem State.startAtoms_cmd (l : List Atom) (m : Cmd) :
    ∃ clock pages, (s.startAtoms site sp tid ready held m l).1 = { m with clock := clock, pages := pages } := by
  induction l generalizing m with
  | nil => exact ⟨_, _, rfl⟩
  | cons a r ih =>
    have h := s.startAtoms_cons site sp tid ready held m a r
    generalize s.startAtoms site sp tid ready held m (a :: r) = z at h ⊢
    obtain ⟨pages, w, -⟩ | - | - | ⟨m', leaf, -, -, ⟨page, -, -⟩⟩ := h
    · exact ⟨_, pages, rfl⟩
    · exact ih m
    · exact ih m
    · obtain ⟨clock, pages, h⟩ := ih m'.tick
      refine ⟨clock, pages, h.trans ?_⟩
      obtain ⟨rfl, -⟩ | ⟨rfl, -⟩ := page <;> rfl

/-- Starting atoms leaves what each of them is for. -/
theorem State.map_plan_startAtoms (l : List Atom) (m : Cmd) :
    (s.startAtoms site sp tid ready held m l).2.1.map Atom.plan = l.map Atom.plan := by
  induction l generalizing m with
  | nil => rfl
  | cons a r ih =>
    have h := s.startAtoms_cons site sp tid ready held m a r
    generalize s.startAtoms site sp tid ready held m (a :: r) = z at h ⊢
    obtain - | - | - | ⟨m', leaf, -, -, -⟩ := h
    · rfl
    · exact congrArg (a.plan :: ·) (ih m)
    · exact congrArg (a.plan :: ·) (ih m)
    · exact congrArg (a.plan :: ·) (ih m'.tick)

/-- The leaves that a command holds are those that its site holds. -/
def State.TrueLeaves (m : Cmd) : Prop := ∀ va leaf, pairGet m.pages (va / 65536) = some leaf → s.sites[site].held sp va = some leaf

/-- An atom stands where a leaf that its site holds has placed it, which permits what it does; one of a logged page has the bytes of its
command's view. -/
def State.Placed (m : Cmd) (a : Atom) : Prop :=
  ∃ leaf, s.sites[site].held sp a.va = some leaf ∧ leafDenies leaf.2 m.priv (if a.write then .write else .read) = none ∧
    (a.write = true → ∀ p ∈ a.moves, s.guarded sp tid (a.va + p.1) true = false) ∧
    let p := placeOf s.hpat leaf.1 leaf.2 a.va
    a.dpa = p.dpa ∧ a.chan = p.chan ∧ (a.owned = !p.logged) ∧
    (p.logged = true → a.data = BitVec.ofNat 256 (viewBytes m.recs (fun d => m.home s.hbm (cellOf p.pat d)) a.va p.dpa 32))

/-- An atom that a leaf admits is placed by it, and what its command holds stays true. -/
theorem State.Admits.placed {m m' : Cmd} {leaf : Nat × Word} {a : Atom} (h : s.Admits site sp tid m m' leaf a)
    (hp : s.TrueLeaves site sp m) : s.Placed site sp tid m (s.startAtom m' leaf a) ∧ s.TrueLeaves site sp m' := by
  obtain ⟨page, permits, unguarded⟩ := h
  have hl : s.sites[site].held sp a.va = some leaf := page.elim (fun h => hp a.va leaf h.2) And.right
  have hm : m'.recs = m.recs ∧ m'.kept = m.kept := by obtain ⟨rfl, -⟩ | ⟨rfl, -⟩ := page <;> exact ⟨rfl, rfl⟩
  refine ⟨⟨leaf, hl, permits, unguarded, rfl, rfl, rfl, fun hlog => ?_⟩, ?_⟩
  · refine (if_pos hlog).trans ?_
    unfold Cmd.home
    rw [hm.1, hm.2]
    rfl
  · obtain ⟨rfl, -⟩ | ⟨rfl, -⟩ := page
    · exact hp
    · intro va leaf' h
      unfold pairGet at h
      rw [List.find?_cons] at h
      split at h
      next e =>
        obtain rfl : leaf = leaf' := Option.some.inj h
        rw [← hl]
        exact Site.held_page _ _ (beq_iff_eq.1 e).symm
      next => exact hp va leaf' h

/-- The clock at which atom j of a command starts, of 32 in a clock, and its place in it (R189). -/
def tickAt (t j : Nat) : Nat × Nat := (t + j / 32, j % 32)
theorem Cmd.clock_tick {m : Cmd} {t j : Nat} (h : m.clock = tickAt t j) : m.tick.clock = tickAt t (j + 1) := by
  unfold Cmd.tick
  rw [h]
  unfold tickAt
  dsimp only
  split <;> simp only [Prod.mk.injEq] <;> omega

/-- Of atoms that have not started and are not of a record or a walk, an engine starts the first ones, in their order, 32 in a clock, each placed
by a leaf of its site; units of padding alone take no part in the count (R189, R226). -/
theorem State.startAtoms_placed (l : List Atom) (m : Cmd) {t j : Nat} (hl : ∀ a ∈ l, a.started = false ∧ (a.role = .bytes ∨ a.role = .fill))
    (hp : s.TrueLeaves site sp m) (hc : m.clock = tickAt t j) : ∃ x y, (s.startAtoms site sp tid ready held m l).2.1 = x ++ y ∧
      (∀ a ∈ x, a.started = true) ∧ (∀ a ∈ y, a.started = false) ∧
      ∀ i a, (x.filter (·.role == .bytes))[i]? = some a → a.start = t + (j + i) / 32 ∧ s.Placed site sp tid m a := by
  induction l generalizing m j with
  | nil => exact ⟨[], [], rfl, by simp, by simp, by simp⟩
  | cons a r ih =>
    have hr : ∀ a ∈ r, a.started = false ∧ (a.role = .bytes ∨ a.role = .fill) := fun b hb => hl b (List.mem_cons_of_mem a hb)
    obtain ⟨fresh, role⟩ := hl a List.mem_cons_self
    have h := s.startAtoms_cons site sp tid ready held m a r
    generalize s.startAtoms site sp tid ready held m (a :: r) = z at h ⊢
    obtain - | done | ⟨-, fill⟩ | ⟨m', leaf, -, notFill, admits⟩ := h
    · exact ⟨[], a :: r, rfl, by simp, fun b hb => (hl b hb).1, by simp⟩
    · exact absurd done (by simp [fresh])
    · obtain ⟨x, y, e, hx, hy, hi⟩ := ih m hr hp hc
      have : (a.startPads m).role = .fill := fill
      refine ⟨a.startPads m :: x, y, congrArg _ e, List.forall_mem_cons.2 ⟨rfl, hx⟩, hy, fun i b hb => hi i b ?_⟩
      rwa [List.filter_cons_of_neg (by simp [this])] at hb
    · obtain ⟨placed, hp'⟩ := admits.placed s site sp tid hp
      have hm : ∀ b, s.Placed site sp tid m'.tick b → s.Placed site sp tid m b := by
        obtain ⟨rfl, -⟩ | ⟨rfl, -⟩ := admits.page <;> exact fun _ h => h
      have hc' : m'.clock = tickAt t j := by
        obtain ⟨rfl, -⟩ | ⟨rfl, -⟩ := admits.page <;> exact hc
      obtain ⟨x, y, e, hx, hy, hi⟩ := ih m'.tick hr hp' (Cmd.clock_tick hc')
      refine ⟨s.startAtom m' leaf a :: x, y, congrArg _ e, List.forall_mem_cons.2 ⟨rfl, hx⟩, hy, fun i b hb => ?_⟩
      have bytes : (s.startAtom m' leaf a).role = .bytes := role.resolve_right notFill
      rw [List.filter_cons_of_pos (by simp [bytes])] at hb
      cases i with
      | zero =>
        obtain rfl := Option.some.inj hb
        exact ⟨congrArg Prod.fst hc', placed⟩
      | succ i =>
        obtain ⟨start, placed⟩ := hi i b hb
        exact ⟨start.trans (by rw [Nat.add_right_comm, Nat.add_assoc]), hm b placed⟩

end

end Sys2Proof.Machine
end

section
/-! SUPPORT. A running command whose engine starts what atoms it can (R189, R228, R299). -/

namespace Sys2Proof.Machine

/-- A command that has stopped with a failure (R228). -/
def Cmd.stop (m : Cmd) (status : Word) : Cmd :=
  { m with planned := true, halted := true, walk := none, atoms := m.atoms.filter (·.started), status := addFail m.status status }
theorem State.halt_eq (s : State) (k : CoreId) (m : Cmd) (status : Word) :
    s.halt k m status = (s.setCmd k (m.stop status)).goOn k (m.stop status) := rfl
theorem State.EngineKeeps.halt (s : State) (k : CoreId) (m : Cmd) (status : Word) :
    (s.setCmd k (m.stop status)).EngineKeeps (s.halt k m status) k := goOn ..

/-- A command after its engine has started what atoms it can. -/
def State.startedCmd (s : State) (k : CoreId) (ready : Bool) (held : Atom → Bool) (m : Cmd) : Cmd :=
  let r := s.startAtoms (siteOf k) (s.spaceOn k) s.cores[k].ctx.x.tid ready held m m.atoms
  { r.1 with atoms := r.2.1 }
/-- What a running command has become when its engine has started what atoms it can: as it was, or with atoms that have started; and then
it may walk, or have stopped (R189, R228, R299). -/
inductive State.Ran (s : State) (k : CoreId) (m : Cmd) : Cmd → Prop
  | waits : Ran s k m m
  | starts (ready : Bool) (held : Atom → Bool) : Ran s k m (s.startedCmd k ready held m)
  | walks (ready : Bool) (held : Atom → Bool) (w : Walk) (now : Nat) : Ran s k m ((s.startedCmd k ready held m).walks w now)
  | stops (ready : Bool) (held : Atom → Bool) (status : Word) : Ran s k m ((s.startedCmd k ready held m).stop status)

/-- What a command becomes is kept by whatever keeps the rest. -/
theorem State.EngineKeeps.setCmd {s t : State} {k : CoreId} (h : s.EngineKeeps t k) (m : Cmd) : (s.setCmd k m).EngineKeeps (t.setCmd k m) k where
  others i hi := by rw [State.setCmd, State.setCmd, State.cores_onCore _ _ _ _ hi, State.cores_onCore _ _ _ _ hi, h.others i hi]
  ctx := by rw [State.setCmd, State.setCmd, State.cores_onCore_self, State.cores_onCore_self]; exact h.ctx
  run := by
    rw [State.setCmd, State.setCmd, State.cores_onCore_self, State.cores_onCore_self]
    exact congrArg (fun r : Run => { r with copies := r.copies.map fun q : Cmd => if q.id = m.id then m else q }) h.run
  sram := by rw [State.setCmd, State.setCmd, State.cores_onCore_self, State.cores_onCore_self]; exact h.sram
  hbm := h.hbm
  host := h.host

/-- A running command of a clock no earlier than those of its queue before it starts what atoms it can. -/
theorem State.runCmd_ran (s : State) (k : CoreId) (m : Cmd) (hc : s.cores[k].firstClock m s.now ≤ m.clock.1) :
    ∃ m', s.Ran k m m' ∧ (s.setCmd k m').EngineKeeps (s.runCmd k m) k := by
  unfold State.runCmd
  dsimp only
  rw [if_neg (Nat.not_lt.2 hc)]
  split
  · exact ⟨m, .waits, .refl ..⟩
  next =>
  have fills (l : List Nat) (m' : Cmd) : (s.setCmd k m').EngineKeeps ((l.foldl (fun (s : State) i =>
      s.later (.dev .readAtomWrite (.atom k m.id i))) s).setCmd k m') k := (State.EngineKeeps.foldl_later ..).setCmd m'
  split
  · exact ⟨_, .starts .., (fills _ _).trans (.goOn ..)⟩
  · exact ⟨_, .starts .., fills _ _⟩
  · exact ⟨_, .starts .., (fills _ _).trans (.atClock ..)⟩
  · exact ⟨_, .walks .., fills _ _⟩
  · exact ⟨_, .stops .., (fills _ _).trans (.halt ..)⟩

/-- Atoms that are for the same in the same order are so role by role. -/
theorem map_plan_filter {l l' : List Atom} (h : l.map Atom.plan = l'.map Atom.plan) (r : Role) :
    (l.filter (·.role == r)).map Atom.plan = (l'.filter (·.role == r)).map Atom.plan := by
  have by_plan (l : List Atom) : (l.filter (·.role == r)).map Atom.plan = (l.map Atom.plan).filter (·.1 == r) := by
    rw [List.filter_map]
    rfl
  rw [by_plan, by_plan, h]

/-- A walk's entry is of no other role. -/
theorem filter_walks (m : Cmd) (w : Walk) (now : Nat) {r : Role} (hr : r ≠ .entry) :
    (m.walks w now).atoms.filter (·.role == r) = m.atoms.filter (·.role == r) := by
  have : (w.atom now).role = .entry := rfl
  rw [Cmd.walks, List.filter_append, List.filter_cons_of_neg (by simp [this, hr.symm]), List.filter_nil, List.append_nil]

namespace State.Ran
variable {s : State} {k : CoreId} {m m' : Cmd}

theorem same (h : s.Ran k m m') : m'.id = m.id ∧ m'.phase = m.phase ∧ m'.recs = m.recs := by
  have started (ready : Bool) (held : Atom → Bool) : (s.startedCmd k ready held m).id = m.id ∧
      (s.startedCmd k ready held m).phase = m.phase ∧ (s.startedCmd k ready held m).recs = m.recs := by
    obtain ⟨clock, pages, e⟩ := s.startAtoms_cmd (siteOf k) (s.spaceOn k) s.cores[k].ctx.x.tid ready held m.atoms m
    unfold State.startedCmd
    dsimp only
    rw [e]
    exact ⟨rfl, rfl, rfl⟩
  cases h with
  | waits => exact ⟨rfl, rfl, rfl⟩
  | starts ready held => exact started ready held
  | walks ready held => exact started ready held
  | stops ready held => exact started ready held

theorem planned (h : s.Ran k m m') (hm : m'.halted = false) : m'.planned = m.planned := by
  have started (ready : Bool) (held : Atom → Bool) : (s.startedCmd k ready held m).planned = m.planned := by
    obtain ⟨clock, pages, e⟩ := s.startAtoms_cmd (siteOf k) (s.spaceOn k) s.cores[k].ctx.x.tid ready held m.atoms m
    unfold State.startedCmd
    dsimp only
    rw [e]
  cases h with
  | waits => rfl
  | starts ready held => exact started ready held
  | walks ready held => exact started ready held
  | stops => cases hm

/-- A command that has not stopped is to do with its atoms what it was. -/
theorem plan (h : s.Ran k m m') (hm : m'.halted = false) {r : Role} (hr : r ≠ .entry) :
    (m'.atoms.filter (·.role == r)).map Atom.plan = (m.atoms.filter (·.role == r)).map Atom.plan := by
  have started (ready : Bool) (held : Atom → Bool) : (((s.startedCmd k ready held m).atoms.filter (·.role == r)).map Atom.plan) =
      (m.atoms.filter (·.role == r)).map Atom.plan := map_plan_filter (State.map_plan_startAtoms ..) r
  cases h with
  | waits => rfl
  | starts ready held => exact started ready held
  | walks ready held w now => rw [filter_walks _ w now hr, started ready held]
  | stops => cases hm

/-- But for the entry of a walk a command has no atom that it did not have. -/
theorem origin (h : s.Ran k m m') {b : Atom} (hb : b ∈ m'.atoms) (hr : b.role ≠ .entry) : ∃ a ∈ m.atoms, a.plan = b.plan := by
  have started {ready : Bool} {held : Atom → Bool} (hb : b ∈ (s.startedCmd k ready held m).atoms) : ∃ a ∈ m.atoms, a.plan = b.plan := by
    have e := s.map_plan_startAtoms (siteOf k) (s.spaceOn k) s.cores[k].ctx.x.tid ready held m.atoms m
    exact List.mem_map.1 (e ▸ List.mem_map_of_mem (f := Atom.plan) hb)
  cases h with
  | waits => exact ⟨b, hb, rfl⟩
  | starts => exact started hb
  | walks _ _ w now => exact started ((List.mem_append.1 hb).resolve_right fun h => hr (List.mem_singleton.1 h ▸ rfl))
  | stops => exact started (List.mem_of_mem_filter hb)

/-- Every byte of padding of a command that has not stopped still goes with an atom. -/
theorem pads (h : s.Ran k m m') (hm : m'.halted = false) {a : Atom} (ha : a ∈ m.atoms) : ∃ b ∈ m'.atoms, b.pads = a.pads := by
  have started (ready : Bool) (held : Atom → Bool) : ∃ b ∈ (s.startedCmd k ready held m).atoms, b.pads = a.pads := by
    have e := s.map_plan_startAtoms (siteOf k) (s.spaceOn k) s.cores[k].ctx.x.tid ready held m.atoms m
    obtain ⟨b, hb, hp⟩ := List.mem_map.1 (e ▸ List.mem_map_of_mem (f := Atom.plan) ha)
    exact ⟨b, hb, congrArg (·.2.2.2.2) hp⟩
  cases h with
  | waits => exact ⟨a, ha, rfl⟩
  | starts ready held => exact started ready held
  | walks ready held =>
    obtain ⟨b, hb, hp⟩ := started ready held
    exact ⟨b, List.mem_append_left _ hb, hp⟩
  | stops => cases hm

/-- The atoms of a command that starts, first of none, are placed in their order, 32 in a clock from its clock on (R189). -/
theorem placed (h : s.Ran k m m') {t : Nat} (hl : ∀ a ∈ m.atoms, a.started = false ∧ (a.role = .bytes ∨ a.role = .fill))
    (hp : m.pages = []) (hc : m.clock = (t, 0)) (i : Nat) (a : Atom) (ha : (m'.atoms.filter (·.role == .bytes))[i]? = some a)
    (hs : a.started = true) : a.start = t + i / 32 ∧ s.Placed (siteOf k) (s.spaceOn k) s.cores[k].ctx.x.tid m a := by
  have leaves : s.TrueLeaves (siteOf k) (s.spaceOn k) m := by
    intro va leaf e
    rw [hp] at e
    cases e
  have started (ready : Bool) (held : Atom → Bool) : ∃ x y, (s.startedCmd k ready held m).atoms = x ++ y ∧ _ ∧ _ ∧ _ :=
    s.startAtoms_placed (siteOf k) (s.spaceOn k) s.cores[k].ctx.x.tid ready held m.atoms m hl leaves (t := t) (j := 0) hc
  have first {x y : List Atom} (he : m'.atoms.filter (·.role == .bytes) = (x ++ y).filter (·.role == .bytes))
      (hy : ∀ a ∈ y, a.started = false) : (x.filter (·.role == .bytes))[i]? = some a := by
    rw [he, List.filter_append] at ha
    by_cases hi : i < (x.filter (·.role == .bytes)).length
    · rwa [List.getElem?_append_left hi] at ha
    · rw [List.getElem?_append_right (Nat.le_of_not_lt hi)] at ha
      exact absurd hs (by simp [hy a (List.mem_of_mem_filter (List.mem_of_getElem? ha))])
  cases h with
  | waits => exact absurd hs (by simp [(hl a (List.mem_of_mem_filter (List.mem_of_getElem? ha))).1])
  | starts ready held =>
    obtain ⟨x, y, e, -, hy, hi⟩ := started ready held
    exact Nat.zero_add i ▸ hi i a (first (congrArg _ e) hy)
  | walks ready held w now =>
    obtain ⟨x, y, e, -, hy, hi⟩ := started ready held
    exact Nat.zero_add i ▸ hi i a (first ((filter_walks _ w now (by decide)).trans (congrArg _ e)) hy)
  | stops ready held status =>
    obtain ⟨x, y, e, hx, hy, hi⟩ := started ready held
    have e : ((s.startedCmd k ready held m).stop status).atoms = x := by
      rw [Cmd.stop, e, List.filter_append, List.filter_eq_self.2 hx, List.filter_eq_nil_iff.2 (by simpa using hy), List.append_nil]
    exact Nat.zero_add i ▸ hi i a (first (y := []) (by rw [e, List.append_nil]) (by simp))

end State.Ran

end Sys2Proof.Machine
end

section
/-! SUPPORT. A command laid out by its shape record, and the atoms of one between a far tensor and a scratchpad (R184, R202, R226). -/

namespace Sys2Proof.Machine

/-- The clock before which a command starts nothing stays as it is when the command changes. -/
theorem State.firstClock_setCmd (s : State) (k : CoreId) {m m' : Cmd} (h : m'.id = m.id) (hq : m'.queue = m.queue) (now : Nat) :
    (s.setCmd k m').cores[k].firstClock m' now = s.cores[k].firstClock m now := by
  have same : (s.setCmd k m').cores[k].ahead m' = (s.setCmd k m').cores[k].ahead m := by simp only [Core.ahead, h, hq]
  unfold Core.firstClock
  rw [same, s.ahead_setCmd k h]

/-- A command laid out: what a shape record changes of one (R226). -/
structure Cmd.LaidOut (m m' : Cmd) : Prop where
  id : m'.id = m.id
  queue : m'.queue = m.queue
  phase : m'.phase = m.phase
  clock : m'.clock = m.clock
  recs : m'.recs = m.recs
theorem Cmd.LaidOut.of_some {m m' n : Cmd} (e : some n = some m') (h : m.LaidOut n) : m.LaidOut m' := Option.some.inj e ▸ h
theorem Cmd.LaidOut.of_tested {m m' n : Cmd} {faulty : Bool} (e : (if faulty then none else some n) = some m') (h : m.LaidOut n) :
    m.LaidOut m' := by
  cases faulty
  · exact of_some e h
  · exact absurd e nofun
theorem State.shaped_laidOut {s : State} {k : CoreId} {m m' : Cmd} {h : Shape} (e : s.shaped k m h = some m') : m.LaidOut m' := by
  unfold State.shaped at e
  dsimp only at e
  split at e
  · exact absurd e nofun
  cases hk : m.kind <;> simp only [hk] at e
  case spill | fill => exact .of_some e ⟨rfl, rfl, rfl, rfl, rfl⟩
  case mc =>
    split at e
    · exact .of_some e ⟨rfl, rfl, rfl, rfl, rfl⟩
    · exact .of_tested e ⟨rfl, rfl, rfl, rfl, rfl⟩
  all_goals exact .of_tested e ⟨rfl, rfl, rfl, rfl, rfl⟩

/-- The scratchpad address of a copy between a far tensor and a scratchpad (R226). -/
def Cmd.nearAddr (m : Cmd) : Nat := if m.kind == .out then m.a.toNat else m.b.toNat
/-- The origin of its far side. -/
def Cmd.farAddr (m : Cmd) (h : Shape) : Int := (h.base : Int) + (if m.kind == .out then m.b else m.a).toInt
/-- The atoms of such a copy, an inbound one's with its padding. -/
def Cmd.shapedAtoms (m : Cmd) (h : Shape) : List Atom :=
  let l := toAtoms .bytes (m.kind == .out) (gatherAtoms (h.pairs (m.farAddr h) m.nearAddr))
  if m.kind == .out then l else padAtoms l (h.fills m.nearAddr)

/-- A CPY.IN, a CPY.INX and a CPY.OUT are laid out by a record that fits and whose bytes the task holds (R226). -/
theorem State.shaped_copy (s : State) (k : CoreId) {m : Cmd} (h : Shape) (hk : m.kind = .cin ∨ m.kind = .inx ∨ m.kind = .out) :
    (h.unfit = true ∨ s.cores[k].granted < m.nearAddr + h.footprint → s.shaped k m h = none) ∧
    (¬ (h.unfit = true ∨ s.cores[k].granted < m.nearAddr + h.footprint) →
      s.shaped k m h = some { m with planned := true, swz := h.swz, atoms := m.shapedAtoms h }) := by
  unfold State.shaped Cmd.shapedAtoms Cmd.farAddr Cmd.nearAddr
  by_cases hu : h.unfit = true
  · simp [hu]
  · rcases hk with hk | hk | hk <;> by_cases hf : s.cores[k].granted < (if m.kind == .out then m.a.toNat else m.b.toNat) + h.footprint <;>
      simp_all [Cmd.scrAddr] <;> rfl

/-- The bytes that an atom moves: from or to an atom of far memory, in element order. -/
def Atom.carries (a : Atom) : Nat × Bool × List (Nat × Nat) := (a.va, a.write, a.moves)
/-- Atoms that are for the same carry the same bytes. -/
theorem map_carries_of_plan {l l' : List Atom} (h : l.map Atom.plan = l'.map Atom.plan) : l.map Atom.carries = l'.map Atom.carries := by
  have by_plan (l : List Atom) : l.map Atom.carries = (l.map Atom.plan).map fun p => (p.2.1, p.2.2.1, p.2.2.2.1) := by
    rw [List.map_map]
    rfl
  rw [by_plan, by_plan, h]

theorem mem_toAtoms {r : Role} {write : Bool} {l : List (Nat × List (Nat × Nat))} {a : Atom} (h : a ∈ toAtoms r write l) :
    a.role = r ∧ a.started = false ∧ a.write = write ∧ a.pads = [] := by
  obtain ⟨p, -, rfl⟩ := List.mem_map.1 h
  exact ⟨rfl, rfl, rfl, rfl⟩
theorem map_carries_toAtoms (r : Role) (write : Bool) (l : List (Nat × List (Nat × Nat))) :
    (toAtoms r write l).map Atom.carries = l.map fun p => (32 * p.1, write, p.2) := List.map_map
theorem filter_toAtoms (r : Role) (write : Bool) (l : List (Nat × List (Nat × Nat))) :
    (toAtoms r write l).filter (·.role == r) = toAtoms r write l :=
  List.filter_eq_self.2 fun _ ha => beq_iff_eq.2 (mem_toAtoms ha).1

/-- An atom of a padded copy brings bytes, as one that was laid out does, or is padding alone. -/
theorem mem_padAtoms {l : List Atom} {fills : List (Nat × Byte)} (hl : ∀ a ∈ l, a.pads = []) {a : Atom} (h : a ∈ padAtoms l fills) :
    (a ∈ (padAtoms l fills).take l.length ∧ { a with pads := [] } ∈ l) ∨ ∃ u, a = padAlone fills u := by
  rw [← List.take_append_drop l.length (padAtoms l fills)] at h
  refine (List.mem_append.1 h).imp (fun h => ⟨h, ?_⟩) fun h => ?_
  · have := List.mem_map_of_mem (f := fun a : Atom => { a with pads := [] }) h
    rwa [map_take_padAtoms fills hl] at this
  · rw [drop_padAtoms] at h
    obtain ⟨u, -, e⟩ := List.mem_map.1 h
    exact ⟨u, e.symm⟩
/-- Padding leaves the bytes that atoms carry. -/
theorem map_carries_padAtoms {l : List Atom} (fills : List (Nat × Byte)) (hl : ∀ a ∈ l, a.role = .bytes ∧ a.pads = []) :
    ((padAtoms l fills).filter (·.role == .bytes)).map Atom.carries = l.map Atom.carries := by
  have pads : ∀ a ∈ l, a.pads = [] := fun a ha => (hl a ha).2
  have bytes : ((padAtoms l fills).take l.length).map Atom.carries = l.map Atom.carries := by
    conv_rhs => rw [← map_take_padAtoms fills pads, List.map_map]
    rfl
  have front : ((padAtoms l fills).take l.length).filter (·.role == .bytes) = (padAtoms l fills).take l.length := by
    refine List.filter_eq_self.2 fun a ha => beq_iff_eq.2 ?_
    have := List.mem_map_of_mem (f := fun a : Atom => { a with pads := [] }) ha
    rw [map_take_padAtoms fills pads] at this
    exact (hl _ this).1
  have back : ((padAtoms l fills).drop l.length).filter (·.role == .bytes) = [] := by
    refine List.filter_eq_nil_iff.2 fun a ha => ?_
    simp [(pads_drop_padAtoms a ha).1]
  rw [← List.take_append_drop l.length (padAtoms l fills), List.filter_append, front, back, List.append_nil, bytes]

section
variable (m : Cmd) (h : Shape)

/-- Nothing of a copy laid out has started. -/
theorem Cmd.shapedAtoms_fresh : ∀ a ∈ m.shapedAtoms h, a.started = false ∧ (a.role = .bytes ∨ a.role = .fill) := by
  intro a ha
  have laid {l : List (Nat × List (Nat × Nat))} {w : Bool} {a : Atom} (ha : a ∈ toAtoms .bytes w l) : a.started = false ∧ a.role = .bytes :=
    ⟨(mem_toAtoms ha).2.1, (mem_toAtoms ha).1⟩
  unfold Cmd.shapedAtoms at ha
  dsimp only at ha
  split at ha
  · exact (laid ha).imp_right .inl
  · obtain ⟨-, ha⟩ | ⟨u, rfl⟩ := mem_padAtoms (fun _ hb => (mem_toAtoms hb).2.2.2) ha
    · exact (laid ha).imp_right .inl
    · exact ⟨rfl, .inr rfl⟩
/-- Its atoms write far memory in an outbound copy. -/
theorem Cmd.shapedAtoms_write : ∀ a ∈ m.shapedAtoms h, a.role = .bytes → a.write = (m.kind == .out) := by
  intro a ha bytes
  unfold Cmd.shapedAtoms at ha
  dsimp only at ha
  split at ha
  · exact (mem_toAtoms ha).2.2.1
  · obtain ⟨-, ha⟩ | ⟨u, rfl⟩ := mem_padAtoms (fun _ hb => (mem_toAtoms hb).2.2.2) ha
    · exact (mem_toAtoms ha).2.2.1
    · exact absurd bytes nofun
theorem Cmd.shapedAtoms_carries : ((m.shapedAtoms h).filter (·.role == .bytes)).map Atom.carries =
    (gatherAtoms (h.pairs (m.farAddr h) m.nearAddr)).map fun p => (32 * p.1, m.kind == .out, p.2) := by
  unfold Cmd.shapedAtoms
  dsimp only
  split
  · rw [filter_toAtoms, map_carries_toAtoms]
  · rw [map_carries_padAtoms _ fun _ hb => ⟨(mem_toAtoms hb).1, (mem_toAtoms hb).2.2.2⟩, map_carries_toAtoms]
theorem Cmd.shapedAtoms_pads (hk : (m.kind == .out) = false) : ∀ p ∈ h.fills m.nearAddr, ∃ a ∈ m.shapedAtoms h, p ∈ a.pads := by
  intro p hp
  unfold Cmd.shapedAtoms
  rw [hk]
  exact exists_pads_padAtoms _ hp
end

end Sys2Proof.Machine
end

section
/-! SUPPORT. A command that starts (R182, R206, R226, R250). -/

namespace Sys2Proof.Machine

section
variable (s : State) (k : CoreId) (m : Cmd)

/-- A command laid out starts what atoms it can, or others are to start it (R347, R353). -/
theorem State.launchCmd_ran (held : Bool) (hc : s.cores[k].firstClock m s.now ≤ m.clock.1) :
    ∃ m', (s.setCmd k m).Ran k m m' ∧ (s.setCmd k m').EngineKeeps (s.launchCmd k m held) k := by
  have crosses (d : Due) : (s.setCmd k m).EngineKeeps
      (if m.atoms.isEmpty then (s.setCmd k m).goOn k m else ((s.setCmd k m).cross k 0 d).goOn k m) k := by
    split
    · exact .goOn ..
    · exact (State.EngineKeeps.cross ..).trans (.goOn ..)
  have runs : ∃ m', (s.setCmd k m).Ran k m m' ∧ (s.setCmd k m').EngineKeeps
      (if held then (s.setCmd k m).runCmd k m else (s.setCmd k m).later (.dev .copyStart (.cmd k m.id))) k := by
    split
    · obtain ⟨m', ran, keeps⟩ := (s.setCmd k m).runCmd_ran k m ((s.firstClock_setCmd k rfl rfl _).trans_le hc)
      exact ⟨m', ran, s.setCmd_setCmd k ran.same.1 ▸ keeps⟩
    · exact ⟨m, .waits, .later ..⟩
  unfold State.launchCmd
  dsimp only
  split
  · exact ⟨m, .waits, crosses _⟩
  · exact ⟨m, .waits, crosses _⟩
  · exact ⟨m, .waits, crosses _⟩
  · exact ⟨m, .waits, crosses _⟩
  · exact runs

/-- What a command has become when its record is there (R182, R226): stale, of a record of another generation; stopped, of one that does not
fit; or laid out by it. -/
inductive State.Plans (h : Shape) : Cmd → Prop
  | stale (other : h.gen ≠ (m.handle.extractLsb' 20 12).toNat) : Plans h { m with swz := h.swz, planned := true, stale := true, atoms := [] }
  | stops (same : h.gen = (m.handle.extractLsb' 20 12).toNat) (unfit : s.shaped k { m with swz := h.swz } h = none) :
    Plans h (Cmd.stop { m with swz := h.swz, atoms := [] } stPermission)
  | runs (n m' : Cmd) (same : h.gen = (m.handle.extractLsb' 20 12).toNat) (fits : s.shaped k { m with swz := h.swz } h = some n)
    (ran : (s.setCmd k n).Ran k n m') : Plans h m'

theorem State.planCmd_plans (bits : BitVec 512) (held : Bool) (hc : s.cores[k].firstClock m s.now ≤ m.clock.1) :
    ∃ m', s.Plans k m (shapeOf bits) m' ∧ (s.setCmd k m').EngineKeeps (s.planCmd k m bits held) k := by
  unfold State.planCmd
  dsimp only
  split
  next other => exact ⟨_, .stale (by simpa using other), .goOn ..⟩
  next same =>
    have same : (shapeOf bits).gen = (m.handle.extractLsb' 20 12).toNat := by simpa using same
    split
    next unfit => exact ⟨_, .stops same unfit, .halt ..⟩
    next n fits =>
      have laid := State.shaped_laidOut fits
      have ahead : s.cores[k].ahead n = s.cores[k].ahead m := by simp only [Core.ahead, laid.id, laid.queue]
      have hc : s.cores[k].firstClock n s.now ≤ n.clock.1 := by
        rw [laid.clock, Core.firstClock, ahead]
        exact hc
      obtain ⟨m', ran, keeps⟩ := s.launchCmd_ran k n held hc
      exact ⟨m', .runs n m' same fits ran, keeps⟩
theorem State.Plans.same {s : State} {k : CoreId} {m m' : Cmd} {h : Shape} (p : s.Plans k m h m') :
    m'.id = m.id ∧ m'.phase = m.phase ∧ m'.recs = m.recs := by
  cases p with
  | stale | stops => exact ⟨rfl, rfl, rfl⟩
  | runs n m' same fits ran =>
    have laid := State.shaped_laidOut fits
    obtain ⟨id, phase, recs⟩ := ran.same
    exact ⟨id.trans laid.id, phase.trans laid.phase, recs.trans laid.recs⟩

/-- A command as it begins: its view is taken (R206). -/
def State.beginCmd : Cmd :=
  { m with
    phase := .running, clock := (s.cores[k].firstClock m s.now, 0)
    recs := match s.taskOf s.cores[k].ctx.x.tid with
      | some t => s.replay s.cores[k].ctx.x.tid (s.viewOf t m.hole)
      | none => [] }
/-- The address of the shape table of the launch on a core; zero where there is none. -/
def State.shapeTable : Nat := ((s.launchOn k).map (·.lrec.shapes)).getD 0
/-- The address of a command's shape record (R182). -/
def State.recordAddr : Nat := s.shapeTable k + 64 * (m.handle.extractLsb' 0 20).toNat
/-- The record that the site of a core holds for a command (R250). -/
def State.heldRecord : Option ShapeLine :=
  s.sites[siteOf k].records.find? fun r => r.isOf (s.spaceOn k) && r.va == s.recordAddr k m
/-- The state in which the engines look at a command that starts: they are to look for another one. -/
def State.looking : State := s.soon [devCore .copyStart k]
/-- A record that a site holds is the most recent one from then on. -/
def State.keepsRecord (r : ShapeLine) : State := { s.looking k with sites := s.sites.set (siteOf k) (s.sites[siteOf k].keep r) }

/-- What a command has become when it has started (R182, R226, R250). -/
inductive State.Begins : Cmd → Prop
  | moves (m' : Cmd) (moves : m.kind.moves = true) (ran : (s.looking k).Ran k
      { s.beginCmd k m with planned := true, atoms := toAtoms .bytes (m.kind == .spill) (gatherAtoms m.imagePairs) } m') : Begins m'
  | tableless (copies : m.kind.moves = false) (none : s.shapeTable k = 0) : Begins { s.beginCmd k m with planned := true, stale := true }
  | reads (m' : Cmd) (copies : m.kind.moves = false) (table : s.shapeTable k ≠ 0) (unheld : s.heldRecord k m = none)
      (ran : (s.looking k).Ran k
        { s.beginCmd k m with atoms := toAtoms .record false [(s.recordAddr k m / 32, []), (s.recordAddr k m / 32 + 1, [])] } m') : Begins m'
  | plans (m' : Cmd) (r : ShapeLine) (copies : m.kind.moves = false) (table : s.shapeTable k ≠ 0) (held : s.heldRecord k m = some r)
      (plans : (s.keepsRecord k r).Plans k (s.beginCmd k m) (shapeOf r.bits) m') : Begins m'

theorem State.startCmd_eq : s.startCmd k m =
    if m.kind.moves then (s.looking k).runCmd k
      { s.beginCmd k m with planned := true, atoms := toAtoms .bytes (m.kind == .spill) (gatherAtoms m.imagePairs) }
    else if s.shapeTable k = 0 then
      ((s.looking k).setCmd k { s.beginCmd k m with planned := true, stale := true }).goOn k
        { s.beginCmd k m with planned := true, stale := true }
    else match s.heldRecord k m with
      | some r => (s.keepsRecord k r).planCmd k (s.beginCmd k m) r.bits true
      | none => (s.looking k).runCmd k
        { s.beginCmd k m with atoms := toAtoms .record false [(s.recordAddr k m / 32, []), (s.recordAddr k m / 32 + 1, [])] } := rfl

theorem State.startCmd_begins : ∃ m', s.Begins k m m' ∧ (s.setCmd k m').EngineKeeps (s.startCmd k m) k := by
  have keeps_record (r : ShapeLine) (m' : Cmd) : (s.setCmd k m').EngineKeeps ((s.keepsRecord k r).setCmd k m') k :=
    (State.EngineKeeps.of_cores k rfl rfl rfl : s.EngineKeeps (s.keepsRecord k r) k).setCmd m'
  have looks (m' : Cmd) : (s.setCmd k m').EngineKeeps ((s.looking k).setCmd k m') k := State.EngineKeeps.setCmd (.soon ..) m'
  rw [startCmd_eq]
  split
  next moves =>
    obtain ⟨m', ran, keeps⟩ := (s.looking k).runCmd_ran k
      { s.beginCmd k m with planned := true, atoms := toAtoms .bytes (m.kind == .spill) (gatherAtoms m.imagePairs) } (Nat.le_refl _)
    exact ⟨m', .moves m' moves ran, (looks m').trans keeps⟩
  next copies =>
  have copies := Bool.eq_false_of_not_eq_true copies
  split
  next none => exact ⟨_, .tableless copies none, (looks _).trans (.goOn ..)⟩
  next table =>
  split
  next r held =>
    obtain ⟨m', plans, keeps⟩ := (s.keepsRecord k r).planCmd_plans k (s.beginCmd k m) r.bits true (Nat.le_refl _)
    exact ⟨m', .plans m' r copies table held plans, (keeps_record r m').trans keeps⟩
  next unheld =>
    obtain ⟨m', ran, keeps⟩ := (s.looking k).runCmd_ran k { s.beginCmd k m with
      atoms := toAtoms .record false [(s.recordAddr k m / 32, []), (s.recordAddr k m / 32 + 1, [])] } (Nat.le_refl _)
    exact ⟨m', .reads m' copies table unheld ran, (looks m').trans keeps⟩
end

/-- COPY_START with a core: its first command whose start rule holds starts, if there is one (R227). -/
theorem State.exec_copyStart_none {s : State} {k : CoreId} (harg : s.arg = .core k) (h : s.cores[k].run.copies.find? s.cores[k].mayStart = none) :
    exec .copyStart s = .next s := by
  change execCopyStart s = _
  simp only [execCopyStart, harg, h]
theorem State.exec_copyStart_some {s : State} {k : CoreId} {m : Cmd} (harg : s.arg = .core k)
    (h : s.cores[k].run.copies.find? s.cores[k].mayStart = some m) : exec .copyStart s = .next (s.startCmd k m) := by
  change execCopyStart s = _
  simp only [execCopyStart, harg, h]

theorem State.Begins.same {s : State} {k : CoreId} {m m' : Cmd} (b : s.Begins k m m') :
    m'.id = m.id ∧ m'.phase = .running ∧ m'.recs = (s.beginCmd k m).recs := by
  cases b with
  | moves _ _ ran => exact ran.same
  | tableless => exact ⟨rfl, rfl, rfl⟩
  | reads _ _ _ _ ran => exact ran.same
  | plans _ _ _ _ _ plans => exact plans.same

/-- Where a leaf of a site places an atom is the same in another state of the same leaves, guards, pattern and memory. -/
theorem State.Placed.of_same {s t : State} {site : Fin 48} {sp : Space} {tid : Word} {m : Cmd} {a : Atom} (h : t.Placed site sp tid m a)
    (tlb : t.sites[site].tlb = s.sites[site].tlb) (groups : t.groups = s.groups) (tasks : t.tasks = s.tasks) (launches : t.launches = s.launches)
    (hpat : t.hpat = s.hpat) (hbm : t.hbm = s.hbm) : s.Placed site sp tid m a := by
  unfold State.Placed Site.held State.guarded State.groupLive State.launchOf at *
  simpa only [tlb, groups, tasks, launches, hpat, hbm] using h

/-- A command that changes leaves the rest of its core. -/
theorem State.core_setCmd (s : State) (k : CoreId) (m : Cmd) :
    (s.setCmd k m).cores[k].ctx = s.cores[k].ctx ∧ (s.setCmd k m).cores[k].sram = s.cores[k].sram := by
  rw [State.setCmd, State.cores_onCore_self]
  exact ⟨rfl, rfl⟩
/-- What a core's engines hold of the task on it stays as a command changes and its site keeps a record. -/
theorem State.keepsRecord_setCmd (s : State) (k : CoreId) (r : ShapeLine) (n : Cmd) :
    ((s.keepsRecord k r).setCmd k n).spaceOn k = s.spaceOn k ∧
    ((s.keepsRecord k r).setCmd k n).cores[k].ctx.x.tid = s.cores[k].ctx.x.tid ∧
    ((s.keepsRecord k r).setCmd k n).sites[siteOf k].tlb = s.sites[siteOf k].tlb := by
  have ctx : ((s.keepsRecord k r).setCmd k n).cores[k].ctx = s.cores[k].ctx := ((s.keepsRecord k r).core_setCmd k n).1
  have tlb : ((s.keepsRecord k r).setCmd k n).sites[siteOf k].tlb = s.sites[siteOf k].tlb := by
    change (s.sites.set (siteOf k) _)[siteOf k].tlb = _
    simp [Site.keep]
  refine ⟨?_, by rw [ctx], tlb⟩
  unfold State.spaceOn State.launchOn
  rw [ctx]
  rfl

section
variable {s : State} {k : CoreId} {m m' : Cmd} {r : ShapeLine} {h : Shape}

/-- A command as its shape record lays it out (R226). -/
def State.laidCmd (s : State) (k : CoreId) (m : Cmd) (h : Shape) : Cmd :=
  { s.beginCmd k m with planned := true, swz := h.swz, atoms := m.shapedAtoms h }

/-- A copy between a far tensor and a scratchpad stops where its record does not fit (R226). -/
theorem State.Plans.unfit (p : (s.keepsRecord k r).Plans k (s.beginCmd k m) h m') (hk : m.kind = .cin ∨ m.kind = .inx ∨ m.kind = .out)
    (same : h.gen = (m.handle.extractLsb' 20 12).toNat) (bad : h.unfit = true ∨ s.cores[k].granted < m.nearAddr + h.footprint) :
    m'.halted = true ∧ m'.status = addFail m.status stPermission ∧ m'.atoms = [] := by
  have none := ((s.keepsRecord k r).shaped_copy k (m := { s.beginCmd k m with swz := h.swz }) h hk).1 bad
  cases p with
  | stale other => exact absurd same other
  | stops => exact ⟨rfl, rfl, rfl⟩
  | runs n _ _ fits => exact absurd (fits.symm.trans none) nofun
/-- It is laid out by one that fits. -/
theorem State.Plans.laid (p : (s.keepsRecord k r).Plans k (s.beginCmd k m) h m') (hk : m.kind = .cin ∨ m.kind = .inx ∨ m.kind = .out)
    (same : h.gen = (m.handle.extractLsb' 20 12).toNat) (fits : ¬ (h.unfit = true ∨ s.cores[k].granted < m.nearAddr + h.footprint)) :
    ((s.keepsRecord k r).setCmd k (s.laidCmd k m h)).Ran k (s.laidCmd k m h) m' := by
  have laid := ((s.keepsRecord k r).shaped_copy k (m := { s.beginCmd k m with swz := h.swz }) h hk).2 fits
  cases p with
  | stale other => exact absurd same other
  | stops _ unfit => exact absurd (unfit.symm.trans laid) nofun
  | runs n _ _ e ran =>
    obtain rfl := Option.some.inj (e.symm.trans laid)
    exact ran

variable {t : State} (ran : t.Ran k (s.laidCmd k m h) m')
include ran

/-- A copy that runs carries the bytes of its record (R226). -/
theorem State.Ran.laid_carries (hm : m'.halted = false) : (m'.atoms.filter (·.role == .bytes)).map Atom.carries =
    (gatherAtoms (h.pairs (m.farAddr h) m.nearAddr)).map fun p => (32 * p.1, m.kind == .out, p.2) :=
  (map_carries_of_plan (ran.plan hm (by decide))).trans (m.shapedAtoms_carries h)
/-- An inbound one has the padding of its record. -/
theorem State.Ran.laid_pads (hm : m'.halted = false) (hk : (m.kind == .out) = false) :
    ∀ p ∈ h.fills m.nearAddr, ∃ a ∈ m'.atoms, p ∈ a.pads := by
  intro p hp
  obtain ⟨a, ha, hpa⟩ := m.shapedAtoms_pads h hk p hp
  obtain ⟨b, hb, e⟩ := ran.pads hm ha
  exact ⟨b, hb, e ▸ hpa⟩
/-- Its atoms write far memory if it is outbound. -/
theorem State.Ran.laid_write {a : Atom} (ha : a ∈ m'.atoms) (bytes : a.role = .bytes) : a.write = (m.kind == .out) := by
  obtain ⟨b, hb, e⟩ := ran.origin ha (by rw [bytes]; decide)
  have role : b.role = a.role := congrArg (·.1) e
  have write : b.write = a.write := congrArg (·.2.2.1) e
  rw [← write]
  exact m.shapedAtoms_write h b hb (role.trans bytes)
end

/-- An atom of a copy whose record is held starts in its turn, placed by a leaf that its site holds (R189, R226). -/
theorem State.Ran.laid_placed {s : State} {k : CoreId} {m m' : Cmd} {r : ShapeLine} {h : Shape}
    (ran : ((s.keepsRecord k r).setCmd k (s.laidCmd k m h)).Ran k (s.laidCmd k m h) m') (pages : m.pages = []) {i : Nat} {a : Atom}
    (ha : (m'.atoms.filter (·.role == .bytes))[i]? = some a) (hs : a.started = true) :
    a.start = s.cores[k].firstClock m s.now + i / 32 ∧ s.Placed (siteOf k) (s.spaceOn k) s.cores[k].ctx.x.tid (s.laidCmd k m h) a := by
  obtain ⟨sp, tid, tlb⟩ := s.keepsRecord_setCmd k r (s.laidCmd k m h)
  obtain ⟨start, placed⟩ := ran.placed (t := s.cores[k].firstClock m s.now) (m.shapedAtoms_fresh h) pages rfl i a ha hs
  rw [sp, tid] at placed
  exact ⟨start, placed.of_same tlb rfl rfl rfl rfl rfl⟩

end Sys2Proof.Machine
end

section
/-! PROOFS. COPY_START (R182, R189, R206, R226, R227, R250, R299). -/

namespace Sys2Proof.Machine

/-- Settles O45: what a command has become when it starts, case by case; the engines change no more of its core than the command and the
clock of a crossing. -/
theorem copyStarts : Obligations.CopyStarts := by
  intro s k harg
  dsimp only
  refine ⟨State.exec_copyStart_none harg, fun m hm hpages _ _ => ?_⟩
  have copies := List.mem_of_find?_eq_some hm
  obtain ⟨m', begins, keeps⟩ := s.startCmd_begins k m
  obtain ⟨id, phase, recs⟩ := begins.same
  refine ⟨s.startCmd k m, m', State.exec_copyStart_some harg hm, ⟨fun i hi => ?_, keeps.hbm, keeps.host, ?_, ?_⟩, ?_, phase, fun u hu => ?_,
    ?_, ?_, ?_, ?_⟩
  · exact (keeps.others i hi).trans (State.cores_onCore _ _ _ _ hi)
  · exact keeps.sram.trans (s.core_setCmd k m').2
  · exact keeps.ctx.trans (s.core_setCmd k m').1
  · rw [Core.cmdOf, keeps.run, ← id]
    exact State.cmdOf_setCmd ⟨m, copies, id.symm⟩
  · rw [recs, State.beginCmd, hu]
  · intro moves running
    cases begins with
    | moves _ _ ran =>
      refine ⟨ran.planned running, (map_carries_of_plan (ran.plan running (by decide))).trans ?_⟩
      rw [filter_toAtoms, map_carries_toAtoms]
    | tableless copies | reads _ copies | plans _ _ copies => exact absurd (moves.symm.trans copies) nofun
  · intro copies none
    cases begins with
    | moves _ moves => exact absurd (moves.symm.trans copies) nofun
    | tableless => exact ⟨rfl, rfl⟩
    | reads _ _ table | plans _ _ _ table => exact absurd none table
  · intro copies table unheld running
    cases begins with
    | moves _ moves => exact absurd (moves.symm.trans copies) nofun
    | tableless _ none => exact absurd none table
    | reads _ _ _ _ ran =>
      have := congrArg (List.map (·.1)) (map_carries_of_plan (ran.plan running (r := .record) (by decide)))
      rw [filter_toAtoms, map_carries_toAtoms] at this
      have vas : _ = [32 * (s.recordAddr k m / 32), 32 * (s.recordAddr k m / 32 + 1)] := List.map_map.symm.trans this
      rwa [Nat.mul_add, Nat.mul_comm 32] at vas
    | plans _ _ _ _ held => exact absurd (unheld.symm.trans held) nofun
  · intro r copies table held
    cases begins with
    | moves _ moves => exact absurd (moves.symm.trans copies) nofun
    | tableless _ none => exact absurd none table
    | reads _ _ _ unheld => exact absurd (unheld.symm.trans held) nofun
    | plans _ r' _ _ held' plans =>
    obtain rfl : r' = r := Option.some.inj (held'.symm.trans held)
    refine ⟨fun other => ?_, fun same hk => ⟨fun bad => plans.unfit hk same bad, fun fits => ?_⟩⟩
    · cases plans with
      | stale => exact ⟨rfl, rfl⟩
      | stops same | runs _ _ same => exact absurd same other
    · have ran := plans.laid hk same fits
      refine ⟨ran.laid_carries, fun out running => ran.laid_pads running out, fun i a ha hs => ?_⟩
      obtain ⟨start, leaf, leaf_held, permits, unguarded, dpa, chan, owned, data⟩ := ran.laid_placed hpages ha hs
      obtain ⟨mem, bytes⟩ := List.mem_filter.1 (List.mem_of_getElem? ha)
      have write := ran.laid_write mem (beq_iff_eq.1 bytes)
      rw [write] at permits unguarded
      rw [ran.same.2.2]
      exact ⟨start, leaf, leaf_held, permits, unguarded, dpa, chan, owned, data⟩

end Sys2Proof.Machine
end

section
/-! SUPPORT. Forms of the M slot at issue: their tests, scale bytes, active triples, rows that are not clean, the word of ASTAT, and what a
drain-add does behind its drain (R91, R97, R155 to R162, R166 to R168, R171). -/

namespace Sys2Proof.Machine

/-! ### Resources and checks (R158) -/

/-- An M form waits while what it needs is held. -/
theorem Core.msyl_held {c : Core} {held : Bool} {l : List (Bool × Cause)} {f : Core → Core} (h : held = true) :
    c.msyl held l f = c.freeze 4 := if_pos h
/-- An M form whose resources are free makes its checks. -/
theorem Core.msyl_free {c : Core} {held : Bool} {l : List (Bool × Cause)} {f : Core → Core} (h : held = false) :
    c.msyl held l f = c.checked 2 l f := by
  rw [Core.msyl, h]
  rfl
/-- A meaning of the M slot ends as resources and checks say that come to the same as its own. -/
theorem State.matrixForm_of_same {s : State} {j : Instr} {held held' : Bool} {faults faults' : List (Bool × Cause)} {f F g : Core → Core}
    (h : exec j s = .next (s.onCur F)) (hF : F s.core = s.core.msyl held' faults' g) (hh : held' = held)
    (hl : firstFault faults' = firstFault faults) (hg : g s.core = f s.core) : s.matrixForm j held faults f := by
  refine State.matrixForm_of h (hF.trans ?_) hg
  rw [hh, Core.msyl, Core.checked, hl]
  rfl

/-! ### Scale bytes (R155, R159, R160) -/

/-- The scales of a weight load, byte by byte: the area's or zero, and absent ones beyond the operand's lines. -/
theorem Core.padScales_wldScales (c : Core) (x : MArg) (nb n : Nat) : padScales (c.wldScales x nb n) =
    (List.range n).map (fun i => BitVec.ofNat 128 ((List.range nb).foldr
      (fun b acc => (if x.desc.off = 0 then 0 else c.load (x.area + (nb * i + b)) 1) + 256 * acc) (absentFrom nb))) ++
      List.replicate (128 - n) scalesAbsent := by
  simp only [padScales, Core.wldScales, List.length_map, List.length_range, Nat.add_assoc]
/-- The scales of a line of a transposed load, byte by byte: absent ones for blocks beyond the operand's rows. -/
theorem Core.wldtScales_eq (c : Core) (x : MArg) (nb j : Nat) : c.wldtScales x nb j = BitVec.ofNat 128 ((List.range nb).foldr
    (fun b acc => (if x.desc.rows ≤ 32 * b then 0x80 else if x.desc.off = 0 then 0 else c.load (x.area + (128 * b + j)) 1) + 256 * acc)
    (absentFrom nb)) := by
  simp only [Core.wldtScales, Nat.add_assoc, ge_iff_le]
/-- A row of scale bytes is the one of its number. -/
theorem Core.getD_scaleRows (c : Core) (x : MArg) (nb : Nat) {n i : Nat} (hi : i < n) :
    (c.scaleRows x nb n).getD i 0 = if x.desc.off = 0 then 0 else c.scaleRow (x.area + nb * i) nb := by
  simp [Core.scaleRows, List.getD, hi]

/-! ### Active triples and refused rows (R97, R162, R164) -/

/-- The active triples of a row: for each of its blocks that is not absent, the lines in which the block is live. -/
theorem activeTriples_liveLines (nb : Nat) (sc : BitVec 128) (l : List (BitVec 128)) : activeTriples nb sc (liveLines nb l) =
    ((List.range nb).map fun b => if scaleAt sc b = -128 then 0 else (l.filter fun y => scaleAt y b != -128).length).sum := by
  rw [List.sum_eq_foldl_nat, List.foldl_map, activeTriples]
  refine List.foldl_ext _ _ _ fun acc b hb => ?_
  have live : (liveLines nb l).getD b 0 = (l.filter fun y => scaleAt y b != -128).length := by
    simp [liveLines, List.getD, List.mem_range.1 hb]
  rw [live]
  split <;> rfl
/-- The active triples of an operand's rows, by the number of the row. -/
theorem Core.map_activeTriples (c : Core) (x : MArg) (nb n : Nat) (l : List (BitVec 128)) :
    ((c.scaleRows x nb n).map fun sc => activeTriples nb sc (liveLines nb l)) =
      (List.range n).map fun i => ((List.range nb).map fun b => if scaleAt ((c.scaleRows x nb n).getD i 0) b = -128 then 0
        else (l.filter fun y => scaleAt y b != -128).length).sum := by
  rw [Core.scaleRows, List.map_map]
  refine List.map_congr_left fun i hi => ?_
  rw [← Core.scaleRows, c.getD_scaleRows x nb (List.mem_range.1 hi)]
  exact activeTriples_liveLines ..
/-- Where not every row is either exempt from a test or passes it, some row is refused. -/
theorem not_all_or_or {α : Type} (l : List α) (p q r : α → Bool) :
    (!l.all fun i => p i || q i || r i) = l.any fun i => !p i && !q i && !r i := by
  simp only [List.not_all_eq_any_not, Bool.not_or]

/-! ### Rows and events of a tile (R91, R166 to R168) -/

/-- The rows of a tile that are not clean, as those that are none of the clean ones. -/
theorem Tile.dirtyRows_eq (t : Tile) (n : Nat) : t.dirtyRows n = ((List.range n).filter fun i => !t.clean.getLsbD i).length := by
  have flip (k i : Nat) : (if t.clean.getLsbD i then k else k + 1) = if !t.clean.getLsbD i then k + 1 else k := by
    cases t.clean.getLsbD i <;> rfl
  simp only [Tile.dirtyRows, flip, foldl_count, Nat.zero_add]
theorem eventsWith_eq_foldr (t : TileId) (w : BitVec 32) (l : List Region) :
    eventsWith t w l = l.foldr (fun r e => (if r.cleared.getLsbD t.val then 0 else e) ||| r.raised[t]) w := by
  induction l with
  | nil => rfl
  | cons r l ih => rw [eventsWith, ih, List.foldr_cons]
theorem Tag.code_lt (t : Tag) : t.code < 16 := by cases t <;> decide
/-- A count, a code and an event word laid one above another in a word, read back. -/
theorem extractLsb'_count_code_events {n k : Nat} (e : BitVec 32) (hn : n < 256) (hk : k < 16) :
    let v := BitVec.ofNat 64 (n * 2 ^ 36 + k * 2 ^ 32 + e.toNat)
    (v.extractLsb' 44 20).toNat = 0 ∧ (v.extractLsb' 36 8).toNat = n ∧ (v.extractLsb' 32 4).toNat = k ∧ v.extractLsb' 0 32 = e := by
  have he := e.isLt
  refine ⟨?_, ?_, ?_, BitVec.eq_of_toNat_eq ?_⟩ <;>
    · rw [BitVec.extractLsb'_toNat, BitVec.toNat_ofNat, Nat.shiftRight_eq_div_pow]
      omega
/-- The word of ASTAT, field by field (R168). -/
theorem Core.astatWord_fields (c : Core) (t : TileId) :
    ((c.astatWord t).extractLsb' 44 20).toNat = 0 ∧
    ((c.astatWord t).extractLsb' 36 8).toNat = ((List.range 128).filter fun i => c.ctx.a[t].clean.getLsbD i).length ∧
    ((c.astatWord t).extractLsb' 32 4).toNat = c.ctx.a[t].tag.code ∧
    (c.astatWord t).extractLsb' 0 32 = eventsWith t c.ctx.a[t].events c.run.regions := by
  have rows : ((List.range 128).filter fun i => c.ctx.a[t].clean.getLsbD i).length < 256 :=
    Nat.lt_of_le_of_lt (List.length_filter_le ..) (by simp)
  rw [Core.astatWord, foldl_count, Nat.zero_add]
  exact extractLsb'_count_code_events _ rows (Tag.code_lt _)

/-! ### Drain-adds (R158, R171) -/

section
variable {c : Core} {self : CoreId} {k : DrainKind} {t : TileId} {w : BufId} {a b : SReg} {v : Fin 4} {tid : Word}
  {fits : Nat → Nat → Bool}

/-- A drain-add whose drain waits does no more. -/
theorem Core.drainAdd_freeze {n : Nat} (h : c.drain k t a b (Fin.ofNat 8 (4 * w.val + v.val)) true fits = c.freeze n) :
    c.drainAdd self k t w a b v tid fits = c.freeze n := by
  rw [Core.drainAdd, h]
  exact if_pos (by simp [Core.freeze])
/-- A drain-add whose drain traps does no more. -/
theorem Core.drainAdd_raise {z : Cause} (h : c.drain k t a b (Fin.ofNat 8 (4 * w.val + v.val)) true fits = c.raise 2 z) :
    c.drainAdd self k t w a b v tid fits = c.raise 2 z := by
  rw [Core.drainAdd, h]
  exact if_pos rfl
/-- A drain-add whose drain enters marks its region and holds the buffer. -/
theorem Core.drainAdd_enters {n : Core} (h : c.drain k t a b (Fin.ofNat 8 (4 * w.val + v.val)) true fits = n)
    (ht : n.run.trap = none) (hf : n.run.frozen = []) : c.drainAdd self k t w a b v tid fits =
      (n.onRegion fun r => { r with drainAdd := true }).onRun fun r => { r with
        drainBuf := some ⟨c.regionId, k == .addc, t, siteCore self (4 * w.val + v.val), tid, (c.msrc (c.s a)).addr,
          (descOf (c.s b)).rows, [], 0⟩ } := by
  rw [Core.drainAdd, h]
  refine (if_neg (by simp [ht, hf])).trans ?_
  simp [siteCore]
end

/-- The region that issues has a drain-add already. -/
theorem Core.regionAdds_iff (c : Core) : ((c.run.regions.head?).map (·.drainAdd)).getD false = true ↔
    ∃ r l, c.run.regions = r :: l ∧ r.drainAdd = true := by
  cases c.run.regions <;> simp
/-- The drain-add buffer is no reason to wait where it is empty, or held for the region that issues. -/
theorem drainBuf_free_iff (x : Option DrainBuf) (adds : Bool) : (x.isSome && !adds) = false ↔ x = none ∨ adds = true := by
  cases x <;> simp
/-- A target allows a drain-add where it holds a task of the same launch that is granted every byte. -/
theorem State.peerFits_iff (s : State) (k : CoreId) (a n : Nat) : s.peerFits k a n = true ↔ s.cores[k].run.phase ≠ .idle ∧
    s.cores[k].ctx.x.tid.toNat / 65536 = s.core.ctx.x.tid.toNat / 65536 ∧ s.cores[k].inBounds a n = true := by
  simp [State.peerFits, tidLaunch, and_assoc]

end Sys2Proof.Machine
end

section
/-! PROOFS. Forms of the M slot at issue: weight loads, MMA forms, tiles and clears, drains and drain-adds (R91, R97, R155 to R162, R164,
R166 to R171). -/

namespace Sys2Proof.Machine

/-- Settles O24: each load makes the checks of the shared load, with its scales read byte by byte. -/
theorem weightLoadForms : Obligations.WeightLoadForms := by
  unfold Obligations.WeightLoadForms
  intro s g w a b r v hg c d n src clean held byte enters word plain across
  have lines (nb : Nat) : plain nb = padScales (c.wldScales ⟨src, d, n, if d.off = 0 then 0 else nb * n⟩ nb n) :=
    (c.padScales_wldScales ⟨src, d, n, _⟩ nb n).symm
  have columns (dl sb nb : Nat) : across nb = (List.range 128).map (c.wldtScales ⟨src, d, dl, sb⟩ nb) :=
    List.map_congr_left fun i _ => (c.wldtScales_eq ⟨src, d, dl, sb⟩ nb i).symm
  rw [lines, lines, lines]
  refine ⟨State.matrixForm_of (State.syl_true hg) rfl rfl, State.matrixForm_of (State.syl_true hg) rfl rfl,
    State.matrixForm_of (State.syl_true hg) rfl rfl, State.matrixForm_of (State.syl_true hg) rfl rfl,
    State.matrixForm_of (State.syl_true hg) rfl rfl, ?transposed⟩
  rw [columns (if v = 0 then n else (n + 1) / 2) (if d.off = 0 then 0 else 128 * ((n + 31) / 32))]
  match v with
  | 0 => exact State.matrixForm_of (State.syl_true hg) rfl rfl
  | 1 | 2 | 3 => exact State.matrixForm_of (State.syl_true hg) rfl rfl
/-- Settles O25: the six forms are one meaning at six formats; its triples and its test of the rows are counted row by row. -/
theorem matrixMultiplyForms : Obligations.MatrixMultiplyForms := by
  unfold Obligations.MatrixMultiplyForms
  intro s g t w a b r hg c d m src buf held accepts enters
  have form (j : Instr) (f : MmaFmt) (h : exec j s = .next (s.onCur fun c => c.mma f t w a b r)) :
      enters j f f.nb f.bufTag f.tileTag f.isI8 := by
    refine State.matrixForm_of_same h rfl rfl ?checks ?energy
    case checks =>
      rw [c.map_activeTriples, not_all_or_or]
      rfl
    case energy =>
      beta_reduce
      rw [c.map_activeTriples, List.sum_eq_foldl_nat]
      rfl
  exact ⟨form _ .bf16 (State.syl_true hg), form _ .e4 (State.syl_true hg), form _ .e5 (State.syl_true hg),
    form _ .fp4 (State.syl_true hg), form _ .i8add (State.syl_true hg), form _ .i8sub (State.syl_true hg)⟩
/-- Settles O26: the clears and the fills meter the rows that are not clean, and the word of ASTAT is read field by field. -/
theorem tileAndClearForms : Obligations.TileAndClearForms := by
  unfold Obligations.TileAndClearForms
  intro s g t w a b hg c d m src ts parts dirty fill
  obtain ⟨top, rows, code, events⟩ := c.astatWord_fields t
  have count (x : Tile) (n : Nat) : x.dirtyRows n = dirty x n := x.dirtyRows_eq n
  have fills (j : Instr) (rns : Bool) (h : exec j s = .next (s.onCur fun c => c.afill t a b rns)) :
      fill j rns (if rns then .rns else .f32) := by
    refine State.matrixForm_of h rfl ?_
    simp only [count, ← List.sum_eq_foldl_nat]
    rfl
  refine ⟨State.matrixForm_of (State.syl_true hg) rfl rfl, State.matrixForm_of (State.syl_true hg) rfl ?cleared,
    fills _ false (State.syl_true hg), fills _ true (State.syl_true hg), State.syl_true hg, top, rows, code.trans ?tag,
    events.trans (eventsWith_eq_foldr ..)⟩
  case cleared => rw [count]
  case tag => cases c.ctx.a[t].tag <;> rfl
/-- Settles O27: a drain into its own scratchpad never waits for the drain-add buffer, and is never a second drain-add. -/
theorem drainForms : Obligations.DrainForms := by
  unfold Obligations.DrainForms
  intro s g t a b hg c d m src ts enters
  have form (j : Instr) (k : DrainKind) (h : exec j s = .next (s.onCur fun c => c.drain k t a b 0 false c.inBounds)) :
      enters j k k.rowBytes k.tag (k == .rns && (List.range (2 * m)).all fun i => c.cleanAt (src.addr + 256 * i)) :=
    State.matrixForm_of_same h rfl (Bool.or_false _) rfl rfl
  exact ⟨form _ .f32 (State.syl_true hg), form _ .bf16 (State.syl_true hg), form _ .rns (State.syl_true hg),
    form _ .i32 (State.syl_true hg)⟩
/-- Settles O28: a drain-add passes its tests one after another, and what it does behind its drain it does only where the drain enters. -/
theorem drainAddForms : Obligations.DrainAddForms := by
  unfold Obligations.DrainAddForms
  intro s g t w a b x hg ht hf c d m src ts n k second free shape tags there raises form
  have passes (j : Instr) (kind : DrainKind) (hk : kind = .add ∨ kind = .addc) (hx : exec j s = .next (s.onCur fun c =>
      c.drainAdd s.cur kind t w a b x s.cores[k].ctx.x.tid (s.peerFits k))) : form j kind (kind == .addc) := by
    have ends {F : Core → Core} (e : c.drainAdd s.cur kind t w a b x s.cores[k].ctx.x.tid (s.peerFits k) = F c) :
        exec j s = .next (s.onCur F) := hx.trans (congrArg _ (State.onCur_congr e))
    let held := c.mheld (fun o n => o.transfers n || ts.any (o.pendsTile n))
    let ok := decide (1 ≤ m) && decide (m ≤ 256) && d.off == 0 && d.swz == 0 && !d.high && !src.ring && !src.illegal &&
      (decide (m ≤ 128) || t.val % 2 == 0)
    let adds := ((c.run.regions.head?).map (·.drainAdd)).getD false
    have hsecond : adds = true ↔ second := c.regionAdds_iff
    have hfree : (held || (true && c.run.drainBuf.isSome && !adds)) = false ↔ free := by
      rw [Bool.or_eq_false_iff, Bool.true_and, drainBuf_free_iff, hsecond]
    have hshape : (!ok) = false ↔ shape := by
      rw [Bool.not_eq_false']
      simp [ok, shape, and_assoc]
    have htags : (ts.any fun i => !tagOk c.ctx.a[i].tag kind.tag) = false ↔ tags := by
      obtain rfl | rfl := hk <;> simp [tags, tagOk_iff, DrainKind.tag]
    have hthere : (src.outside || !s.peerFits k src.addr (kind.rowBytes * m)) = false ↔ there := by
      rw [Bool.or_eq_false_iff, Bool.not_eq_false', State.peerFits_iff]
      obtain rfl | rfl := hk <;> rfl
    have fails {p : Bool} {q : Prop} (h : p = false ↔ q) (hq : ¬ q) : p = true := (Bool.not_eq_false p).mp (mt h.1 hq)
    have first (h0 : free) (h1 : shape) (h2 : ¬ second) {l : List (Bool × Cause)} {f : Core → Core} {z : Core}
        (h : c.checked 2 l f = z) :
        c.msyl (held || (true && c.run.drainBuf.isSome && !adds)) ((!ok, .illegal) :: (adds, .segmentCheck) :: l) f = z :=
      (Core.msyl_free (hfree.2 h0)).trans <| (Core.checked_tail (hshape.2 h1)).trans <|
        (Core.checked_tail (Bool.eq_false_iff.2 (mt hsecond.1 h2))).trans h
    refine ⟨fun hw => ends (Core.drainAdd_freeze (Core.msyl_held (fails hfree hw))),
      fun h0 hw => ends (Core.drainAdd_raise ((Core.msyl_free (hfree.2 h0)).trans (Core.checked_head (fails hshape hw)))),
      fun h0 h1 hw => ends (Core.drainAdd_raise ((Core.msyl_free (hfree.2 h0)).trans <| (Core.checked_tail (hshape.2 h1)).trans <|
        Core.checked_head (hsecond.2 hw))),
      fun h0 h1 h2 hw => ends (Core.drainAdd_raise (first h0 h1 h2 (Core.checked_head (fails htags hw)))),
      fun h0 h1 h2 h3 hw => ends (Core.drainAdd_raise (first h0 h1 h2 <| (Core.checked_tail (htags.2 h3)).trans <|
        Core.checked_head (fails hthere hw))),
      fun h0 h1 h2 h3 h4 hw => ends (Core.drainAdd_raise (first h0 h1 h2 <| (Core.checked_tail (htags.2 h3)).trans <|
        (Core.checked_tail (hthere.2 h4)).trans <| Core.checked_head (bne_iff_ne.2 hw))),
      fun h0 h1 h2 h3 h4 h5 => ends ((Core.drainAdd_enters (first h0 h1 h2 <| (Core.checked_tail (htags.2 h3)).trans <|
        (Core.checked_tail (hthere.2 h4)).trans <| (Core.checked_tail (bne_eq_false_iff_eq.2 h5)).trans (Core.checked_nil ..))
        ht hf).trans ?_)⟩
    obtain rfl | rfl := hk <;> rfl
  exact ⟨passes _ .add (.inl rfl) (State.syl_true hg), passes _ .addc (.inr rfl) (State.syl_true hg)⟩

end Sys2Proof.Machine
end

section
/-! SUPPORT. Rings: the ring a number reads, waits on one, the stamps an advance leaves, and what an RSET refuses (R178 to R180, R237, R238). -/

namespace Sys2Proof.Machine

/-- A syllable that leaves its core as it is. -/
theorem State.syl_id {s : State} {g : PReg} {f : Core → Core} (hg : s.core.g0 g = true) (e : f s.core = s.core) : s.syl g f = .next s := by
  rw [State.syl_true hg, State.onCur_id e]
/-- The number of a configured ring reads that ring. -/
theorem Core.ring_of_some {c : Core} {h : RingId} {r : Ring} (e : c.ctx.h[h] = some r) : c.ring h = r := by
  rw [Core.ring, e]
  rfl
/-- Slots are reserved in no ring but a configured one. -/
theorem Core.ring_reserved_iff (c : Core) (h : RingId) :
    (c.ring h).reserved ≠ 0 ↔ ∃ q, c.ctx.h[h] = some q ∧ q.reserved ≠ 0 := by
  unfold Core.ring
  cases e : c.ctx.h[h] with
  | none => simp [Ring.none]
  | some q => simp
/-- A wait on a ring that is not configured. -/
theorem Core.ringWait_none {c : Core} {h : RingId} (e : c.ctx.h[h] = none) (n x : Nat) : c.ringWait h n x = c.raise 3 .ringConfig :=
  Core.checked_head (Option.isNone_iff_eq_none.2 e)
/-- A wait on a ring that is: for more slots than it has, for what is there, and for what is not yet. -/
theorem Core.ringWait_some {c : Core} {h : RingId} {r : Ring} (e : c.ctx.h[h] = some r) (n x : Nat) :
    c.ringWait h n x = if r.count < n then c.raise 3 .bounds else if n ≤ x then c else c.freeze 1 := by
  unfold Core.ringWait
  rw [Core.checked_tail (by rw [e]; rfl), Core.ring_of_some e]
  by_cases hn : r.count < n
  · rw [if_pos hn, Core.checked_head (decide_eq_true hn)]
  · rw [if_neg hn, Core.checked_tail (decide_eq_false hn), Core.checked_nil]

theorem length_setStamps (count : Nat) (z : Fin 4) (n : Nat) (l : List (Fin 4)) (pos : Nat) :
    (setStamps l count pos z n).length = l.length := by
  induction n generalizing l pos with
  | zero => rfl
  | succ n ih => exact (ih _ _).trans List.length_set
/-- The slots passed from a position on take the stamp, and no other does. -/
theorem getElem?_setStamps (count : Nat) (z : Fin 4) (n : Nat) (l : List (Fin 4)) (pos : Nat) {i : Nat} (hi : i < l.length) :
    (setStamps l count pos z n)[i]? = if (List.range n).any (fun j => (pos + j) % count == i) then some z else l[i]? := by
  induction n generalizing l pos with
  | zero => rfl
  | succ n ih =>
    have later (j : Nat) : pos + 1 + j = pos + (j + 1) := by omega
    rw [setStamps, ih _ _ (by rwa [List.length_set]), List.range_succ_eq_map, List.any_cons, List.any_map, List.getElem?_set]
    simp only [later, Function.comp_def, Nat.add_zero, Nat.succ_eq_add_one]
    by_cases hp : pos % count = i
    · subst hp
      simp [hi]
    · simp [hp]

/-- What an RSET refuses. -/
theorem Core.rsetBad_iff (c : Core) (h : RingId) (x : Word) :
    let base := (x.extractLsb' 0 22).toNat
    let size := (x.extractLsb' 22 8).toNat + 1
    let count := (x.extractLsb' 32 6).toNat + 1
    c.rsetBad h x = true ↔ x.extractLsb' 38 26 ≠ 0 ∨ x.extractLsb' 30 2 ≠ 0 ∨ base % 256 ≠ 0 ∨ c.granted < base + 256 * size * count ∨
      (∃ i : RingId, i ≠ h ∧ ∃ q, c.ctx.h[i] = some q ∧ base < q.base + 256 * q.size * q.count ∧ q.base < base + 256 * size * count) ∨
      ∃ q, c.ctx.h[h] = some q ∧ q.reserved ≠ 0 := by
  intro base size count
  have meets (k : RingId) : (match c.ctx.h[k] with
      | some q => overlaps base (256 * size * count) q.base q.bytes
      | none => false) = true ↔
      ∃ q, c.ctx.h[k] = some q ∧ base < q.base + 256 * q.size * q.count ∧ q.base < base + 256 * size * count := by
    cases c.ctx.h[k] with
    | none => simp
    | some q => 
      simp only [overlaps, Ring.bytes, Bool.and_eq_true, Option.some.injEq, exists_eq_left']
      exact and_congr decide_eq_true_iff decide_eq_true_iff
  rw [← Core.ring_reserved_iff]
  change (_ || _ || base % 256 != 0 || decide (_ > _) || _ || List.any _ fun k => k != h && (match c.ctx.h[k] with
      | some q => overlaps base (256 * size * count) q.base q.bytes
      | none => false)) = true ↔ _
  simp only [Bool.or_eq_true, List.any_eq_true, Bool.and_eq_true, meets, bne_iff_ne, decide_eq_true_eq, List.mem_finRange, true_and,
    or_assoc]
  exact or_congr_right (or_congr_right (or_congr_right (or_congr_right or_comm)))

end Sys2Proof.Machine
end

section
/-! SUPPORT. The tag table: the way that holds a key (R176, R239). -/

namespace Sys2Proof.Machine

/-- The way that holds a key is the first that does. -/
theorem wayOf_eq_some {t : List (Nat × Word)} {key : BitVec 36} {w : Nat} :
    let holds (w : Nat) : Prop := (wayGet t (4 * (key.toNat % 1024) + w)).getLsbD 63 = true ∧
      (wayGet t (4 * (key.toNat % 1024) + w)).extractLsb' 0 36 = key
    w < 4 → holds w → (∀ i, i < w → ¬ holds i) → wayOf t key = some w := by
  intro holds hw h first
  refine List.find?_range_eq_some.2 ⟨?_, List.mem_range.2 hw, fun i hi => ?_⟩
  · simpa only [Bool.and_eq_true, beq_iff_eq] using h
  · simpa only [Bool.not_eq_true', Bool.and_eq_true, beq_iff_eq, ← Bool.not_eq_true] using first i hi
theorem wayOf_eq_none {t : List (Nat × Word)} {key : BitVec 36} (h : ∀ w, w < 4 →
    ¬ ((wayGet t (4 * (key.toNat % 1024) + w)).getLsbD 63 = true ∧ (wayGet t (4 * (key.toNat % 1024) + w)).extractLsb' 0 36 = key)) :
    wayOf t key = none := by
  simpa [wayOf, List.find?_eq_none] using h

end Sys2Proof.Machine
end

section
/-! SUPPORT. Entries of a page table: what the walk does at one, and the place that a leaf gives (R186, R187, R297, R298). -/

namespace Sys2Proof.Machine

/-- The lowest address bit of each level (R297). -/
theorem levelBit_eq (level : Nat) : levelBit level = [39, 30, 21].getD level 16 := by
  match level with
  | 0 | 1 | 2 | n + 3 => rfl
theorem levelBit_le {level : Nat} (h : level ≠ 0) : levelBit level ≤ 36 := by
  unfold levelBit
  rw [if_neg h]
  split
  · decide
  · split <;> decide
/-- The low bits of a field are the remainder. -/
theorem pteField_zero_mod (e : Word) {m n : Nat} (h : m ≤ n) : pteField e 0 m = pteField e 0 n % 2 ^ m := by
  rw [pteField, pteField, BitVec.extractLsb'_toNat, BitVec.extractLsb'_toNat, Nat.mod_mod_of_dvd _ (Nat.pow_dvd_pow 2 h)]

theorem leafBad_eq_false_iff (level : Nat) (e : Word) : leafBad level e = false ↔
    level ≠ 0 ∧ pteField e 40 13 = 0 ∧ pteField e 0 8 = 0 ∧ pteField e 36 4 ≤ 11 ∧ pteField e 54 2 ≠ 3 ∧
      ¬ (e.getLsbD 61 = true ∧ e.getLsbD 60 = true) ∧ ¬ (e.getLsbD 60 = true ∧ e.getLsbD 59 = true) ∧
      pteField e 0 36 % 2 ^ levelBit level = 0 ∧ pteField e 0 36 + 2 ^ levelBit level ≤ bitmapBase := by
  rw [← Bool.not_eq_true, leafBad]
  by_cases h : level = 0
  · simp [h]
  · simp only [pteField_zero_mod e (levelBit_le h), leafSize, Bool.or_eq_true, Bool.and_eq_true, beq_iff_eq, bne_iff_ne,
      decide_eq_true_eq, not_or, not_not, gt_iff_lt, Nat.not_lt, and_assoc, ne_eq]
theorem tableBad_eq_false_iff (level : Nat) (e : Word) : tableBad level e = false ↔
    level ≠ 3 ∧ pteField e 53 9 = 0 ∧ pteField e 40 13 = 0 ∧ pteField e 0 8 = 0 ∧ pteField e 36 4 ≤ 11 ∧
      (level ≤ 1 → pteField e 8 4 = 0) := by
  rw [← Bool.not_eq_true, tableBad]
  simp only [Bool.or_eq_true, Bool.and_eq_true, beq_iff_eq, bne_iff_ne, decide_eq_true_eq, not_or, not_and, not_not, gt_iff_lt,
    Nat.not_lt, and_assoc, ne_eq]
/-- A walk ends at a valid entry that says leaf, and is one. -/
theorem seenAt_eq_leaf_iff (level : Nat) (e : Word) :
    seenAt level e = .leaf ↔ e.getLsbD 63 = true ∧ e.getLsbD 62 = true ∧ leafBad level e = false := by
  unfold seenAt
  cases e.getLsbD 63 <;> cases e.getLsbD 62 <;> cases leafBad level e <;> cases tableBad level e <;> simp
/-- A walk goes on from a valid entry that does not say leaf, and names a table. -/
theorem seenAt_eq_table_iff (level : Nat) (e : Word) (n : Nat) :
    seenAt level e = .table n ↔ n = pteField e 0 40 ∧ e.getLsbD 63 = true ∧ e.getLsbD 62 = false ∧ tableBad level e = false := by
  unfold seenAt
  cases e.getLsbD 63 <;> cases e.getLsbD 62 <;> cases leafBad level e <;> cases tableBad level e <;> simp [eq_comm]

/-- A leaf's frame followed by the address's low bits, on its stack, below the bitmap of poison. -/
theorem placeOf_leaf {level : Nat} {e : Word} (h : leafBad level e = false) (hpat : Vector Word 8) (va : Nat) :
    let off := pteField e 0 36 + va % 2 ^ levelBit level
    (placeOf hpat level e va).dpa = pteField e 36 4 * 2 ^ 36 + off ∧ off < 2 ^ 36 ∧ pteField e 36 4 < 12 := by
  intro off
  obtain ⟨-, -, -, hstack, -, -, -, halign, htop⟩ := (leafBad_eq_false_iff level e).1 h
  have frame : pteField e 0 36 / leafSize level * leafSize level = pteField e 0 36 :=
    Nat.div_mul_cancel (Nat.dvd_of_mod_eq_zero halign)
  have low : va % 2 ^ levelBit level < 2 ^ levelBit level := Nat.mod_lt _ (Nat.two_pow_pos _)
  refine ⟨?_, ?_, Nat.lt_succ_of_le hstack⟩
  · rw [placeOf, frame, Nat.add_assoc]
    rfl
  · have : bitmapBase < 2 ^ 36 := by decide
    omega
theorem chan_placeOf_leaf {level : Nat} {e : Word} (h : leafBad level e = false) (hpat : Vector Word 8) (va : Nat) :
    (placeOf hpat level e va).chan.val = pteField e 36 4 * 256 +
      hashChan (hpat.toList.getD (pteField e 56 3) 0) (pteField e 0 36 + va % 2 ^ levelBit level) := by
  obtain ⟨hdpa, hoff, hstack⟩ := placeOf_leaf h hpat va
  change (chanOf _ (placeOf hpat level e va).dpa).val = _
  rw [hdpa, val_chanOf hstack hoff]

/-! ### The walk -/

theorem State.walk_of_outside {s : State} (sp : Space) {va : Nat} (h : 2 ^ 48 ≤ va) : s.walk sp va = .error stTranslation :=
  if_neg (Nat.not_lt.2 h)
/-- One level of a walk. -/
theorem State.walkFrom_poisoned {s : State} {va table level : Nat} {rest : List Nat} (h : s.poisoned (entryAt table level va) = true) :
    s.walkFrom va table (level :: rest) = .error stPoison := if_pos h
theorem State.walkFrom_cons {s : State} {va table level : Nat} {rest : List Nat} (h : s.poisoned (entryAt table level va) = false) :
    let e := memBits s.hbm 64 (entryAt table level va) 8
    (seenAt level e = .leaf → s.walkFrom va table (level :: rest) = .ok (level, e)) ∧
    (seenAt level e = .bad → s.walkFrom va table (level :: rest) = .error stTranslation) ∧
    ∀ n, seenAt level e = .table n → s.walkFrom va table (level :: rest) = s.walkFrom va n rest := by
  intro e
  rw [State.walkFrom, h, if_neg Bool.false_ne_true]
  exact ⟨fun hs => by rw [hs], fun hs => by rw [hs], fun n hs => by rw [hs]⟩

/-- A failed walk fails every access, and a fetch too unless it failed in a poisoned page. -/
theorem State.resolve_of_error {s : State} {sp : Space} {va : Nat} {x : Word} (h : s.walk sp va = .error x) (priv : Bool) (acc : Access) :
    s.resolve sp priv acc va = .error x := by
  rw [State.resolve, h]
theorem State.fetchFault_of_error {s : State} {sp : Space} {va : Nat} {x : Word} (h : s.walk sp va = .error x) (priv : Bool) :
    s.fetchFault sp priv va = if x = 5 then none else some (.bounds, x) := by
  rw [State.fetchFault, h]
  simp [stPoison]
/-- A leaf of supervisor pages fails every access at task privilege. -/
theorem State.resolve_of_priv {s : State} {sp : Space} {va level : Nat} {e : Word} (h : s.walk sp va = .ok (level, e))
    (he : e.getLsbD 53 = true) (acc : Access) : s.resolve sp false acc va = .error stPermission := by
  simp only [State.resolve, h, leafDenies, he]
  rfl
/-- A leaf that is not a supervisor's, or that a supervisor looks at. -/
theorem leaf_lets {e : Word} {priv : Bool} (h : e.getLsbD 53 = false ∨ priv = true) : (e.getLsbD 53 && !priv) = false := by
  obtain h | h := h
  · rw [h, Bool.false_and]
  · rw [h, Bool.not_true, Bool.and_false]
/-- Any other leaf lets every read pass, and what else its bits allow. -/
theorem State.resolve_of_leaf {s : State} {sp : Space} {va level : Nat} {e : Word} {priv : Bool} (h : s.walk sp va = .ok (level, e))
    (hp : e.getLsbD 53 = false ∨ priv = true) :
    let p := placeOf s.hpat level e va
    let writes := e.getLsbD 61 = true
    let logged := e.getLsbD 59 = true
    s.resolve sp priv .read va = .ok p ∧ s.resolve sp priv .write va = (if writes ∧ ¬ logged then .ok p else .error stPermission) ∧
      s.resolve sp priv .append va = (if writes ∧ logged then .ok p else .error stPermission) ∧
      s.resolve sp priv .fetch va = (if e.getLsbD 60 then .ok p else .error stPermission) := by
  intro p writes logged
  have lets : (e.getLsbD 53 && !priv) = false := leaf_lets hp
  have place : placeOf s.hpat level e va = p := rfl
  simp only [State.resolve, h, leafDenies, lets, place, writes, logged]
  clear_value p
  have writable (w l : Bool) : (match (if !w || l then some stPermission else none : Option Word) with
      | some x => Except.error x
      | none => .ok p) = if w = true ∧ ¬ l = true then .ok p else .error stPermission := by cases w <;> cases l <;> rfl
  have appendable (w l : Bool) : (match (if !w || !l then some stPermission else none : Option Word) with
      | some x => Except.error x
      | none => .ok p) = if w = true ∧ l = true then .ok p else .error stPermission := by cases w <;> cases l <;> rfl
  have executable (x : Bool) : (match (if !x then some stPermission else none : Option Word) with
      | some x => Except.error x
      | none => .ok p) = if x = true then .ok p else .error stPermission := by cases x <;> rfl
  exact ⟨rfl, writable _ _, appendable _ _, executable _⟩
/-- A fetch of a leaf. -/
theorem State.fetchFault_of_priv {s : State} {sp : Space} {va level : Nat} {e : Word} (h : s.walk sp va = .ok (level, e))
    (he : e.getLsbD 53 = true) : s.fetchFault sp false va = some (.priv, stPermission) := by
  simp only [State.fetchFault, h, he]
  rfl
theorem State.fetchFault_of_leaf {s : State} {sp : Space} {va level : Nat} {e : Word} {priv : Bool} (h : s.walk sp va = .ok (level, e))
    (hp : e.getLsbD 53 = false ∨ priv = true) :
    let stale := s.sites.toList.any fun t => (t.held sp va).any fun x => !x.2.getLsbD 60
    s.fetchFault sp priv va = if e.getLsbD 60 = true ∧ stale = false then none else some (.bounds, stPermission) := by
  intro stale
  have lets : (e.getLsbD 53 && !priv) = false := leaf_lets hp
  have may : s.fetchFault sp priv va = if !e.getLsbD 60 || stale then some (.bounds, stPermission) else none := by
    simp only [State.fetchFault, h, lets]
    rfl
  rw [may]
  cases e.getLsbD 60 <;> cases stale <;> rfl

/-! ### What a site holds (R250, R297, R301) -/

/-- A walk begins at the root where the site holds no entry of a table. -/
theorem Site.walkOf_root {t : Site} {sp : Space} {va : Nat} (h : ∀ l, l < 3 → t.entry sp va l = none) : t.walkOf sp va = ⟨va, 0, sp.root⟩ := by
  simp [Site.walkOf, h]
/-- It begins below the deepest that the site holds. -/
theorem Site.walkOf_below {t : Site} {sp : Space} {va l : Nat} {e : Word} (hl : l < 3) (he : t.entry sp va l = some e)
    (h : ∀ j, l < j → j < 3 → t.entry sp va j = none) : t.walkOf sp va = ⟨va, l + 1, pteField e 0 40⟩ := by
  unfold Site.walkOf
  match l, hl with
  | 0, _ => simp [he, h 1 (by decide) (by decide), h 2 (by decide) (by decide)]
  | 1, _ => simp [he, h 2 (by decide) (by decide)]
  | 2, _ => simp [he]
theorem Site.entry_hold (t : Site) (sp : Space) (w : Walk) (e : Word) : (t.hold sp w e).entry sp w.va w.level = some e := by
  simp [Site.hold, Site.entry, Tlb.isOf]
theorem Site.held_hold {t : Site} {sp : Space} {w : Walk} {e : Word} (he : e.getLsbD 62 = true) :
    (t.hold sp w e).held sp w.va = some (w.level, e) := by
  simp [Site.hold, Site.held, Tlb.isOf, he]

end Sys2Proof.Machine
end

section
/-! SUPPORT. An entry that a command's walk has read (R297, R299, R301, R302). -/

namespace Sys2Proof.Machine

theorem Core.id_of_cmdOf {c : Core} {id : Nat} {m : Cmd} (h : c.cmdOf id = some m) : m.id = id := by
  simpa using List.find?_some h
/-- A command that has changed stands under its number, and what the engines note next changes nothing else. -/
theorem State.EngineKeeps.command {s u t : State} {k : CoreId} {id : Nat} {m m' : Cmd} (h : s.cores[k].cmdOf id = some m)
    (hid : m'.id = m.id) (hc : u.cores = s.cores) (hm : u.hbm = s.hbm) (ht : (u.setCmd k m').EngineKeeps t k) :
    t.cores[k].cmdOf id = some m' ∧ t.hbm = s.hbm ∧ ∀ j : CoreId, j ≠ k → t.cores[j] = s.cores[j] := by
  refine ⟨?_, ht.hbm.trans hm, fun j hj => ?_⟩
  · have e : m'.id = id := hid.trans (Core.id_of_cmdOf h)
    subst e
    rw [Core.cmdOf, ht.run]
    exact State.cmdOf_setCmd ⟨m, hc ▸ List.mem_of_find?_eq_some h, hid.symm⟩
  · rw [ht.others j hj, State.setCmd, State.cores_onCore _ _ _ _ hj, hc]
theorem State.sites_goOn (s : State) (k : CoreId) (m : Cmd) : (s.goOn k m).sites = s.sites := by
  unfold State.goOn State.completes
  dsimp only
  split
  · split <;> rfl
  · rfl
theorem State.sites_halt (s : State) (k : CoreId) (m : Cmd) (status : Word) : (s.halt k m status).sites = s.sites := State.sites_goOn ..

/-- The command of a walk whose entry has been read: the entry is none of its atoms any more. -/
def Cmd.entryRead (m : Cmd) (i : Nat) : Cmd := { m with walk := none, atoms := m.atoms.take i }
/-- The entry at a walk's place in the data of its atom (R297). -/
def Atom.entryWord (a : Atom) : Word := a.data.extractLsb' (8 * (a.va % 32)) 64
/-- A site that holds one more entry. -/
def State.holdEntry (s : State) (k : CoreId) (w : Walk) (e : Word) : State :=
  { s with sites := s.sites.set (siteOf k) (s.sites[siteOf k].hold (s.spaceOn k) w e) }

section
variable {s : State} {k : CoreId} {id i : Nat} {m : Cmd} {a : Atom} {w : Walk}

/-- What the entry's atom is for is over with its data: that it is done plays no part any more. -/
theorem State.walked_onAtom (hw : m.walk = some w) (f : Atom → Atom) : s.walked k (m.onAtom i f) a i = s.walked k m a i := by
  have read : (m.atoms.modify i f).take i = m.atoms.take i := by rw [List.take_modify, List.modify_eq_self (by simp)]
  simp only [State.walked, Cmd.onAtom, hw, read]
/-- The data of an entry of a walk is there. -/
theorem exec_readAtomWrite_entry (harg : s.arg = .atom k id i) (hm : s.cores[k].cmdOf id = some m) (ha : m.atoms[i]? = some a)
    (hr : a.role = .entry) (hw : m.walk = some w) : exec .readAtomWrite s = .next (s.walked k m a i) := by
  change execReadAtomWrite s = _
  simp only [execReadAtomWrite, harg, hm, ha, hr, State.walked_onAtom hw]

/-- Dropped meanwhile, it begins the walk again (R302). -/
theorem State.walked_dropped (hw : m.walk = some w) (hd : s.isDropped (k, m.id) = true) : s.walked k m a i =
    (s.setDropped (k, m.id) false).setCmd k ((m.entryRead i).walks (s.sites[siteOf k].walkOf (s.spaceOn k) w.va) s.now) := by
  simp only [State.walked, hw, hd, if_true, Cmd.entryRead]
/-- In a poisoned page, it fails a copy, and a spill or a fill goes on (R197, R336). -/
theorem State.walked_poisoned (hw : m.walk = some w) (hd : s.isDropped (k, m.id) = false) (hb : a.bad = true) : s.walked k m a i =
    if m.kind.moves then (s.setCmd k ((m.entryRead i).lose (w.va / 65536) s.free)).later (.dev .copyStart (.cmd k m.id))
    else s.halt k (m.entryRead i) stPoison := by
  simp only [State.walked, hw, hd, hb, Cmd.entryRead, Bool.true_and, Bool.false_eq_true, if_true, if_false]
/-- Else the walk fails, goes on in a table, or ends at a leaf; what it has read is held (R297, R301). -/
theorem State.walked_bad (hw : m.walk = some w) (hd : s.isDropped (k, m.id) = false) (hb : a.bad = false)
    (hs : seenAt w.level a.entryWord = .bad) : s.walked k m a i = s.halt k (m.entryRead i) stTranslation := by
  rw [Atom.entryWord] at hs
  simp only [State.walked, hw, hd, hb, hs, Cmd.entryRead, Bool.false_and, Bool.false_eq_true, if_false]
theorem State.walked_table {x : Nat} (hw : m.walk = some w) (hd : s.isDropped (k, m.id) = false) (hb : a.bad = false)
    (hs : seenAt w.level a.entryWord = .table x) : s.walked k m a i =
      (s.holdEntry k w a.entryWord).setCmd k ((m.entryRead i).walks ⟨w.va, w.level + 1, x⟩ s.now) := by
  rw [Atom.entryWord] at hs
  simp only [State.walked, hw, hd, hb, hs, Cmd.entryRead, Bool.false_and, Bool.false_eq_true, if_false, State.holdEntry, Atom.entryWord]
theorem State.walked_leaf (hw : m.walk = some w) (hd : s.isDropped (k, m.id) = false) (hb : a.bad = false)
    (hs : seenAt w.level a.entryWord = .leaf) : s.walked k m a i =
      ((s.holdEntry k w a.entryWord).setCmd k (m.entryRead i)).later (.dev .copyStart (.cmd k m.id)) := by
  rw [Atom.entryWord] at hs
  simp only [State.walked, hw, hd, hb, hs, Cmd.entryRead, Bool.false_and, Bool.false_eq_true, if_false, State.holdEntry, Atom.entryWord]

end

/-- What a spill or a fill goes on with: of the atoms not started, those on the page are done, with data that is poisoned (R197, R336). -/
theorem Cmd.getElem?_lose {m : Cmd} {page draw j : Nat} {b b' : Atom} (hb : m.atoms[j]? = some b) (hb' : (m.lose page draw).atoms[j]? = some b') :
    if b.started = false ∧ b.va / 65536 = page then b'.done = true ∧ b'.bad = true ∧ b'.va = b.va else b' = b := by
  rw [Cmd.lose, List.getElem?_mapIdx, hb, Option.map_some, Option.some_inj] at hb'
  subst hb'
  by_cases h : b.started = false ∧ b.va / 65536 = page
  · rw [if_pos h, if_pos (by simpa using h)]
    exact ⟨rfl, rfl, rfl⟩
  · rw [if_neg h, if_neg (by simpa using h)]

end Sys2Proof.Machine
end

section
/-! SUPPORT. Rows of a pseudo-channel: what opening and closing one changes, and what a reserved slot leaves (R194 to R196). -/

namespace Sys2Proof.Machine

/-! ### Lists by number -/

theorem pairGet_pairPut {α : Type} (l : List (Nat × α)) (k : Nat) (v : α) : pairGet (pairPut l k v) k = some v := by
  simp [pairGet, pairPut]
theorem pairGet_filter_self {α : Type} (l : List (Nat × α)) (k : Nat) : pairGet (l.filter (·.1 != k)) k = none := by
  simp [pairGet, List.find?_eq_none]
theorem pairGet_filter_ne {α : Type} (l : List (Nat × α)) {k j : Nat} (h : k ≠ j) : pairGet (l.filter (·.1 != j)) k = pairGet l k := by
  rw [pairGet, pairGet, List.find?_filter]
  congr 2
  funext x
  by_cases hx : x.1 = k
  · simp [hx, h]
  · simp [hx]
theorem filter_of_pairGet_none {α : Type} {l : List (Nat × α)} {k : Nat} (h : pairGet l k = none) : l.filter (·.1 != k) = l := by
  simpa [pairGet, List.find?_eq_none, List.filter_eq_self] using h

/-! ### Rows that open and close -/

/-- What rows that open and close change: the rows, their counts, and what a count whose parity fails leaves. -/
def State.RowChange (s t : State) : Prop :=
  ∃ d f e n c, t = { s with dram := d, free := f, events := e, seq := n, evcount := c }
theorem State.RowChange.refl (s : State) : s.RowChange s := ⟨_, _, _, _, _, rfl⟩
theorem State.RowChange.hbm {s t : State} (h : s.RowChange t) : t.hbm = s.hbm := by obtain ⟨d, f, e, n, c, rfl⟩ := h; rfl
theorem State.RowChange.cores {s t : State} (h : s.RowChange t) : t.cores = s.cores := by obtain ⟨d, f, e, n, c, rfl⟩ := h; rfl
theorem State.RowChange.writeback {s t : State} (h : s.RowChange t) : t.writeback = s.writeback := by
  obtain ⟨d, f, e, n, c, rfl⟩ := h; rfl
theorem State.RowChange.inbox {s t : State} (h : s.RowChange t) : t.inbox = s.inbox := by obtain ⟨d, f, e, n, c, rfl⟩ := h; rfl
theorem State.RowChange.agenda {s t : State} (h : s.RowChange t) : t.agenda = s.agenda := by obtain ⟨d, f, e, n, c, rfl⟩ := h; rfl
theorem State.RowChange.now {s t : State} (h : s.RowChange t) : t.now = s.now := by obtain ⟨d, f, e, n, c, rfl⟩ := h; rfl

theorem State.rowChange_activate (s : State) (ch : ChanId) (dpa : Nat) : s.RowChange (s.activate ch dpa) := by
  unfold State.activate
  dsimp only
  split
  · split
    · exact .refl s
    · split <;> exact ⟨_, _, _, _, _, rfl⟩
  · exact ⟨_, _, _, _, _, rfl⟩
theorem State.rowChange_closeBank (s : State) (ch : ChanId) (bank : Nat) : s.RowChange (s.closeBank ch bank) := by
  unfold State.closeBank
  dsimp only
  split
  · exact .refl s
  · split <;> exact ⟨_, _, _, _, _, rfl⟩

/-! ### What a pseudo-channel keeps -/

theorem State.chan_dramOf (s : State) (ch : ChanId) : (s.dramOf ch).chan = ch := by
  unfold State.dramOf
  cases h : s.dram.find? (·.chan == ch) with
  | none => rfl
  | some d => simpa using List.find?_some h
theorem State.dramOf_setDram (s : State) {ch : ChanId} {d : Dram} (h : d.chan = ch) : (s.setDram d).dramOf ch = d := by
  simp [State.dramOf, State.setDram, h]
/-- A bank without an open row needs none closed. -/
theorem State.closeBank_none {s : State} {ch : ChanId} {bank : Nat} (h : pairGet (s.dramOf ch).opened bank = none) :
    s.closeBank ch bank = s := by
  simp only [State.closeBank, h]
/-- The row open in a bank closes, and its count is written. -/
theorem State.dramOf_closeBank {s : State} {ch : ChanId} {bank key : Nat} (h : pairGet (s.dramOf ch).opened bank = some key) :
    ∃ bad, (s.closeBank ch bank).dramOf ch =
      { (s.dramOf ch).precharge key bad with opened := (s.dramOf ch).opened.filter (·.1 != bank) } := by
  have kept (bad : Bool) : (s.draw.setDram { (s.dramOf ch).precharge key bad with
      opened := (s.dramOf ch).opened.filter (·.1 != bank) }).dramOf ch = _ := State.dramOf_setDram _ (s.chan_dramOf ch)
  refine ⟨Config.freeNat s.free 0 % 2 == 1, ?_⟩
  simp only [State.closeBank, h]
  split <;> exact kept _
/-- No row is open in a bank that has been closed, and every other bank is as it was. -/
theorem State.opened_closeBank (s : State) (ch : ChanId) (bank : Nat) :
    ((s.closeBank ch bank).dramOf ch).opened = (s.dramOf ch).opened.filter (·.1 != bank) := by
  cases h : pairGet (s.dramOf ch).opened bank with
  | none => rw [State.closeBank_none h, filter_of_pairGet_none h]
  | some key =>
    obtain ⟨bad, hd⟩ := State.dramOf_closeBank h
    rw [hd]
/-- A row may join the queue, behind those that wait. -/
theorem State.queue_closeBank (s : State) (ch : ChanId) (bank : Nat) :
    ((s.closeBank ch bank).dramOf ch).queue = (s.dramOf ch).queue ∨
      ∃ k, ((s.closeBank ch bank).dramOf ch).queue = (s.dramOf ch).queue ++ [k] := by
  cases h : pairGet (s.dramOf ch).opened bank with
  | none => exact .inl (by rw [State.closeBank_none h])
  | some key =>
    obtain ⟨bad, hd⟩ := State.dramOf_closeBank h
    rw [hd, Dram.precharge]
    dsimp only
    split
    · exact .inr ⟨key, rfl⟩
    · exact .inl rfl
theorem State.counts_closeBank {s : State} {ch : ChanId} {bank key : Nat} (h : pairGet (s.dramOf ch).opened bank = some key) :
    pairGet ((s.closeBank ch bank).dramOf ch).counts key = some (min 2047 ((pairGet (s.dramOf ch).counts key).getD 0 + 1)) := by
  obtain ⟨bad, hd⟩ := State.dramOf_closeBank h
  rw [hd]
  exact pairGet_pairPut ..

/-! ### Reserved slots -/

/-- A row that has had its targeted refresh (R195). -/
def Dram.refreshed (d : Dram) (key : Nat) : Dram :=
  { d with queue := d.queue.erase key, counts := d.counts.filter (·.1 != key), corrupt := setErase d.corrupt key }
/-- A reserved slot closes a bank, and refreshes the row that waited first when it began, if one did. -/
theorem exec_refreshSlot_none {s : State} {ch : ChanId} {slot : Nat} (h : s.arg = .service ch slot) (hq : (s.dramOf ch).queue = []) :
    exec .refreshSlot s = .next (s.closeBank ch (refreshBank slot)) := by
  change execRefreshSlot s = _
  simp only [execRefreshSlot, h, hq, List.head?_nil]
theorem exec_refreshSlot_cons {s : State} {ch : ChanId} {slot key : Nat} {rest : List Nat} (h : s.arg = .service ch slot)
    (hq : (s.dramOf ch).queue = key :: rest) : exec .refreshSlot s =
      .next ((s.closeBank ch (refreshBank slot)).setDram (((s.closeBank ch (refreshBank slot)).dramOf ch).refreshed key)) := by
  change execRefreshSlot s = _
  simp only [execRefreshSlot, h, hq, List.head?_cons, Dram.refreshed]

/-! ### Write-backs and self-refresh (R194, R196) -/

theorem exec_eccWriteback_none {s : State} {ch : ChanId} (h : s.arg = .chan ch) (hw : s.writeback.find? (·.1 == ch) = none) :
    exec .eccWriteback s = .next s := by
  change execEccWriteback s = _
  simp only [execEccWriteback, h, hw]
/-- A corrected atom that is written back waits no longer, and its bytes stand as they are. -/
theorem exec_eccWriteback_some {s : State} {ch : ChanId} {w : ChanId × Nat} (h : s.arg = .chan ch)
    (hw : s.writeback.find? (·.1 == ch) = some w) : ∃ t, exec .eccWriteback s = .next t ∧ t.writeback = s.writeback.erase w ∧
      t.hbm = s.hbm ∧ t.cores = s.cores := by
  have row := s.draw.rowChange_activate ch w.2
  have writeback := congrArg (List.erase · w) row.writeback
  change ∃ t, execEccWriteback s = _ ∧ _
  simp only [execEccWriteback, h, hw]
  split
  · unfold State.poisonPage
    split <;> exact ⟨_, rfl, writeback, row.hbm, row.cores⟩
  · exact ⟨_, rfl, writeback, row.hbm, row.cores⟩
/-- A channel for which something waits stays awake; any other enters self-refresh once it has served nothing for 64 rotations. -/
theorem exec_selfRefreshEntry_awaited {s : State} {f : Fin 768} (h : s.arg = .four f) (ha : s.awaited f = true) :
    exec .selfRefreshEntry s = .next { s with quiet := pairPut s.quiet f.val s.now } := by
  change execSelfRefreshEntry s = _
  simp only [execSelfRefreshEntry, h, ha, if_true]
theorem exec_selfRefreshEntry_quiet {s : State} {f : Fin 768} (h : s.arg = .four f) (ha : s.awaited f = false) :
    exec .selfRefreshEntry s = .next (if (pairGet s.quiet f.val).getD 0 + 32000 < s.now then
      { s with asleep := setInsert s.asleep f.val } else s) := by
  change execSelfRefreshEntry s = _
  simp only [execSelfRefreshEntry, h, ha, Bool.false_eq_true, if_false]
  split <;> rfl

end Sys2Proof.Machine
end

section
/-! SUPPORT. Atoms that are served: which one a slot serves, and what it leaves (R189 to R191, R196, R197, R201). -/

namespace Sys2Proof.Machine

/-! ### The choice of a slot -/

/-- The core of a die that a slot belongs to (R188). -/
def slotCore (slot die : Nat) : CoreId := Fin.ofNat 384 (96 * die + slot % 100 % 96)
/-- The dies that are not a pseudo-channel's own, in the order of a slot's rotation (R189). -/
def remoteDies (ch : ChanId) (slot : Nat) : List Nat :=
  ((List.range 4).map fun j => (ch.val / 768 + 1 + slot / 100 + j) % 4).filter (· != ch.val / 768)
theorem mem_remoteDies {ch : ChanId} {slot e : Nat} (h : e ∈ remoteDies ch slot) : e < 4 ∧ e ≠ ch.val / 768 := by
  obtain ⟨hm, hn⟩ := List.mem_filter.1 h
  obtain ⟨j, -, rfl⟩ := List.mem_map.1 hm
  exact ⟨Nat.mod_lt _ (by decide), by simpa using hn⟩
/-- What waits for a slot beside the atoms of the own die's core: nothing, where no core of another die has an atom. -/
theorem State.remote_claims_nil {s : State} {ch : ChanId} {slot : Nat}
    (h : ∀ e, e < 4 → e ≠ ch.val / 768 → s.claims (slotCore slot e) ch s.now = []) :
    ((remoteDies ch slot).map fun e => s.claims (slotCore slot e) ch s.now) = (remoteDies ch slot).map fun _ => [] :=
  List.map_congr_left fun _ he => h _ (mem_remoteDies he).1 (mem_remoteDies he).2

/-- An atom that waits is one of a command's of its core, on its pseudo-channel. -/
theorem State.mem_claims {s : State} {k : CoreId} {ch : ChanId} {now : Nat} {x : Claim} (h : x ∈ s.claims k ch now) :
    x.core = k ∧ x.atom.chan = ch ∧ x.queue < 4 := by
  simp only [State.claims, List.mem_flatMap, List.mem_map, List.mem_filter] at h
  obtain ⟨m, -, p, ⟨-, hp⟩, rfl⟩ := h
  have chan : p.1.chan = ch := by simpa using (Bool.and_eq_true_iff.1 hp).1
  refine ⟨rfl, chan, ?_⟩
  cases m.queue with
  | none => exact Nat.zero_lt_succ 3
  | some q => exact q.isLt
/-- The round of the queues comes once to each of them. -/
theorem queue_turn (x : Claim) : ∀ queue start : Fin 4,
    (List.range 4).flatMap (fun j => if queue.val == (start.val + j) % 4 then [x] else []) = [x] := by
  intro queue start
  fin_cases queue <;> fin_cases start <;> rfl
/-- Of one atom that waits alone there is no choice. -/
theorem chooseOrder_singleton {x : Claim} (h : x.queue < 4) (rotation : Nat) : chooseOrder [x] rotation = [x] := by
  have turn := queue_turn x ⟨x.queue, h⟩ ⟨rotation % 4, Nat.mod_lt _ (by decide)⟩
  simp only [Nat.mod_add_mod] at turn
  unfold chooseOrder
  simp only [List.filter_cons, List.filter_nil]
  by_cases hs : x.atom.slipped = true
  · by_cases h2 : 2 ≤ x.atom.slips
    · simp [hs, h2, Nat.lt_of_succ_le h2]
    · simp [hs, h2, Nat.le_of_not_lt h2]
  · by_cases hf : x.first = true
    · simp [hs, hf]
    · have plain : x.atom.slipped = false ∧ x.first = false := by simpa using And.intro hs hf
      simp only [plain, List.filter_cons, List.filter_nil, Bool.false_eq_true, if_false, Bool.not_false, if_true, Bool.true_and,
        List.nil_append]
      exact turn

theorem fourOf_val (ch : ChanId) : (fourOf ch).val = ch.val / 4 := by
  have := ch.isLt
  change ch.val / 4 % 768 = _
  omega

/-- No atom has slipped twice where none waits. -/
theorem findSome?_late_nil (n : Nat) : (List.replicate n ([] : List Claim)).findSome? (fun l =>
    (sortOn (fun x : Claim => x.atom.start) (l.filter fun x => decide (2 ≤ x.atom.slips))).head?) = none := by
  rw [List.findSome?_eq_none_iff]
  intro l hl
  rw [List.eq_of_mem_replicate hl]
  rfl
/-- A slot that no core's atom waits for serves what peers write. -/
theorem exec_atomService_free {s : State} {ch : ChanId} {slot : Nat} (harg : s.arg = .service ch slot)
    (hawake : ¬ s.asleep.contains (ch.val / 4) = true) (h : ∀ e, e < 4 → s.claims (slotCore slot e) ch s.now = []) :
    exec .atomService s = .next (s.serveInbox ch) := by
  have own := h (ch.val / 768) (by have := ch.isLt; omega)
  have remote := State.remote_claims_nil fun e he _ => h e he
  change execAtomService s = _
  unfold slotCore at own
  unfold remoteDies slotCore at remote
  simp only [execAtomService, harg, fourOf_val, hawake, own, remote]
  simp [findSome?_late_nil]
theorem exec_atomService_sole {s : State} {ch : ChanId} {slot : Nat} {x : Claim} (harg : s.arg = .service ch slot)
    (hawake : ¬ s.asleep.contains (ch.val / 4) = true) (hown : s.claims (slotCore slot (ch.val / 768)) ch s.now = [x])
    (h : ∀ e, e < 4 → e ≠ ch.val / 768 → s.claims (slotCore slot e) ch s.now = []) (hslips : 2 ≤ x.atom.slips)
    (hqueue : s.queueHolds x = false) : exec .atomService s = .next (s.draw.serve x) := by
  have remote := State.remote_claims_nil h
  change execAtomService s = _
  unfold slotCore at hown
  unfold remoteDies slotCore at remote
  simp only [execAtomService, harg, fourOf_val, hawake, hown, remote]
  have turn : x.queue < 4 := (State.mem_claims (hown ▸ List.mem_singleton_self x)).2.2
  have now : ¬ x.atom.slips < 2 := Nat.not_lt.2 hslips
  simp [hslips, hqueue, chooseOrder_singleton turn, State.serveFirst, now]

/-- An atom that slips changes its command alone. -/
theorem State.foldl_slip (counted : Bool) (l : List Claim) (s : State) : (l.foldl (fun s x => s.slip x counted) s).hbm = s.hbm ∧
    ∀ i : CoreId, (l.foldl (fun s x => s.slip x counted) s).cores[i].sram = s.cores[i].sram ∧
      (l.foldl (fun s x => s.slip x counted) s).cores[i].ctx = s.cores[i].ctx := by
  induction l generalizing s with
  | nil => exact ⟨rfl, fun _ => ⟨rfl, rfl⟩⟩
  | cons x l ih =>
    obtain ⟨hhbm, hcores⟩ := ih (s.slip x counted)
    refine ⟨hhbm, fun i => ?_⟩
    obtain ⟨hsram, hctx⟩ := hcores i
    rw [List.foldl_cons, hsram, hctx, State.slip]
    by_cases hi : i = x.core
    · subst hi
      rw [State.cores_onCore_self]
      exact ⟨rfl, rfl⟩
    · rw [State.cores_onCore _ _ _ _ hi]
      exact ⟨rfl, rfl⟩
/-- What waits for a channel in self-refresh slips, and its exit may begin (R194). -/
theorem exec_atomService_asleep {s : State} {ch : ChanId} {slot : Nat} (harg : s.arg = .service ch slot)
    (hasleep : s.asleep.contains (ch.val / 4) = true) : ∃ (l : List Claim) (t : State), exec .atomService s = .next t ∧
      let u := l.foldl (fun s x => s.slip x false) s
      (t = u ∨ ∃ n d, t = u.draw.atClock n d) := by
  change ∃ l t, execAtomService s = _ ∧ _
  simp only [execAtomService, harg, fourOf_val, hasleep, if_true]
  split
  · exact ⟨_, _, rfl, .inl rfl⟩
  · exact ⟨_, _, rfl, .inr ⟨_, _, rfl⟩⟩

/-! ### What a peer writes (R201) -/

theorem State.serveInbox_none {s : State} {ch : ChanId} (h : ∀ x ∈ s.inbox, x.chan ≠ ch) : s.serveInbox ch = s := by
  have none : s.inbox.find? (·.chan == ch) = none := by simpa [List.find?_eq_none] using h
  simp only [State.serveInbox, none]
theorem State.serveInbox_some {s : State} {ch : ChanId} {x : Inbound} (h : s.inbox.find? (·.chan == ch) = some x) : s.serveInbox ch =
    if Config.freeNat s.free 0 % 2 = 1 ∨ s.bankHeld ch x.dpa = true then s.draw else s.draw.serveInbound x := by
  simp only [State.serveInbox, h, Bool.or_eq_true, beq_iff_eq]
theorem State.foldl_setDropped_eq (l : List (CoreId × Nat)) (v : Bool) (s : State) :
    (l.foldl (fun s x => s.setDropped x v) s) = { s with sites := (l.foldl (fun s x => s.setDropped x v) s).sites } := by
  induction l generalizing s with
  | nil => rfl
  | cons x l ih => rw [List.foldl_cons, ih]; rfl
/-- Records that a write touches are dropped from the sites, and nothing else goes. -/
theorem State.dropRecords_eq (s : State) (dpa n : Nat) : s.dropRecords dpa n = { s with sites := (s.dropRecords dpa n).sites } :=
  State.foldl_setDropped_eq ..
/-- The atom of a peer is written under its mask, and answered. -/
theorem State.serveInbound_spec (s : State) (x : Inbound) :
    let t := s.serveInbound x
    t.inbox = s.inbox.erase x ∧ t.answers[x.port] = some .taken ∧ t.cores = s.cores ∧
      t.hbm = memPutMask s.hbm (cellAt x.chan x.dpa) x.mask.toNat x.data.toNat 32 := by
  intro t
  have row := s.rowChange_activate x.chan x.dpa
  have ht : t = State.respond (State.dropRecords _ x.dpa 32) x.port .taken := rfl
  rw [State.dropRecords_eq] at ht
  rw [ht]
  refine ⟨?_, Vector.getElem_set_self _, row.cores, ?_⟩
  · exact congrArg (List.erase · x) row.inbox
  · exact congrArg (memPutMask · _ _ _ _) row.hbm

end Sys2Proof.Machine
end

section
/-! SUPPORT. What the service of a write and of a read leaves of its command, its core and the device (R189, R196, R197). -/

namespace Sys2Proof.Machine

/-! ### Bytes of a page that reach a scratchpad again -/

theorem Core.run_foldl {α : Type} {f : Core → α → Core} (hf : ∀ c x, (f c x).run = c.run) (l : List α) (c : Core) :
    (l.foldl f c).run = c.run := by
  induction l generalizing c with
  | nil => rfl
  | cons x l ih => exact (ih (f c x)).trans (hf c x)
theorem Core.run_putBytes (c : Core) (l : List (Nat × Byte)) : (c.putBytes l).run = c.run := by
  apply Core.run_foldl
  exact fun _ _ => rfl
theorem Core.run_putPoison (c : Core) (l : List Nat) (v : Bool) : (c.putPoison l v).run = c.run := by
  apply Core.run_foldl
  exact fun _ _ => rfl
theorem Cmd.run_markLines (m : Cmd) (c : Core) (bad : Bool) (l : List Nat) : (m.markLines c bad l).run = c.run := by
  unfold Cmd.markLines
  split <;> exact Core.run_putPoison ..
/-- The data of an atom changes the scratchpad, and of its command what has come. -/
theorem State.bring_eq (s : State) (k : CoreId) (m : Cmd) (a : Atom) : ∃ (f : Core → Core) (m' : Cmd), (∀ c, (f c).run = c.run) ∧
    m'.id = m.id ∧ m'.atoms = m.atoms ∧ s.bring k m a = (s.onCore k f).setCmd k m' := by
  have same : s.onCore k id = s := State.onCore_id rfl
  have tallied (bad : Bool) (lines : List Nat) : (m.tally bad lines).id = m.id ∧ (m.tally bad lines).atoms = m.atoms := by
    unfold Cmd.tally
    split <;> exact ⟨rfl, rfl⟩
  have landed (c : Core) (lines : List Nat) : ((m.tally a.bad lines).markLines (c.putBytes a.lands) a.bad (linesOf (a.lands.map (·.1)))).run =
      c.run := (Cmd.run_markLines ..).trans (Core.run_putBytes ..)
  unfold State.bring
  split
  · exact ⟨_, _, fun c => landed c _, (tallied _ _).1, (tallied _ _).2, rfl⟩
  · exact ⟨_, _, fun c => landed c _, (tallied _ _).1, (tallied _ _).2, rfl⟩
  · exact ⟨id, { m with stage := stageNibbles m.stage a.data a.moves }, fun _ => rfl, rfl, rfl, by rw [same]⟩
  · exact ⟨id, m, fun _ => rfl, rfl, rfl, by rw [same]⟩
/-- Data of atoms of a command comes to its core, and to nothing else, and the command keeps its atoms. -/
theorem State.foldl_bring (k : CoreId) (m : Cmd) (g : State → Atom → Atom) (l : List Atom) {s : State} {q : Cmd}
    (hq : s.cores[k].cmdOf m.id = some q) (ha : q.atoms = m.atoms) : ∃ (f : Core → Core) (m' : Cmd),
    let t := l.foldl (fun (t : State) b => t.bring k ((t.cores[k].cmdOf m.id).getD m) (g t b)) s
    t = s.onCore k f ∧ t.cores[k].cmdOf m.id = some m' ∧ m'.atoms = m.atoms := by
  induction l generalizing s q with
  | nil => exact ⟨id, q, (State.onCore_id rfl).symm, hq, ha⟩
  | cons b l ih =>
    obtain ⟨f, m', hf, hid, hatoms, h⟩ := s.bring_eq k q (g s b)
    have number : m'.id = m.id := hid.trans (Core.id_of_cmdOf hq)
    have there : ((s.onCore k f).setCmd k m').cores[k].cmdOf m.id = some m' := by
      rw [← number]
      refine State.cmdOf_setCmd ⟨q, ?_, hid.symm⟩
      rw [State.cores_onCore_self, hf]
      exact List.mem_of_find?_eq_some hq
    obtain ⟨f', m'', ht, hm, ha⟩ := ih there (hatoms.trans ha)
    have once : ((s.onCore k f).setCmd k m').onCore k f' = s.onCore k fun c => f' ((f c).onCmd m'.id fun _ => m') := by
      rw [State.setCmd, State.onCore_onCore, State.onCore_onCore]
    rw [List.foldl_cons, hq, Option.getD_some, h]
    exact ⟨_, m'', ht.trans once, hm, ha⟩

/-! ### The check of a read (R196, R197) -/

theorem State.writeback_checkAtom (s : State) (ch : ChanId) (dpa : Nat) :
    (s.checkAtom ch dpa).writeback = s.writeback ∨ (s.checkAtom ch dpa).writeback = s.writeback ++ [(ch, dpa)] := by
  unfold State.checkAtom State.poisonPage
  dsimp only
  split
  · split <;> exact .inl rfl
  · split
    · exact .inr rfl
    · exact .inl rfl
/-- An uncorrectable atom leaves its page poisoned. -/
theorem State.poisoned_checkAtom {s : State} (h : s.eccOf = 2) (ch : ChanId) (dpa : Nat) : (s.checkAtom ch dpa).poisoned dpa = true := by
  unfold State.checkAtom State.poisonPage
  rw [if_pos h]
  split
  · assumption
  · exact List.contains_iff_mem.2 ((mem_setInsert_iff ..).2 (.inl rfl))

/-! ### Service -/

/-- The row of an atom is open in its slot, and its channel is awake. -/
def State.inSlot (s : State) (x : Claim) : State :=
  { s.activate x.atom.chan x.atom.dpa with
    quiet := pairPut (s.activate x.atom.chan x.atom.dpa).quiet (fourOf x.atom.chan).val (s.activate x.atom.chan x.atom.dpa).now }
theorem State.serve_eq {s : State} {x : Claim} {m : Cmd} (h : s.cores[x.core].cmdOf x.cmd = some m) :
    s.serve x = if x.atom.write then (s.inSlot x).serveWrite x m else (s.inSlot x).serveRead x m := by
  simp only [State.serve, h, State.inSlot]

/-- A write that is served is done, with the bytes it had for it (R189, R211). -/
theorem State.serveWrite_eq (s : State) (x : Claim) (m : Cmd) : ∃ (st : Word) (poison : List Nat) (sites : Vector Site 48) (todo : List Due),
    s.serveWrite x m =
      { s.setCmd x.core { m.onAtom x.i (fun a => { a with served := true, done := true }) with status := st } with
        hbm := (m.writeBytes s.cores[x.core] x.atom).foldl (fun h p => memSet h (x.atom.cell + p.1) p.2) s.hbm
        pagePoison := poison, sites := sites, todo := todo } := by
  unfold State.serveWrite
  dsimp only
  rw [State.dropRecords_eq]
  split <;> split <;> exact ⟨_, _, _, _, rfl⟩

/-- A command one of whose reads has been served. -/
def Cmd.readServed (m : Cmd) (i : Nat) (data : BitVec 256) (bad : Bool) (st : Word) : Cmd :=
  { m.onAtom i (fun a => { a with served := true, data := data, bad := bad }) with status := st }
theorem Cmd.atom_readServed {m : Cmd} {i : Nat} {a : Atom} (h : m.atoms[i]? = some a) (data : BitVec 256) (bad : Bool) (st : Word) :
    (m.readServed i data bad st).atoms[i]? = some { a with served := true, data := data, bad := bad } := by
  simp [Cmd.readServed, Cmd.onAtom, h]
/-- Where the page of a read turns out to be poisoned, the read goes with what its command has read of the page. -/
theorem Cmd.atom_spoil {m : Cmd} {i : Nat} {a : Atom} (h : m.atoms[i]? = some a) (hr : a.role = .bytes) (hw : a.write = false)
    (hs : a.served = true) (draw : Nat) : (m.spoil (a.dpa / 4096) draw).atoms[i]?.map (fun a => (a.served, a.bad)) = some (true, true) := by
  simp [Cmd.spoil, h, hr, hw, hs]

/-- A read that is served is checked, and its data is on its way (R189, R196, R197). -/
theorem State.serveRead_spec {s : State} {x : Claim} {m : Cmd} (hm : s.cores[x.core].cmdOf x.cmd = some m)
    (ha : m.atoms[x.i]? = some x.atom) (hw : x.atom.write = false) :
    let c := s.checkAtom x.atom.chan x.atom.dpa
    ∃ (f : Core → Core) (l : List Due) (m' : Cmd), s.serveRead x m = ((c.onCore x.core f).soon l).atClock
        (s.now + if m.kind.exact then 523 else 524) (.dev .readAtomWrite (.atom x.core x.cmd x.i)) ∧
      (s.serveRead x m).cores[x.core].cmdOf x.cmd = some m' ∧
      m'.atoms[x.i]?.map (fun a => (a.served, a.bad)) = some (true, c.poisoned x.atom.dpa) ∧
      (c.poisoned x.atom.dpa = false → m'.atoms[x.i]?.map (·.data) =
        some (if x.atom.owned then BitVec.ofNat 256 (memLe s.hbm x.atom.cell 32) else x.atom.data)) := by
  intro c
  have number : m.id = x.cmd := Core.id_of_cmdOf hm
  let bad := c.poisoned x.atom.dpa
  let data := if bad then Config.freeBits 256 s.free 1
    else if x.atom.owned then BitVec.ofNat 256 (memLe s.hbm x.atom.cell 32) else x.atom.data
  let m1 := m.readServed x.i data bad
    ((if s.eccOf = 1 then (· ||| 0x200) else id) (if bad then addFail m.status stPoison else m.status))
  let spoiled : Bool := s.eccOf = 2 && !s.poisoned x.atom.dpa && x.atom.role == .bytes
  let m2 := if spoiled then m1.spoil (x.atom.dpa / 4096) s.free else m1
  have read : m1.atoms[x.i]? = _ := Cmd.atom_readServed ha data bad _
  have same : m2.id = x.cmd ∧ m2.kind = m.kind := by
    simp only [m2]
    split <;> exact ⟨number, rfl⟩
  have there : (c.setCmd x.core m2).cores[x.core].cmdOf m2.id = some m2 :=
    State.cmdOf_setCmd ⟨m, by rw [(State.checks_checkAtom ..).cores]; exact List.mem_of_find?_eq_some hm, number.trans same.1.symm⟩
  obtain ⟨f, m', ht, hcmd, hatoms⟩ := State.foldl_bring x.core m2 (fun t b => t.cores[x.core].stillOwn m2 b)
    (if spoiled then m2.atoms.filter fun b => b.bad && b.done && b.dpa / 4096 = x.atom.dpa / 4096 else []) there rfl
  have once : (c.setCmd x.core m2).onCore x.core f = c.onCore x.core fun q => f (q.onCmd m2.id fun _ => m2) := State.onCore_onCore ..
  have out : s.serveRead x m = _ :=
    congrArg (fun t : State => (t.soon (t.cores[x.core].nextStart x.core m2)).atClock (s.now + if m2.kind.exact then 523 else 524)
      (.dev .readAtomWrite (.atom x.core x.cmd x.i))) (ht.trans once)
  have sound (h : ¬ spoiled = true) : m2 = m1 := if_neg h
  rw [same.2] at out
  refine ⟨_, _, m', out, ?_, ?_, fun hb => ?_⟩
  · rw [← same.1]
    exact hcmd
  · rw [hatoms]
    by_cases h : spoiled = true
    · obtain ⟨⟨hecc, -⟩, hrole⟩ : (s.eccOf = 2 ∧ s.poisoned x.atom.dpa = false) ∧ x.atom.role = .bytes := by simpa [spoiled] using h
      have spoils : m2 = m1.spoil (x.atom.dpa / 4096) s.free := if_pos h
      rw [spoils, State.poisoned_checkAtom hecc]
      exact Cmd.atom_spoil read hrole hw rfl s.free
    · rw [sound h, read]
      rfl
  · have h : ¬ spoiled = true := fun h => by
      obtain ⟨⟨hecc, -⟩, -⟩ : (s.eccOf = 2 ∧ s.poisoned x.atom.dpa = false) ∧ x.atom.role = .bytes := by simpa [spoiled] using h
      exact absurd (State.poisoned_checkAtom hecc ..) (by rw [hb]; exact Bool.false_ne_true)
    rw [hatoms, sound h, read, Option.map_some]
    exact congrArg some (if_neg (by rw [show bad = false from hb]; exact Bool.false_ne_true))

theorem State.inSlot_keeps (s : State) (x : Claim) : (s.inSlot x).cores = s.cores ∧ (s.inSlot x).hbm = s.hbm ∧
    (s.inSlot x).agenda = s.agenda ∧ (s.inSlot x).writeback = s.writeback ∧ (s.inSlot x).now = s.now :=
  have row := s.rowChange_activate x.atom.chan x.atom.dpa
  ⟨row.cores, row.hbm, row.agenda, row.writeback, row.now⟩
/-- What the service of a write leaves. -/
theorem State.serve_write {s : State} {x : Claim} {k : CoreId} {m : Cmd} (hk : x.core = k) (hm : s.cores[k].cmdOf x.cmd = some m)
    (ha : m.atoms[x.i]? = some x.atom) (hw : x.atom.write = true) : ∃ m', (s.serve x).cores[k].cmdOf x.cmd = some m' ∧
      (∀ i : CoreId, i ≠ k → (s.serve x).cores[i] = s.cores[i]) ∧
      m'.atoms[x.i]?.map (fun a => (a.served, a.done)) = some (true, true) ∧
      (s.serve x).hbm = (m.writeBytes s.cores[k] x.atom).foldl (fun h p => memSet h (x.atom.cell + p.1) p.2) s.hbm := by
  subst hk
  obtain ⟨hcores, hhbm, -, -, -⟩ := s.inSlot_keeps x
  obtain ⟨st, poison, sites, todo, h⟩ := (s.inSlot x).serveWrite_eq x m
  rw [State.serve_eq hm, if_pos hw, h]
  obtain ⟨hcmd, -, hothers⟩ := State.EngineKeeps.command (u := s.inSlot x) hm (m' :=
    { m.onAtom x.i (fun a => { a with served := true, done := true }) with status := st }) rfl hcores hhbm (.refl ..)
  refine ⟨_, hcmd, hothers, ?_, ?_⟩
  · simp [Cmd.onAtom, ha]
  · simp only [hcores, hhbm]
/-- What the service of a read leaves. -/
theorem State.serve_read {s : State} {x : Claim} {k : CoreId} {ch : ChanId} {m : Cmd} (hk : x.core = k) (hc : x.atom.chan = ch)
    (hm : s.cores[k].cmdOf x.cmd = some m) (ha : m.atoms[x.i]? = some x.atom) (hw : x.atom.write = false) :
    let t := s.serve x
    ∃ m', t.cores[k].cmdOf x.cmd = some m' ∧ (∀ i : CoreId, i ≠ k → t.cores[i] = s.cores[i]) ∧ t.hbm = s.hbm ∧
      m'.atoms[x.i]?.map (fun a => (a.served, a.bad)) = some (true, t.poisoned x.atom.dpa) ∧
      (t.poisoned x.atom.dpa = false → m'.atoms[x.i]?.map (·.data) =
        some (if x.atom.owned then BitVec.ofNat 256 (memLe s.hbm x.atom.cell 32) else x.atom.data)) ∧
      (t.writeback = s.writeback ∨ t.writeback = s.writeback ++ [(ch, x.atom.dpa)]) ∧
      t.agenda = s.agenda ++
        [(s.now + (if m.kind.exact then 523 else 524), .dev .readAtomWrite (.atom k x.cmd x.i))] := by
  intro t
  subst hk hc
  obtain ⟨hcores, hhbm, hagenda, hwriteback, hnow⟩ := s.inSlot_keeps x
  have checks := (s.inSlot x).checks_checkAtom x.atom.chan x.atom.dpa
  have ht : t = (s.inSlot x).serveRead x m := (State.serve_eq hm).trans (if_neg (by rw [hw]; exact Bool.false_ne_true))
  have hm' : (s.inSlot x).cores[x.core].cmdOf x.cmd = some m := by rw [hcores]; exact hm
  obtain ⟨f, l, m', out, hcmd, hserved, hdata⟩ := State.serveRead_spec hm' ha hw
  have agenda : ((s.inSlot x).checkAtom x.atom.chan x.atom.dpa).agenda = s.agenda := by
    obtain ⟨_, _, _, _, _, _, h, -⟩ := checks
    rw [h]
    exact hagenda
  have poisoned : t.poisoned x.atom.dpa = ((s.inSlot x).checkAtom x.atom.chan x.atom.dpa).poisoned x.atom.dpa := by
    rw [ht, out]
    rfl
  rw [hhbm] at hdata
  rw [poisoned, ht]
  refine ⟨m', hcmd, fun i hi => ?_, ?_, hserved, hdata, ?_, ?_⟩
  · rw [out]
    refine (State.cores_onCore _ _ _ _ hi).trans ?_
    rw [checks.cores, hcores]
  · rw [out]
    exact checks.hbm.trans hhbm
  · rw [out, ← hwriteback]
    exact (s.inSlot x).writeback_checkAtom ..
  · rw [out, ← agenda, ← hnow]
    rfl

end Sys2Proof.Machine
end

section
/-! SUPPORT. Answers to commands, and the variables of a Weir's own memory with those who wait on them (R245 to R247, R347). -/

namespace Sys2Proof.Machine

/-! ### What an answer leaves of the Weir and of the tasks (R347) -/

/-- The variables in the Weirs' memory, the queues of those who wait, the tasks and what is on its way are the same. -/
structure State.WeirSame (s t : State) : Prop where
  sync : t.sync = s.sync
  sems : t.sems = s.sems
  bars : t.bars = s.bars
  tasks : t.tasks = s.tasks
  agenda : t.agenda = s.agenda

theorem State.WeirSame.refl (s : State) : s.WeirSame s := ⟨rfl, rfl, rfl, rfl, rfl⟩
theorem State.WeirSame.trans {s t u : State} (h : s.WeirSame t) (g : t.WeirSame u) : s.WeirSame u :=
  ⟨g.sync.trans h.sync, g.sems.trans h.sems, g.bars.trans h.bars, g.tasks.trans h.tasks, g.agenda.trans h.agenda⟩
theorem State.Checks.weirSame {s t : State} (h : s.Checks t) : s.WeirSame t := by
  obtain ⟨f, w, p, e, n, c, rfl, -⟩ := h
  exact ⟨rfl, rfl, rfl, rfl, rfl⟩
theorem State.weirSame_onCore (s : State) (k : CoreId) (f : Core → Core) : s.WeirSame (s.onCore k f) := ⟨rfl, rfl, rfl, rfl, rfl⟩
theorem State.weirSame_writeVa {s t : State} {sp : Space} {va n v : Nat} (h : s.writeVa sp va n v = .ok t) : s.WeirSame t := by
  unfold State.writeVa at h
  split at h
  · cases h
  · cases h
    exact ⟨rfl, rfl, rfl, rfl, rfl⟩
theorem State.weirSame_areaPut (s : State) (i off n v : Nat) : s.WeirSame (s.areaPut i off n v) := by
  unfold State.areaPut
  split
  · exact .refl s
  · split
    · next hw => exact State.weirSame_writeVa hw
    · exact .refl s
theorem State.weirSame_taskPoke (s : State) (u : Task) (a : Nat) (b : Byte) : s.WeirSame (s.taskPoke u a b) := by
  unfold State.taskPoke
  split
  · exact s.weirSame_onCore _ _
  · exact (s.weirSame_areaPut ..).trans (State.weirSame_areaPut ..)
  · exact .refl s
theorem State.weirSame_taskPut (u : Task) (n : Nat) (s : State) (a v : Nat) : s.WeirSame (s.taskPut u a v n) := by
  induction n generalizing s a v with
  | zero => exact .refl s
  | succ n ih => exact (s.weirSame_taskPoke u a _).trans (ih _ _ _)
theorem State.weirSame_taskTag (s : State) (u : Task) (tag : TagId) (st : Word) : s.WeirSame (s.taskTag u tag st) := by
  unfold State.taskTag
  split
  · exact s.weirSame_onCore _ _
  · exact ((s.weirSame_areaPut ..).trans (State.weirSame_areaPut ..)).trans (State.weirSame_areaPut ..)

/-- The result word of a command written, where it has one. -/
def State.resultWord (s : State) (u : Task) (addr : Nat) : Option Word → State
  | some w => (s.checkTask u addr 8).taskPut u addr w.toNat 8
  | none => s
theorem State.weirSame_resultWord (s : State) (u : Task) (addr : Nat) (word : Option Word) : s.WeirSame (s.resultWord u addr word) := by
  cases word with
  | none => exact .refl s
  | some w => exact (State.checks_checkTask s u addr 8).weirSame.trans (State.weirSame_taskPut u 8 _ addr w.toNat)
/-- A completion by its parts: horizons, result word, tag, and the next command (R205, R215, R219). -/
theorem State.complete_eq (s : State) (u : Task) (tag : TagId) (addr : Nat) (word : Option Word) (st : Word) (up : Raise) :
    s.complete u tag addr word st up =
      let t := (s.raise u up).resultWord u addr word
      let t := if u.stand = .onCore then t.onCore u.core (·.acquired tag) else t
      ((t.checkTags u).taskTag u tag st).accept u := by
  cases word <;> rfl

/-- The Weir is the same, nothing on its way is lost, and no task on a core has changed. -/
structure State.WeirKept (s t : State) : Prop where
  sync : t.sync = s.sync
  sems : t.sems = s.sems
  bars : t.bars = s.bars
  tasks : ∀ tid q, s.taskOf tid = some q → q.stand = .onCore → t.taskOf tid = some q
  agenda : s.agenda ⊆ t.agenda

theorem State.WeirKept.refl (s : State) : s.WeirKept s := ⟨rfl, rfl, rfl, fun _ _ h _ => h, fun _ h => h⟩
theorem State.WeirKept.trans {s t u : State} (h : s.WeirKept t) (g : t.WeirKept u) : s.WeirKept u :=
  ⟨g.sync.trans h.sync, g.sems.trans h.sems, g.bars.trans h.bars, fun tid q hq ho => g.tasks tid q (h.tasks tid q hq ho) ho,
    fun _ hy => g.agenda (h.agenda hy)⟩
theorem State.WeirSame.kept {s t : State} (h : s.WeirSame t) : s.WeirKept t :=
  ⟨h.sync, h.sems, h.bars, fun tid q hq _ => by rwa [State.taskOf, h.tasks], fun _ hy => h.agenda ▸ hy⟩

/-- A task updated, its TID apart, leaves every other task. -/
theorem State.taskOf_onTask_of_ne {s : State} {a b : Word} {f : Task → Task} (hf : ∀ x, (f x).tid = x.tid) (h : b ≠ a) :
    (s.onTask a f).taskOf b = s.taskOf b := by
  have go (l : List Task) : (l.map fun t => if t.tid == a then f t else t).find? (·.tid == b) = l.find? (·.tid == b) := by
    induction l with
    | nil => rfl
    | cons x l ih =>
      rw [List.map_cons, List.find?_cons, List.find?_cons, ih]
      by_cases hx : x.tid = a
      · have hb : (x.tid == b) = false := beq_eq_false_iff_ne.mpr fun e => h (e.symm.trans hx)
        rw [if_pos (beq_iff_eq.mpr hx), hf, hb]
      · rw [if_neg (mt beq_iff_eq.mp hx)]
  exact go s.tasks
theorem State.weirKept_accept {s : State} {u : Task} (hu : s.taskOf u.tid = some u) : s.WeirKept (s.accept u) := by
  unfold State.accept
  split
  · exact (State.WeirKept.mk rfl rfl rfl (fun _ _ h _ => h) fun _ h => h)
  · next off =>
    refine ⟨rfl, rfl, rfl, fun tid q hq ho => ?_, fun _ h => h⟩
    have other : tid ≠ u.tid := by
      rintro rfl
      rw [hu] at hq
      cases hq
      exact off ho
    exact (State.taskOf_onTask_of_ne (f := fun t => { t with sent := none }) (fun _ => rfl) other).trans hq
theorem State.weirKept_complete {s : State} {u : Task} (hu : s.taskOf u.tid = some u) (tag : TagId) (addr : Nat) (word : Option Word)
    (st : Word) : s.WeirKept (s.complete u tag addr word st .none) := by
  have written := s.weirSame_resultWord u addr word
  have told : s.WeirSame (if u.stand = .onCore then (s.resultWord u addr word).onCore u.core (·.acquired tag)
      else s.resultWord u addr word) := by
    split
    · exact written.trans (State.weirSame_onCore ..)
    · exact written
  have tagged := (told.trans (State.checks_checkTags _ u).weirSame).trans (State.weirSame_taskTag _ u tag st)
  rw [State.complete_eq]
  refine tagged.kept.trans (State.weirKept_accept ?_)
  rw [State.taskOf, tagged.tasks]
  exact hu

/-- The answer of a Weir to a task on its core crosses to it. -/
theorem State.answer_onCore {u : Task} (h : u.stand = .onCore) (s : State) (tag : TagId) (addr : Nat) (w : Option Word) (st : Word) :
    s.answer u tag addr w st = s.cross u.core 6 (.dev .weirOperation (.reply u.tid u.born tag addr w st .none)) := if_pos h
theorem State.weirKept_cross (s : State) (k : CoreId) (j : Fin 10) (d : Due) : s.WeirKept (s.cross k j d) :=
  ⟨rfl, rfl, rfl, fun _ _ h _ => h, fun _ h => List.mem_append_left _ h⟩
theorem State.weirKept_answer {s : State} {u : Task} (hu : s.taskOf u.tid = some u) (tag : TagId) (addr : Nat) (w : Option Word) (st : Word) :
    s.WeirKept (s.answer u tag addr w st) := by
  by_cases h : u.stand = .onCore
  · rw [State.answer_onCore h]
    exact s.weirKept_cross ..
  · rw [State.answer, State.answerBy, if_neg h]
    exact State.weirKept_complete hu ..
/-- A Weir's answer to a task on its core is on its way. -/
theorem State.mem_agenda_answer {u : Task} (h : u.stand = .onCore) (s : State) (tag : TagId) (addr : Nat) (w : Option Word) (st : Word) :
    ∃ y ∈ (s.answer u tag addr w st).agenda, y.2.bare = .dev .weirOperation (.reply u.tid u.born tag addr w st .none) := by
  rw [State.answer_onCore h]
  obtain ⟨t, p, ha, -⟩ := s.agenda_cross u.core 6 .weirOperation (.reply u.tid u.born tag addr w st .none)
  exact ⟨_, ha ▸ List.mem_append_right _ List.mem_cons_self, rfl⟩

/-- An answer to one who has waited, where the task has not retired. -/
def State.answerTo (s : State) (tid : Word) (tag : TagId) (addr : Nat) (w : Option Word) (st : Word) : State :=
  match s.taskOf tid with
  | some q => s.answer q tag addr w st
  | none => s
theorem State.answerTo_some {s : State} {tid : Word} {q : Task} (h : s.taskOf tid = some q) (tag : TagId) (addr : Nat) (w : Option Word)
    (st : Word) : s.answerTo tid tag addr w st = s.answer q tag addr w st := by
  unfold State.answerTo
  rw [h]
theorem State.mem_agenda_answerTo {s : State} {tid : Word} {q : Task} (h : s.taskOf tid = some q) (on : q.stand = .onCore) (tag : TagId)
    (addr : Nat) (w : Option Word) (st : Word) : ∃ y ∈ (s.answerTo tid tag addr w st).agenda,
      y.2.bare = .dev .weirOperation (.reply q.tid q.born tag addr w st .none) := by
  rw [State.answerTo_some h]
  exact State.mem_agenda_answer on ..
theorem State.weirKept_answerTo (s : State) (tid : Word) (tag : TagId) (addr : Nat) (w : Option Word) (st : Word) :
    s.WeirKept (s.answerTo tid tag addr w st) := by
  cases h : s.taskOf tid with
  | none =>
    unfold State.answerTo
    rw [h]
    exact .refl s
  | some q =>
    rw [State.answerTo_some h]
    exact State.weirKept_answer (State.tid_of_taskOf h ▸ h) ..
theorem State.weirKept_foldl {α : Type} {f : State → α → State} (hf : ∀ s x, State.WeirKept s (f s x)) (l : List α) (s : State) :
    s.WeirKept (l.foldl f s) := by
  induction l generalizing s with
  | nil => exact .refl s
  | cons x l ih => exact (hf s x).trans (ih _)

/-! ### The arrival of an answer (R347) -/

/-- A step that is no answer is a command's arrival. -/
theorem State.orReply_of_ne {s : State} (h : ∀ a b c d e f g, s.arg ≠ .reply a b c d e f g) (o : Out) : s.orReply o = o := by
  unfold State.orReply
  split
  · next ha => exact absurd ha (h _ _ _ _ _ _ _)
  · rfl
theorem State.orReply_of_sender {s : State} {x : Task × EffCmd} (h : s.sender s.arg = some x) (o : Out) : s.orReply o = o := by
  refine State.orReply_of_ne (fun _ _ _ _ _ _ _ ha => ?_) o
  rw [ha] at h
  cases h
/-- An answer is for the task that still holds its TID, and for no later one. -/
theorem State.orReply_reply {s : State} {tid : Word} {born : Nat} {tag : TagId} {addr : Nat} {word : Option Word} {st : Word} {up : Raise}
    (harg : s.arg = .reply tid born tag addr word st up) {u : Task} (hu : s.taskOf tid = some u) (hb : u.born = born) (o : Out) :
    s.orReply o = .next (s.complete u tag addr word st up) := by
  unfold State.orReply
  rw [harg]
  dsimp only
  rw [hu, Option.filter_some, if_pos (beq_iff_eq.mpr hb)]
theorem State.orReply_late {s : State} {tid : Word} {born : Nat} {tag : TagId} {addr : Nat} {word : Option Word} {st : Word} {up : Raise}
    (harg : s.arg = .reply tid born tag addr word st up) (h : ∀ u, s.taskOf tid = some u → u.born ≠ born) (o : Out) :
    s.orReply o = .next s := by
  have none : (s.taskOf tid).filter (·.born == born) = none := by
    cases hu : s.taskOf tid with
    | none => rfl
    | some u => rw [Option.filter_some, if_neg (mt beq_iff_eq.mp (h u hu))]
  unfold State.orReply
  rw [harg]
  dsimp only
  rw [none]

/-- HBM and every core but one are the same. -/
structure State.OneCore (k : CoreId) (s t : State) : Prop where
  hbm : t.hbm = s.hbm
  cores : ∀ i : CoreId, i ≠ k → t.cores[i] = s.cores[i]

theorem State.OneCore.refl {k : CoreId} (s : State) : State.OneCore k s s := ⟨rfl, fun _ _ => rfl⟩
theorem State.OneCore.trans {k : CoreId} {s t u : State} (h : State.OneCore k s t) (g : State.OneCore k t u) : State.OneCore k s u :=
  ⟨g.hbm.trans h.hbm, fun i hi => (g.cores i hi).trans (h.cores i hi)⟩
theorem State.oneCore_onCore (s : State) (k : CoreId) (f : Core → Core) : State.OneCore k s (s.onCore k f) :=
  ⟨rfl, fun i hi => s.cores_onCore k i f hi⟩
theorem State.Checks.oneCore {s t : State} (h : s.Checks t) (k : CoreId) : State.OneCore k s t := ⟨h.hbm, fun i _ => by rw [h.cores]⟩
/-- A task on its core holds its bytes there. -/
theorem State.whereIs_onCore {u : Task} (h : u.stand = .onCore) (s : State) (a : Nat) :
    (∃ p, s.whereIs u a = .sram u.core p) ∨ s.whereIs u a = .nowhere := by
  rw [State.whereIs, if_pos h]
  dsimp only
  split
  · exact .inl ⟨_, rfl⟩
  · exact .inr rfl
theorem State.oneCore_taskPut {u : Task} (h : u.stand = .onCore) (n : Nat) (s : State) (a v : Nat) :
    State.OneCore u.core s (s.taskPut u a v n) := by
  induction n generalizing s a v with
  | zero => exact .refl s
  | succ n ih =>
    have poke : State.OneCore u.core s (s.taskPoke u a (BitVec.ofNat 8 v)) := by
      obtain ⟨p, hp⟩ | hp := s.whereIs_onCore h a <;> rw [State.taskPoke, hp]
      · exact s.oneCore_onCore _ _
      · exact .refl s
    exact poke.trans (ih _ _ _)
theorem State.oneCore_resultWord {u : Task} (h : u.stand = .onCore) (s : State) (addr : Nat) (word : Option Word) :
    State.OneCore u.core s (s.resultWord u addr word) := by
  cases word with
  | none => exact .refl s
  | some w => exact ((State.checks_checkTask s u addr 8).oneCore _).trans (State.oneCore_taskPut h 8 _ addr w.toNat)
theorem State.oneCore_raise (s : State) (u : Task) (up : Raise) (k : CoreId) : State.OneCore k s (s.raise u up) := by
  unfold State.raise
  split
  · exact .refl s
  · exact ⟨rfl, fun _ _ => rfl⟩
theorem State.oneCore_accept {u : Task} (h : u.stand = .onCore) (s : State) : State.OneCore u.core s (s.accept u) := by
  rw [State.accept, if_pos h]
  exact ⟨rfl, fun i hi => by rw [State.cores_wake, s.cores_onCore u.core i _ hi]⟩
/-- A command of a task on its core completes there: its tag, and the next command may be sent; nothing elsewhere changes (R215, R223). -/
theorem State.complete_onCore {u : Task} (h : u.stand = .onCore) (s : State) (tag : TagId) (addr : Nat) (word : Option Word) (st : Word)
    (up : Raise) : let t := s.complete u tag addr word st up
    t.cores[u.core].ctx.tags[tag] = ⟨.complete, st⟩ ∧ t.cores[u.core].run.sent = none ∧ State.OneCore u.core s t := by
  intro t
  have eq : t = (((((s.raise u up).resultWord u addr word).onCore u.core (·.acquired tag)).onCore u.core (·.completeTag tag st)).accept u) := by
    rw [show t = _ from s.complete_eq u tag addr word st up]
    dsimp only
    rw [if_pos h, State.checkTags, if_pos h, State.taskTag, if_pos h]
  refine ⟨?done, ?sent, ?frame⟩
  case done =>
    rw [eq, State.accept, if_pos h, State.cores_wake, State.cores_onCore_self, State.cores_onCore_self]
    simp [Core.completeTag, Core.onCtx, Core.onRun, Ctx.setTag]
  case sent =>
    rw [eq]
    exact (State.accept_taken _ u).1 h
  case frame =>
    rw [eq]
    have written := (s.oneCore_raise u up u.core).trans (State.oneCore_resultWord h _ addr word)
    have marked := (written.trans (State.oneCore_onCore _ u.core (·.acquired tag))).trans (State.oneCore_onCore _ u.core (·.completeTag tag st))
    exact marked.trans (State.oneCore_accept h _)

end Sys2Proof.Machine
end

section
/-! SUPPORT. The variables of a Weir's own memory: grants in their order, and the commands (R199, R245 to R247). -/

namespace Sys2Proof.Machine

/-! ### A variable of the Weir's own memory (R173, R199) -/

/-- The variables of the Weirs' memory replaced, those who wait on semaphores, and those who wait at barriers. -/
def State.withSync (s : State) (l : List (Nat × Word)) : State := { s with sync := l }
def State.withSems (s : State) (l : List Waiter) : State := { s with sems := l }
def State.withBars (s : State) (l : List Waiter) : State := { s with bars := l }
@[simp] theorem State.sems_withSync (s : State) (l : List (Nat × Word)) : (s.withSync l).sems = s.sems := rfl
@[simp] theorem State.taskOf_withSync (s : State) (l : List (Nat × Word)) (tid : Word) : (s.withSync l).taskOf tid = s.taskOf tid := rfl
@[simp] theorem State.sems_withSems (s : State) (l : List Waiter) : (s.withSems l).sems = l := rfl
@[simp] theorem State.taskOf_withSems (s : State) (l : List Waiter) (tid : Word) : (s.withSems l).taskOf tid = s.taskOf tid := rfl
/-- The queues put back as they were: nobody has joined, and only the variables differ. -/
theorem State.withSems_back (s : State) (l : List Waiter) (m : List (Nat × Word)) :
    ((s.withSems l).withSync m).withSems s.sems = s.withSync m := rfl

/-- The variable is one of the Weir's own memory. -/
def LocalVar (var : Nat) : Prop := var % 2 ^ 30 < 0x80000

theorem State.syncAt_eq_local {s : State} {var : Nat} : s.syncAt var = some none ↔ LocalVar var := by
  unfold State.syncAt LocalVar
  by_cases h : var % 2 ^ 30 < 0x80000
  · exact ⟨fun _ => h, fun _ => if_pos h⟩
  · refine ⟨fun hn => ?_, fun hl => absurd hl h⟩
    dsimp only at hn
    rw [if_neg h] at hn
    split at hn <;> cases hn
theorem State.checkSync_local {var : Nat} (h : LocalVar var) (s : State) : s.checkSync var = s := by
  rw [State.checkSync, State.syncAt_eq_local.mpr h]
theorem State.syncLost_local {var : Nat} (h : LocalVar var) (s : State) : s.syncLost var = false := by
  rw [State.syncLost, State.syncAt_eq_local.mpr h]
theorem State.syncGet_local {var : Nat} (h : LocalVar var) (s : State) : s.syncGet var = wayGet s.sync var := by
  rw [State.syncGet, State.syncAt_eq_local.mpr h]
theorem State.syncPut_local {var : Nat} (h : LocalVar var) (s : State) (v : Word) :
    s.syncPut var v = s.withSync (waySet s.sync var v) := by
  rw [State.syncPut, State.syncAt_eq_local.mpr h]
  rfl
theorem State.grants_local {var : Nat} (h : LocalVar var) (s : State) : s.grants var = s.grant var s.sems.length := by
  rw [State.grants, State.checkSync_local h, State.syncLost_local h, if_neg Bool.false_ne_true]

/-! ### One grant (R246) -/

/-- Those who wait on a variable, in their order. -/
def State.queueOf (s : State) (var : Nat) : List Waiter := s.sems.filter (·.var == var)
/-- The variables once a waiter has taken its k. -/
def takeWait (var : Nat) (l : List (Nat × Word)) (x : Waiter) : List (Nat × Word) := waySet l var (wayGet l var - BitVec.ofNat 64 x.n)
/-- The first of a queue granted: it takes its k, leaves the queue and has its answer. -/
def State.grantTo (s : State) (w : Waiter) : State :=
  ((s.withSync (takeWait w.var s.sync w)).withSems (s.sems.erase w)).answerTo w.tid w.tag w.addr
    (some (wayGet s.sync w.var - BitVec.ofNat 64 w.n)) stOk

theorem State.grantTo_some {s : State} {w : Waiter} {q : Task} (h : s.taskOf w.tid = some q) :
    s.grantTo w = ((s.withSync (takeWait w.var s.sync w)).withSems (s.sems.erase w)).answer q w.tag w.addr
      (some (wayGet s.sync w.var - BitVec.ofNat 64 w.n)) stOk := by
  rw [State.grantTo]
  refine State.answerTo_some ?_ ..
  rw [State.taskOf_withSems, State.taskOf_withSync, h]
theorem State.grant_of_empty {s : State} {var : Nat} (h : s.queueOf var = []) (m : Nat) : s.grant var m = s := by
  have none : s.sems.find? (·.var == var) = none := by
    rw [← List.head?_filter]
    exact congrArg List.head? h
  cases m with
  | zero => rfl
  | succ m => rw [State.grant, none]
theorem State.grant_of_short {s : State} {w : Waiter} (hv : LocalVar w.var) (hw : s.sems.find? (·.var == w.var) = some w)
    (h : (wayGet s.sync w.var).toInt < w.n) (m : Nat) : s.grant w.var m = s := by
  cases m with
  | zero => rfl
  | succ m =>
    rw [State.grant, hw]
    dsimp only
    rw [State.syncGet_local hv, if_pos h]
theorem State.grant_of_covered {s : State} {w : Waiter} (hv : LocalVar w.var) (hw : s.sems.find? (·.var == w.var) = some w)
    (h : (w.n : Int) ≤ (wayGet s.sync w.var).toInt) (m : Nat) : s.grant w.var (m + 1) = (s.grantTo w).grant w.var m := by
  rw [State.grant, hw]
  dsimp only
  rw [State.syncGet_local hv, if_neg (not_lt.mpr h), State.syncPut_local hv]
  rfl
/-- Nothing is due on a variable that nobody waits on. -/
theorem State.grants_of_empty {s : State} {var : Nat} (hv : LocalVar var) (h : s.queueOf var = []) : s.grants var = s := by
  rw [State.grants_local hv, State.grant_of_empty h]
theorem State.queueOf_eq_nil {s : State} {var : Nat} (h : ∀ x ∈ s.sems, x.var ≠ var) : s.queueOf var = [] := by
  simpa [State.queueOf] using h

/-! ### The grants of a queue, in its order (R246) -/

/-- One who joins behind those who do not meet a test is the first that meets it, and leaves them as they were. -/
theorem find_append_singleton {α : Type} {p : α → Bool} {l : List α} {w : α} (hl : ∀ x ∈ l, p x = false) (hw : p w = true) :
    (l ++ [w]).find? p = some w := by
  have none : l.find? p = none := List.find?_eq_none.mpr fun x hx => by simp [hl x hx]
  rw [List.find?_append, none, List.find?_singleton, if_pos hw]
  rfl

/-- The first that meets a test leaves a list: those who meet it lose their first, the others nobody. -/
theorem filter_erase_find {α : Type} [BEq α] [LawfulBEq α] {p : α → Bool} {l : List α} {w : α} (h : l.find? p = some w) :
    l.filter p = w :: (l.erase w).filter p ∧ (l.erase w).filter (!p ·) = l.filter (!p ·) := by
  induction l with
  | nil => cases h
  | cons x l ih =>
    by_cases hx : p x = true
    · rw [List.find?_cons_of_pos hx] at h
      cases h
      simp [hx]
    · rw [List.find?_cons_of_neg hx] at h
      have ne : (x == w) = false := beq_eq_false_iff_ne.mpr fun e => hx (e ▸ List.find?_some h)
      have hx' : p x = false := by simpa using hx
      simpa [List.erase_cons, ne, hx'] using ih h

/-- The state t follows from s by n grants of those who wait on a variable, in their order, and the next would not be granted. -/
structure State.Grants (var : Nat) (s t : State) (n : Nat) : Prop where
  sync : t.sync = ((s.queueOf var).take n).foldl (takeWait var) s.sync
  queue : t.queueOf var = (s.queueOf var).drop n
  others : t.sems.filter (·.var != var) = s.sems.filter (·.var != var)
  short : ∀ x, ((s.queueOf var).drop n).head? = some x → (wayGet t.sync var).toInt < x.n
  granted : ∀ i x, i < n → (s.queueOf var)[i]? = some x →
    let v := wayGet (((s.queueOf var).take i).foldl (takeWait var) s.sync) var
    (x.n : Int) ≤ v.toInt ∧ ∀ q, s.taskOf x.tid = some q → q.stand = .onCore → ∃ y ∈ t.agenda,
      y.2.bare = .dev .weirOperation (.reply q.tid q.born x.tag x.addr (some (v - BitVec.ofNat 64 x.n)) 0 .none)
  agenda : s.agenda ⊆ t.agenda

theorem State.Grants.none {var : Nat} {s : State} (h : ∀ x, (s.queueOf var).head? = some x → (wayGet s.sync var).toInt < x.n) :
    State.Grants var s s 0 :=
  ⟨rfl, rfl, rfl, h, fun _ _ hi => absurd hi (Nat.not_lt_zero _), fun _ hy => hy⟩
/-- A grant in front of others. -/
theorem State.Grants.cons {s t : State} {w : Waiter} {n : Nat} (hw : s.sems.find? (·.var == w.var) = some w)
    (hk : (w.n : Int) ≤ (wayGet s.sync w.var).toInt) (h : State.Grants w.var (s.grantTo w) t n) : State.Grants w.var s t (n + 1) := by
  have kept := State.weirKept_answerTo ((s.withSync (takeWait w.var s.sync w)).withSems (s.sems.erase w)) w.tid w.tag w.addr
    (some (wayGet s.sync w.var - BitVec.ofNat 64 w.n)) stOk
  have sync : (s.grantTo w).sync = takeWait w.var s.sync w := kept.sync
  have sems : (s.grantTo w).sems = s.sems.erase w := kept.sems
  obtain ⟨first, rest⟩ := filter_erase_find hw
  have queue : s.queueOf w.var = w :: (s.grantTo w).queueOf w.var := by
    rw [State.queueOf, State.queueOf, sems]
    exact first
  refine ⟨?sync, ?queue, ?others, ?short, fun i x hi hx => ?granted, fun _ hy => h.agenda (kept.agenda hy)⟩
  case sync => rw [h.sync, queue, List.take_succ_cons, List.foldl_cons, sync]
  case queue => rw [h.queue, queue, List.drop_succ_cons]
  case others =>
    rw [h.others, sems]
    exact rest
  case short =>
    rw [queue, List.drop_succ_cons]
    exact h.short
  case granted =>
    rw [queue] at hx ⊢
    cases i with
    | zero =>
      cases hx
      refine ⟨hk, fun q hq on => ?_⟩
      obtain ⟨y, hy, hb⟩ := State.mem_agenda_answerTo
        (s := (s.withSync (takeWait w.var s.sync w)).withSems (s.sems.erase w)) (tid := w.tid) hq on w.tag w.addr
        (some (wayGet s.sync w.var - BitVec.ofNat 64 w.n)) stOk
      exact ⟨y, h.agenda hy, hb⟩
    | succ i =>
      rw [List.take_succ_cons, List.foldl_cons, ← sync]
      obtain ⟨covered, answered⟩ := h.granted i x (Nat.lt_of_succ_lt_succ hi) hx
      exact ⟨covered, fun q hq on => answered q (kept.tasks x.tid q hq on) on⟩
/-- Given as many turns as there are waiters, every grant that is due is given. -/
theorem State.grants_grant {var : Nat} (hv : LocalVar var) (m : Nat) (s : State) (hm : (s.queueOf var).length ≤ m) :
    ∃ n, State.Grants var s (s.grant var m) n := by
  induction m generalizing s with
  | zero =>
    have empty : s.queueOf var = [] := List.eq_nil_of_length_eq_zero (Nat.le_zero.mp hm)
    exact ⟨0, .none fun x hx => by rw [empty] at hx; cases hx⟩
  | succ m ih =>
    cases hw : s.sems.find? (·.var == var) with
    | none =>
      have empty : (s.queueOf var).head? = none := by rw [State.queueOf, List.head?_filter, hw]
      rw [State.grant_of_empty (List.head?_eq_none_iff.mp empty)]
      exact ⟨0, .none fun x hx => by rw [empty] at hx; cases hx⟩
    | some w =>
      obtain rfl : w.var = var := by simpa using List.find?_some hw
      by_cases hk : (w.n : Int) ≤ (wayGet s.sync w.var).toInt
      · rw [State.grant_of_covered hv hw hk]
        have sems : (s.grantTo w).sems = s.sems.erase w := (State.weirKept_answerTo ..).sems
        have shorter : ((s.grantTo w).queueOf w.var).length ≤ m := by
          rw [State.queueOf, (filter_erase_find hw).1, ← sems] at hm
          exact Nat.le_of_succ_le_succ hm
        obtain ⟨n, hn⟩ := ih _ shorter
        exact ⟨n + 1, hn.cons hw hk⟩
      · rw [State.grant_of_short hv hw (not_le.mp hk)]
        refine ⟨0, .none fun x hx => ?_⟩
        rw [State.queueOf, List.head?_filter, hw] at hx
        cases hx
        exact not_le.mp hk
theorem State.grants_grants {var : Nat} (hv : LocalVar var) (s : State) : ∃ n, State.Grants var s (s.grants var) n := by
  rw [State.grants_local hv]
  exact s.grants_grant hv _ (List.length_filter_le ..)

/-! ### The commands (R245 to R247) -/

/-- The variable of a command, and one that waits. -/
def EffCmd.var (e : EffCmd) : Nat := (e.a.extractLsb' 0 32).toNat
def EffCmd.waiter (e : EffCmd) (u : Task) (tag : TagId) : Waiter := ⟨e.var, u.tid, tag, e.b.toNat, e.c.toNat⟩
/-- The value a command that does not wait leaves. -/
def weirLeft (e : EffCmd) (v : Word) : Word := if e.kind = .synPost then v + e.c else atomicValue e.kind v e.c (e.image.extractLsb' 0 64)
/-- The value it answers: SYN.POST the new one, an atomic the old one. -/
def weirAnswer (e : EffCmd) (v : Word) : Word := if e.kind = .synPost then weirLeft e v else v

section
variable {e : EffCmd} (v : Word)
theorem weirLeft_post (h : e.kind = .synPost) : weirLeft e v = v + e.c := if_pos h
theorem weirLeft_add (h : e.kind = .synAdd) : weirLeft e v = v + e.c := by simp [weirLeft, atomicValue, h]
theorem weirLeft_cas (h : e.kind = .synCas) : weirLeft e v = if v = e.image.extractLsb' 0 64 then e.c else v := by
  simp only [weirLeft, atomicValue, h, reduceCtorEq, if_false]
theorem weirLeft_min (h : e.kind = .synMin) : weirLeft e v = if e.c.toInt < v.toInt then e.c else v := by simp [weirLeft, atomicValue, h]
theorem weirLeft_max (h : e.kind = .synMax) : weirLeft e v = if v.toInt < e.c.toInt then e.c else v := by simp [weirLeft, atomicValue, h]
theorem weirLeft_xch (h : e.kind = .synXch) : weirLeft e v = e.c := by simp [weirLeft, atomicValue, h]
theorem weirLeft_ld (h : e.kind = .synLd) : weirLeft e v = v := by simp [weirLeft, atomicValue, h]
end
/-- What is left, command by command; any other leaves the value (R245). -/
theorem weirLeft_eq (e : EffCmd) (v : Word) : weirLeft e v = if e.kind = .synAdd ∨ e.kind = .synPost then v + e.c
    else if e.kind = .synCas then (if v = e.image.extractLsb' 0 64 then e.c else v)
    else if e.kind = .synMin then (if e.c.toInt < v.toInt then e.c else v)
    else if e.kind = .synMax then (if v.toInt < e.c.toInt then e.c else v)
    else if e.kind = .synXch then e.c else v := by
  rw [weirLeft]
  cases e.kind <;> rfl
theorem weirAnswer_post {e : EffCmd} (h : e.kind = .synPost) (v : Word) : weirAnswer e v = weirLeft e v := if_pos h
theorem weirAnswer_atomic {e : EffCmd} {k : EffKind} (h : e.kind = k) (hk : k ≠ .synPost) (v : Word) : weirAnswer e v = v :=
  if_neg (h ▸ hk)

section
variable {s : State} {u : Task} {e : EffCmd} {tag : TagId} (hs : s.sender s.arg = some (u, e)) (ht : e.tag = some tag)
include hs ht

theorem exec_weirOperation_missing (h : s.syncAt e.var = none) :
    exec .weirOperation s = .next (s.answer u tag e.b.toNat none stTranslation) := by
  rw [show exec .weirOperation s = execWeirOperation s from rfl, execWeirOperation, State.orReply_of_sender hs, hs]
  dsimp only
  rw [← EffCmd.var, h, ht]
  rfl
theorem exec_weirOperation_poisoned (h : s.syncAt e.var ≠ none)
    (hp : (s.checkSync e.var).syncLost e.var = true) :
    exec .weirOperation s = .next (((s.checkSync e.var).answer u tag e.b.toNat none stPoison).grants
      e.var) := by
  rw [show exec .weirOperation s = execWeirOperation s from rfl, execWeirOperation, State.orReply_of_sender hs, hs]
  dsimp only
  rw [← EffCmd.var, if_neg (by simpa using h), if_pos hp, ht]
  rfl
theorem exec_weirOperation_local (hv : LocalVar e.var) (hk : e.kind ≠ .synWait) (hb : e.kind ≠ .synBar) :
    let v := s.syncGet e.var
    exec .weirOperation s = .next (((s.withSync (waySet s.sync e.var (weirLeft e v))).answer u tag e.b.toNat
      (some (weirAnswer e v)) stOk).grants e.var) := by
  intro v
  rw [show exec .weirOperation s = execWeirOperation s from rfl, execWeirOperation, State.orReply_of_sender hs, hs]
  dsimp only
  rw [← EffCmd.var, State.syncAt_eq_local.mpr hv, State.checkSync_local hv, State.syncLost_local hv, ht]
  rw [if_neg (by simp), if_neg Bool.false_ne_true]
  split
  · next hp =>
    rw [weirAnswer, weirLeft, if_pos hp, if_pos hp, ← State.syncPut_local hv]
    rfl
  · next hw => exact absurd hw hk
  · next hw => exact absurd hw hb
  · next hp _ _ =>
    rw [weirAnswer, weirLeft, if_neg hp, if_neg hp, ← State.syncPut_local hv]
    rfl
/-- A wait joins the queue, and what is due is granted. -/
theorem exec_weirOperation_wait (hv : LocalVar e.var) (hk : e.kind = .synWait) (hu : u.stand = .onCore) :
    exec .weirOperation s = .next ((s.withSems (s.sems ++ [e.waiter u tag])).grants e.var) := by
  rw [show exec .weirOperation s = execWeirOperation s from rfl, execWeirOperation, State.orReply_of_sender hs, hs]
  dsimp only
  rw [← EffCmd.var, State.syncAt_eq_local.mpr hv, State.checkSync_local hv, State.syncLost_local hv, ht, hk]
  dsimp only
  rw [if_neg (by simp), if_neg Bool.false_ne_true, if_pos hu]
  rfl
theorem exec_weirOperation_barrier (hv : LocalVar e.var) (hk : e.kind = .synBar) (hu : u.stand = .onCore) :
    exec .weirOperation s = .next ((s.arrive ⟨e.var, u.tid, tag, e.b.toNat, 0⟩ e.c.toNat).grants e.var) := by
  rw [show exec .weirOperation s = execWeirOperation s from rfl, execWeirOperation, State.orReply_of_sender hs, hs]
  dsimp only
  rw [← EffCmd.var, State.syncAt_eq_local.mpr hv, State.checkSync_local hv, State.syncLost_local hv, ht, hk]
  dsimp only
  rw [if_neg (by simp), if_neg Bool.false_ne_true, if_pos hu]
  rfl
omit ht in
/-- The wait of a task cancelled off its core is withdrawn at once (log 87). -/
theorem exec_weirOperation_withdrawn (h : s.syncAt e.var ≠ none)
    (hp : (s.checkSync e.var).syncLost e.var = false)
    (hk : e.kind = .synWait ∨ e.kind = .synBar) (hu : u.stand ≠ .onCore) :
    ∃ t : State, exec .weirOperation s = .next (t.withdraw u.tid stCancelled) := by
  rw [show exec .weirOperation s = execWeirOperation s from rfl, execWeirOperation, State.orReply_of_sender hs, hs]
  dsimp only
  rw [← EffCmd.var, if_neg (by simpa using h), if_neg (by rw [hp]; exact Bool.false_ne_true)]
  obtain hk | hk := hk <;> rw [hk]
  · exact ⟨_, congrArg Host.Outcome.next (if_neg hu)⟩
  · exact ⟨_, congrArg Host.Outcome.next (if_neg hu)⟩
end

/-! ### Barriers (R247) -/

section
variable {s : State} {w : Waiter} {n : Nat} (hv : LocalVar w.var)
include hv

theorem State.arrive_stays (h : (((s.syncGet w.var).extractLsb' 0 32).toNat + 1) % 2 ^ 32 < n) :
    let v := s.syncGet w.var
    s.arrive w n = (s.withSync (waySet s.sync w.var
      (BitVec.ofNat 64 ((v.extractLsb' 32 32).toNat * 2 ^ 32 + ((v.extractLsb' 0 32).toNat + 1) % 2 ^ 32)))).withBars
      (s.bars ++ [{ w with n := (v.extractLsb' 0 32).toNat }]) := by
  intro v
  rw [State.arrive]
  dsimp only
  rw [if_pos h, State.syncPut_local hv]
  rfl
/-- The arrival that fills a barrier empties it, under the next generation. -/
theorem State.arrive_fills (h : n ≤ (((s.syncGet w.var).extractLsb' 0 32).toNat + 1) % 2 ^ 32) :
    (s.arrive w n).sync = waySet s.sync w.var
      (BitVec.ofNat 64 ((((s.syncGet w.var).extractLsb' 32 32).toNat + 1) % 2 ^ 32 * 2 ^ 32)) ∧
    (s.arrive w n).bars = s.bars.filter (·.var != w.var) ∧ (s.arrive w n).sems = s.sems := by
  have gone (x : Waiter) (hx : x.var = w.var) : (s.bars ++ [x]).filter (·.var != w.var) = s.bars.filter (·.var != w.var) := by
    simp [hx]
  have answered : State.WeirKept ((s.withSync (waySet s.sync w.var
      (BitVec.ofNat 64 ((((s.syncGet w.var).extractLsb' 32 32).toNat + 1) % 2 ^ 32 * 2 ^ 32)))).withBars
      (s.bars.filter (·.var != w.var))) (s.arrive w n) := by
    rw [State.arrive]
    dsimp only
    rw [if_neg (not_lt.mpr h), State.syncPut_local hv, gone]
    · exact State.weirKept_foldl (fun t (x : Waiter) => t.weirKept_answerTo x.tid x.tag x.addr _ stOk) _ _
    · rfl
  exact ⟨answered.sync, answered.bars, answered.sems⟩
end

/-! ### Waits withdrawn (R246, R247, R261) -/

/-- Nobody has begun to wait. -/
structure State.WaitsShrink (s t : State) : Prop where
  sems : t.sems ⊆ s.sems
  bars : t.bars ⊆ s.bars

theorem State.WaitsShrink.refl (s : State) : s.WaitsShrink s := ⟨fun _ h => h, fun _ h => h⟩
theorem State.WaitsShrink.trans {s t u : State} (h : s.WaitsShrink t) (g : t.WaitsShrink u) : s.WaitsShrink u :=
  ⟨fun _ hx => h.sems (g.sems hx), fun _ hx => h.bars (g.bars hx)⟩
theorem State.WeirKept.shrink {s t : State} (h : s.WeirKept t) : s.WaitsShrink t := ⟨fun _ hx => h.sems ▸ hx, fun _ hx => h.bars ▸ hx⟩
theorem State.waitsShrink_foldl {α : Type} {f : State → α → State} (hf : ∀ s x, State.WaitsShrink s (f s x)) (l : List α) (s : State) :
    s.WaitsShrink (l.foldl f s) := by
  induction l generalizing s with
  | nil => exact .refl s
  | cons x l ih => exact (hf s x).trans (ih _)
theorem State.waitsShrink_syncPut (s : State) (var : Nat) (v : Word) : s.WaitsShrink (s.syncPut var v) := by
  unfold State.syncPut
  split <;> exact ⟨fun _ h => h, fun _ h => h⟩
theorem State.waitsShrink_grant (var : Nat) (m : Nat) (s : State) : s.WaitsShrink (s.grant var m) := by
  induction m generalizing s with
  | zero => exact .refl s
  | succ m ih =>
    rw [State.grant]
    split
    · exact .refl s
    · next w _ =>
      dsimp only
      split
      · exact .refl s
      · have taken := s.waitsShrink_syncPut var (s.syncGet var - BitVec.ofNat 64 w.n)
        have left : s.WaitsShrink { s.syncPut var (s.syncGet var - BitVec.ofNat 64 w.n) with sems := s.sems.erase w } :=
          ⟨List.erase_subset, taken.bars⟩
        exact (left.trans (State.weirKept_answerTo _ w.tid w.tag w.addr _ stOk).shrink).trans (ih _)
theorem State.waitsShrink_failWaits (s : State) (var : Nat) (st : Word) : s.WaitsShrink (s.failWaits var st) := by
  have left : s.WaitsShrink { s with sems := s.sems.filter (·.var != var), bars := s.bars.filter (·.var != var) } :=
    ⟨List.filter_subset_self _, List.filter_subset_self _⟩
  exact left.trans (State.weirKept_foldl (fun t (w : Waiter) => t.weirKept_answerTo w.tid w.tag w.addr none st) _ _).shrink
theorem State.waitsShrink_grants (s : State) (var : Nat) : s.WaitsShrink (s.grants var) := by
  have checked := (State.checks_checkSync s var).weirSame.kept.shrink
  unfold State.grants
  dsimp only
  split
  · exact checked.trans (State.waitsShrink_failWaits ..)
  · exact checked.trans (State.waitsShrink_grant ..)
/-- A task withdrawn waits on nothing. -/
theorem State.withdraw_waits (s : State) (tid : Word) (st : Word) :
    ∀ x ∈ (s.withdraw tid st).sems ++ (s.withdraw tid st).bars, x.tid ≠ tid := by
  have shrink : State.WaitsShrink { s with sems := s.sems.filter (·.tid != tid), bars := s.bars.filter (·.tid != tid) }
      (s.withdraw tid st) :=
    (State.weirKept_foldl (fun t (w : Waiter) => t.weirKept_answerTo tid w.tag 0 none st) _ _).shrink.trans
      (State.waitsShrink_foldl State.waitsShrink_grants _ _)
  have gone {l : List Waiter} {x : Waiter} (hx : x ∈ l.filter (·.tid != tid)) : x.tid ≠ tid := by simpa using (List.mem_filter.mp hx).2
  intro x hx
  obtain hx | hx := List.mem_append.mp hx
  · exact gone (shrink.sems hx)
  · exact gone (shrink.bars hx)

end Sys2Proof.Machine
end

section
/-! PROOFS. Ring commands and the tag table (R176 to R180, R237 to R239). -/

namespace Sys2Proof.Machine

/-- Settles O32: every ring command is one or two checks of the ring that its number reads. -/
theorem ringForms : Obligations.RingForms := by
  unfold Obligations.RingForms
  intro s g h z n a hg c raises becomes k
  refine ⟨fun e => ?_, fun r e => ?_, ?_⟩
  · have gone : c.ctx.h[h].isNone = true := Option.isNone_iff_eq_none.2 e
    have free : (c.ring h).reserved = 0 := by rw [Core.ring, e]; rfl
    refine ⟨State.syl_eq hg (Core.ringWait_none e ..), State.syl_eq hg (Core.ringWait_none e ..),
      State.syl_eq hg (Core.checked_head (by rw [gone, Bool.true_or])), State.syl_eq hg (Core.checked_head gone),
      State.syl_eq hg ((Core.checked_tail (bne_eq_false_iff_eq.2 free)).trans ?_)⟩
    change (c.ringUndo (.set h c.ctx.h[h])).setRing h none = _
    rw [e]
    rfl
  · have held : c.ctx.h[h].isNone = false := by rw [e]; rfl
    have ring : c.ring h = r := Core.ring_of_some e
    have few {x : Nat} (hc : (c.ring h).count < k ∨ x < k) : (decide (k > (c.ring h).count) || decide (x < k)) = true := by
      simpa using hc
    have enough {x : Nat} (hc : k ≤ (c.ring h).count) (hx : k ≤ x) : (decide (k > (c.ring h).count) || decide (x < k)) = false := by
      simpa using And.intro hc hx
    have wait (x : Nat) : c.ringWait h k x = if r.count < k then c.raise 3 .bounds else if k ≤ x then c else c.freeze 1 :=
      Core.ringWait_some e k x
    have refuses {x : Nat} (hc : r.count < k) : c.ringWait h k x = c.raise 3 .bounds := by rw [wait, if_pos hc]
    have stays {x : Nat} (hc : k ≤ r.count) (hx : k ≤ x) : c.ringWait h k x = c := by
      rw [wait, if_neg (Nat.not_lt.2 hc), if_pos hx]
    have freezes {x : Nat} (hc : k ≤ r.count) (hx : x < k) : c.ringWait h k x = c.freeze 1 := by
      rw [wait, if_neg (Nat.not_lt.2 hc), if_neg (Nat.not_le.2 hx)]
    have taken (hr : r.reserved ≠ 0) : ((c.ring h).reserved != 0) = true := by rw [ring]; exact bne_iff_ne.2 hr
    have untaken (hr : r.reserved = 0) : ((c.ring h).reserved != 0) = false := by rw [ring, hr]; rfl
    have ready (hr : r.reserved = 0) : (c.ctx.h[h].isNone || (c.ring h).reserved != 0) = false := by rw [held, untaken hr]; rfl
    refine ⟨fun hc => ⟨State.syl_eq hg (refuses hc), State.syl_eq hg (refuses hc)⟩,
      fun hc hf => State.syl_id hg (stays hc (ring ▸ hf)), fun hc hf => State.syl_eq hg (freezes hc (ring ▸ hf)),
      fun hc hf => State.syl_id hg (stays hc (ring ▸ hf)), fun hc hf => State.syl_eq hg (freezes hc (ring ▸ hf)),
      fun hr => ⟨State.syl_eq hg (Core.checked_head (by rw [taken hr, Bool.or_true])), State.syl_eq hg (Core.checked_head (taken hr)),
        State.syl_eq hg (Core.checked_head ((Core.rsetBad_iff ..).2 ?reserved))⟩,
      fun hr => State.syl_eq hg ((Core.checked_tail (untaken hr)).trans ?unset),
      fun hr hc => State.syl_eq hg ((Core.checked_tail (ready hr)).trans (Core.checked_head (few (ring ▸ hc)))),
      fun hc => State.syl_eq hg ((Core.checked_tail held).trans (Core.checked_head (few (ring ▸ hc)))),
      fun hr hc hf => ⟨setStamps r.stamps r.count r.prod z k, length_setStamps .., fun i hi => getElem?_setStamps _ z k _ _ hi,
        State.syl_eq hg ((Core.checked_tail (ready hr)).trans ((Core.checked_tail (enough (ring ▸ hc) (ring ▸ hf))).trans ?advp))⟩,
      fun hc hf => State.syl_eq hg ((Core.checked_tail held).trans ((Core.checked_tail (enough (ring ▸ hc) (ring ▸ hf))).trans ?advc))⟩
    case reserved => exact .inr (.inr (.inr (.inr (.inr ⟨r, e, hr⟩))))
    case unset =>
      change (c.ringUndo (.set h c.ctx.h[h])).setRing h none = _
      rw [e]
      rfl
    case advp =>
      subst ring
      rfl
    case advc =>
      subst ring
      rfl
  · intro x base size count meets refused
    have bad : c.rsetBad h x = true ↔ refused := Core.rsetBad_iff c h x
    refine ⟨fun hr => State.syl_eq hg (Core.checked_head (bad.2 hr)), fun hr => State.syl_eq hg ((Core.checked_tail ?_).trans rfl)⟩
    exact Bool.eq_false_iff.2 (mt bad.1 hr)

/-- Settles O33: each form looks for the key's way in the table's view, and acts on what it finds. -/
theorem tagTableForms : Obligations.TagTableForms := by
  unfold Obligations.TagTableForms
  intro s g d a b hg c key y at_ e holds new changes
  have plain (h : y.extractLsb' 12 52 = 0) : (y.extractLsb' 12 52 != 0) = false := bne_eq_false_iff_eq.2 h
  have inserts {w : Nat} (h : y.extractLsb' 12 52 = 0) (hw : (wayOf c.tagView key).getD (y.extractLsb' 10 2).toNat = w) :
      exec (.tins g d a b) s = changes (e w) w new := by
    refine State.syl_eq hg ((Core.checked_tail (plain h)).trans ?_)
    subst hw
    rfl
  refine ⟨fun h => State.syl_eq hg (Core.checked_head (bne_iff_ne.2 h)), fun w hw h first => ?_, fun h => ?_⟩
  · have found : wayOf c.tagView key = some w := wayOf_eq_some hw h first
    have look {f : Nat → Core} {x : Core} : (match wayOf c.tagView key with | some w => f w | none => x) = f w := by rw [found]
    exact ⟨State.syl_eq hg look, State.syl_eq hg look, fun hy => inserts hy (by rw [found]; rfl)⟩
  · have missed : wayOf c.tagView key = none := wayOf_eq_none h
    have look {f : Nat → Core} {x : Core} : (match wayOf c.tagView key with | some w => f w | none => x) = x := by rw [missed]
    exact ⟨State.syl_eq hg look, State.syl_eq hg look, fun hy => inserts hy (by rw [missed]; rfl)⟩

end Sys2Proof.Machine
end

section
/-! PROOFS. Translation (R186, R187, R197, R296 to R301). -/

namespace Sys2Proof.Machine

/-- Settles O43: an entry is judged bit by bit, a walk level by level, and a command's walk by what its entry says. -/
theorem addressTranslation : Obligations.AddressTranslation := by
  unfold Obligations.AddressTranslation
  intro low span
  have bit (level : Nat) : levelBit level = low level := levelBit_eq level
  refine ⟨fun level e _ => ?entry, fun s sp va => ⟨State.walk_of_outside sp, fun h => if_pos h, fun table level rest _ => ?level,
    fun priv acc x h => ⟨State.resolve_of_error h priv acc, State.fetchFault_of_error h priv⟩, fun priv level e h => ?leaf⟩,
    fun t sp va => ⟨Site.walkOf_root, fun l e hl he h => Site.walkOf_below hl he h⟩,
    fun s k id i m a w harg hm ha hr hw => ?walk⟩
  case entry =>
    intro f
    have leaf := seenAt_eq_leaf_iff level e
    refine ⟨leaf.trans ?_, fun n => (seenAt_eq_table_iff level e n).trans ?_, fun h hpat va => ?_⟩
    · rw [leafBad_eq_false_iff, bit]
      rfl
    · rw [tableBad_eq_false_iff]
      rfl
    · obtain ⟨-, -, sound⟩ := leaf.1 h
      have place := (placeOf_leaf sound hpat va).1
      have chan := chan_placeOf_leaf sound hpat va
      rw [bit] at place chan
      exact ⟨place, rfl, rfl, chan⟩
  case level =>
    rw [← bit]
    exact ⟨State.walkFrom_poisoned, State.walkFrom_cons⟩
  case leaf =>
    refine ⟨fun he hp => ?_, fun hp => ?_⟩
    · subst hp
      exact ⟨State.resolve_of_priv h he, State.fetchFault_of_priv h he⟩
    · obtain ⟨hread, hwrite, happend, hfetch⟩ := State.resolve_of_leaf h hp
      exact ⟨hread, hwrite, happend, hfetch, State.fetchFault_of_leaf h hp⟩
  case walk =>
    intro e sp n
    have step : exec .readAtomWrite s = .next (s.walked k m a i) := exec_readAtomWrite_entry harg hm ha hr hw
    have number : m.id = id := Core.id_of_cmdOf hm
    have kept {u t : State} {m' : Cmd} := @State.EngineKeeps.command s u t k id m m' hm
    have others {x : Site} {j : Fin 48} (hj : j ≠ n) : (s.sites.set n x)[j] = s.sites[j] :=
      Vector.getElem_set_ne _ _ fun h => hj (Fin.ext h.symm)
    have own {x : Site} : (s.sites.set n x)[n] = x := Vector.getElem_set_self _
    by_cases hd : s.isDropped (k, m.id) = true
    · have out : s.walked k m a i = _ := State.walked_dropped hw hd
      obtain ⟨hcmd, hhbm, hcores⟩ := kept (u := s.setDropped (k, m.id) false) (m' := (m.entryRead i).walks _ _) rfl rfl rfl (.refl ..)
      have sound {p : Prop} (h : s.isDropped (k, m.id) = false) : p := absurd hd (by rw [h]; exact Bool.false_ne_true)
      exact ⟨_, _, step.trans (congrArg _ out), hcmd, hhbm, hcores, fun j hj => others hj,
        fun _ => ⟨(s.isDropped_setDropped ..).trans (if_pos rfl), rfl, (s.held_setDropped ..).1, _, rfl, rfl, rfl, rfl⟩, sound, sound⟩
    have dropped {p : Prop} (h : s.isDropped (k, m.id) = true) : p := absurd h hd
    rw [Bool.not_eq_true] at hd
    by_cases hb : a.bad = true
    · have out : s.walked k m a i = _ := State.walked_poisoned hw hd hb
      have sound {p : Prop} (h : a.bad = false) : p := absurd hb (by rw [h]; exact Bool.false_ne_true)
      by_cases hk : m.kind.moves = true
      · replace out := out.trans (if_pos hk)
        obtain ⟨hcmd, hhbm, hcores⟩ := kept (u := s) (m' := (m.entryRead i).lose _ _) rfl rfl rfl (.later ..)
        refine ⟨_, _, step.trans (congrArg _ out), hcmd, hhbm, hcores, fun _ _ => rfl, dropped,
          fun _ _ => ⟨fun h => absurd hk (by rw [h]; exact Bool.false_ne_true), fun _ => ⟨rfl, rfl, rfl, rfl, number ▸ rfl,
            fun j b b' hj hb hb' => Cmd.getElem?_lose ((List.getElem?_take_of_lt hj).trans hb) hb'⟩⟩, fun _ => sound⟩
      · replace out := out.trans (if_neg hk)
        obtain ⟨hcmd, hhbm, hcores⟩ := kept (u := s) (m' := (m.entryRead i).stop _) rfl rfl rfl (.halt ..)
        have held := s.sites_halt k (m.entryRead i) stPoison
        exact ⟨_, _, step.trans (congrArg _ out), hcmd, hhbm, hcores, fun j _ => congrArg (·[j]) held, dropped,
          fun _ _ => ⟨fun _ => ⟨rfl, rfl, held⟩, fun h => absurd h hk⟩, fun _ => sound⟩
    · have poisoned {p : Prop} (h : a.bad = true) : p := absurd h hb
      rw [Bool.not_eq_true] at hb
      cases hs : seenAt w.level e with
      | bad =>
        have out : s.walked k m a i = _ := State.walked_bad hw hd hb hs
        obtain ⟨hcmd, hhbm, hcores⟩ := kept (u := s) (m' := (m.entryRead i).stop _) rfl rfl rfl (.halt ..)
        have held := s.sites_halt k (m.entryRead i) stTranslation
        exact ⟨_, _, step.trans (congrArg _ out), hcmd, hhbm, hcores, fun j _ => congrArg (·[j]) held, dropped, fun _ => poisoned,
          fun _ _ => ⟨fun _ => ⟨rfl, rfl, held⟩, nofun, nofun⟩⟩
      | table x =>
        have out : s.walked k m a i = _ := State.walked_table hw hd hb hs
        obtain ⟨hcmd, hhbm, hcores⟩ := kept (u := s.holdEntry k w e) (m' := (m.entryRead i).walks ⟨w.va, w.level + 1, x⟩ s.now) rfl rfl rfl
          (.refl ..)
        refine ⟨_, _, step.trans (congrArg _ out), hcmd, hhbm, hcores, fun j hj => others hj, dropped, fun _ => poisoned,
          fun _ _ => ⟨nofun, fun y hy => ?_, nofun⟩⟩
        cases hy
        refine ⟨rfl, (congrArg (Site.entry · sp w.va w.level) own).trans (Site.entry_hold ..), _, rfl, rfl, rfl, rfl, rfl, fun _ => ⟨?_, rfl⟩⟩
        rw [← bit]
        rfl
      | leaf =>
        have out : s.walked k m a i = _ := State.walked_leaf hw hd hb hs
        obtain ⟨hcmd, hhbm, hcores⟩ := kept (u := s.holdEntry k w e) (m' := m.entryRead i) rfl rfl rfl (.later ..)
        have isLeaf := ((seenAt_eq_leaf_iff w.level e).1 hs).2.1
        exact ⟨_, _, step.trans (congrArg _ out), hcmd, hhbm, hcores, fun j hj => others hj, dropped, fun _ => poisoned,
          fun _ _ => ⟨nofun, nofun, fun _ => ⟨rfl, (congrArg (Site.held · sp w.va) own).trans (Site.held_hold isLeaf), number ▸ rfl⟩⟩⟩

end Sys2Proof.Machine
end

section
/-! PROOFS. The slots of the calendar (R188 to R191, R194 to R197, R201). -/

namespace Sys2Proof.Machine

/-- Settles O47: a slot serves the one atom that waits, or what a peer writes; a reserved slot closes a bank and refreshes a row. -/
theorem channelSteps : Obligations.ChannelSteps := by
  unfold Obligations.ChannelSteps
  intro s ch slot f d at_ own asleep
  refine ⟨fun harg hawake hnone => ?inbox, fun harg hasleep => ?asleep, fun x m harg hawake hown hothers hslips hqueue hm ha => ?served,
    fun harg => ?refresh, fun harg => ?writeback, fun harg => ?sleep⟩
  case inbox =>
    have free : exec .atomService s = .next (s.serveInbox ch) := exec_atomService_free harg hawake hnone
    refine ⟨fun h => free.trans (congrArg _ (State.serveInbox_none h)), fun x hx => ?_⟩
    intro held
    refine ⟨fun hh => ?_, fun hh => ?_⟩
    · exact free.trans (congrArg _ ((State.serveInbox_some hx).trans (if_pos hh)))
    · obtain ⟨hinbox, hanswer, hcores, hhbm⟩ := s.draw.serveInbound_spec x
      have chan : x.chan = ch := by simpa using List.find?_some hx
      refine ⟨_, free.trans (congrArg _ ((State.serveInbox_some hx).trans (if_neg hh))), hinbox, hanswer, hcores, hhbm.trans ?_⟩
      rw [chan]
      rfl
  case asleep =>
    obtain ⟨l, t, out, ht⟩ := exec_atomService_asleep harg hasleep
    obtain ⟨hhbm, hcores⟩ := State.foldl_slip false l s
    obtain rfl | ⟨n, e, rfl⟩ := ht
    · exact ⟨_, out, hhbm, hcores⟩
    · exact ⟨_, out, hhbm, hcores⟩
  case served =>
    have out : exec .atomService s = .next (s.draw.serve x) := exec_atomService_sole harg hawake hown hothers hslips hqueue
    obtain ⟨hcore, hchan, -⟩ := State.mem_claims (hown ▸ List.mem_singleton_self x)
    cases hw : x.atom.write with
    | true =>
      obtain ⟨m', hcmd, hsame, hserved, hhbm⟩ := State.serve_write (s := s.draw) hcore hm ha hw
      exact ⟨_, m', out, hcmd, hsame, fun _ => ⟨hserved, hhbm⟩, nofun⟩
    | false =>
      obtain ⟨m', hcmd, hsame, hhbm, hserved, hdata, hwriteback, hagenda⟩ := State.serve_read (s := s.draw) hcore hchan hm ha hw
      exact ⟨_, m', out, hcmd, hsame, nofun, fun _ => ⟨hhbm, hserved, hdata, hwriteback, hagenda⟩⟩
  case refresh =>
    intro bank
    have row := s.rowChange_closeBank ch bank
    have opened := s.opened_closeBank ch bank
    have counts {key : Nat} (h : pairGet d.opened bank = some key) := State.counts_closeBank h
    cases hq : d.queue with
    | nil => exact ⟨_, exec_refreshSlot_none harg hq, row.hbm, row.cores, opened, nofun, fun key h _ => counts h⟩
    | cons key rest =>
      have kept : ((s.closeBank ch bank).setDram (((s.closeBank ch bank).dramOf ch).refreshed key)).dramOf ch = _ :=
        State.dramOf_setDram _ (State.chan_dramOf _ ch)
      refine ⟨_, exec_refreshSlot_cons harg hq, row.hbm, row.cores, (congrArg Dram.opened kept).trans opened,
        fun k r hk => ?_, fun k h hk => ?_⟩
      · cases hk
        refine ⟨(congrArg (pairGet ·.counts key) kept).trans (pairGet_filter_self ..), ?_⟩
        have queue := s.queue_closeBank ch bank
        rw [hq] at queue
        have first : (((s.closeBank ch bank).setDram (((s.closeBank ch bank).dramOf ch).refreshed key)).dramOf ch).queue =
          ((s.closeBank ch bank).dramOf ch).queue.erase key := congrArg Dram.queue kept
        obtain queue | ⟨j, queue⟩ := queue
        · exact .inl (first.trans (by rw [queue, List.erase_cons_head]))
        · exact .inr ⟨j, first.trans (by rw [queue, List.cons_append, List.erase_cons_head])⟩
      · have other : k ≠ key := fun e => hk (by rw [e]; rfl)
        exact (congrArg (pairGet ·.counts k) kept).trans ((pairGet_filter_ne _ other).trans (counts h))
  case writeback =>
    exact ⟨exec_eccWriteback_none harg, fun w hw => exec_eccWriteback_some harg hw⟩
  case sleep =>
    refine ⟨exec_selfRefreshEntry_awaited harg, fun ha hn => (exec_selfRefreshEntry_quiet harg ha).trans (congrArg _ (if_pos hn)),
      fun ha hn => (exec_selfRefreshEntry_quiet harg ha).trans (congrArg _ (if_neg (Nat.not_lt.2 hn))), ?_⟩
    change execSelfRefreshExit s = _
    rw [execSelfRefreshExit, harg]

end Sys2Proof.Machine
end

section
/-! PROOFS. Weir operations (R197, R245 to R247, R347). -/

namespace Sys2Proof.Machine

section
variable {s : State} {u : Task} {e : EffCmd} {tag : TagId} (hs : s.sender s.arg = some (u, e)) (ht : e.tag = some tag)
  (hv : LocalVar e.var) (hu : s.taskOf u.tid = some u) (hq : ∀ x ∈ s.sems, x.var ≠ e.var)
include hs ht hv hu hq

/-- On a variable that nobody waits on, a command that does not wait leaves its value and answers. -/
theorem weirOperation_alone (hk : e.kind ≠ .synWait) (hb : e.kind ≠ .synBar) :
    exec .weirOperation s = .next ((s.withSync (waySet s.sync e.var (weirLeft e (s.syncGet e.var)))).answer u tag e.b.toNat
      (some (weirAnswer e (s.syncGet e.var))) stOk) := by
  have kept := State.weirKept_answer (s := s.withSync (waySet s.sync e.var (weirLeft e (s.syncGet e.var)))) hu tag e.b.toNat
    (some (weirAnswer e (s.syncGet e.var))) stOk
  rw [exec_weirOperation_local hs ht hv hk hb, State.grants_of_empty hv]
  refine State.queueOf_eq_nil ?_
  rw [kept.sems]
  exact hq
omit hs ht hv hu in
/-- There one who joins the queue is its first. -/
theorem first_of_joined : (s.withSems (s.sems ++ [e.waiter u tag])).sems.find? (·.var == e.var) = some (e.waiter u tag) :=
  find_append_singleton (fun x hx => beq_eq_false_iff_ne.mpr (hq x hx)) (beq_self_eq_true e.var)
omit hu in
/-- A wait that is not covered joins the queue. -/
theorem weirOperation_waits (hk : e.kind = .synWait) (ho : u.stand = .onCore) (h : (s.syncGet e.var).toInt < e.c.toNat) :
    exec .weirOperation s = .next (s.withSems (s.sems ++ [e.waiter u tag])) := by
  rw [State.syncGet_local hv] at h
  rw [exec_weirOperation_wait hs ht hv hk ho, State.grants_local hv]
  exact congrArg Host.Outcome.next (State.grant_of_short (w := e.waiter u tag) hv (first_of_joined hq) h _)
/-- One that is covered is granted at once. -/
theorem weirOperation_granted (hk : e.kind = .synWait) (ho : u.stand = .onCore) (h : (e.c.toNat : Int) ≤ (s.syncGet e.var).toInt) :
    let v := s.syncGet e.var - BitVec.ofNat 64 e.c.toNat
    exec .weirOperation s = .next ((s.withSync (waySet s.sync e.var v)).answer u tag e.b.toNat (some v) stOk) := by
  intro v
  have left : (s.sems ++ [e.waiter u tag]).erase (e.waiter u tag) = s.sems := by
    rw [List.erase_append_right _ fun hw => hq _ hw rfl, List.erase_cons_head, List.append_nil]
  have value : v = wayGet s.sync e.var - BitVec.ofNat 64 e.c.toNat := by rw [← State.syncGet_local hv]
  have grant : (s.withSems (s.sems ++ [e.waiter u tag])).grantTo (e.waiter u tag) =
      (s.withSync (waySet s.sync e.var v)).answer u tag e.b.toNat (some v) stOk := by
    have asked : (s.withSems (s.sems ++ [e.waiter u tag])).taskOf (e.waiter u tag).tid = some u := hu
    rw [State.grantTo_some asked, State.sems_withSems, left, State.withSems_back, value]
    rfl
  have kept := State.weirKept_answer (s := s.withSync (waySet s.sync e.var v)) hu tag e.b.toNat (some v) stOk
  have turns : (s.withSems (s.sems ++ [e.waiter u tag])).sems.length = s.sems.length + 1 := List.length_append
  rw [State.syncGet_local hv] at h
  rw [exec_weirOperation_wait hs ht hv hk ho, State.grants_local hv, turns]
  refine congrArg Host.Outcome.next ((State.grant_of_covered (w := e.waiter u tag) hv (first_of_joined hq) h _).trans ?_)
  rw [grant]
  refine State.grant_of_empty (State.queueOf_eq_nil ?_) _
  rw [kept.sems]
  exact hq
omit hu in
theorem weirOperation_arrives (hk : e.kind = .synBar) (ho : u.stand = .onCore)
    (h : (((s.syncGet e.var).extractLsb' 0 32).toNat + 1) % 2 ^ 32 < e.c.toNat) :
    let v := s.syncGet e.var
    exec .weirOperation s = .next ((s.withSync (waySet s.sync e.var
      (BitVec.ofNat 64 ((v.extractLsb' 32 32).toNat * 2 ^ 32 + ((v.extractLsb' 0 32).toNat + 1) % 2 ^ 32)))).withBars
      (s.bars ++ [{ e.waiter u tag with n := (v.extractLsb' 0 32).toNat }])) := by
  intro v
  rw [exec_weirOperation_barrier hs ht hv hk ho, State.arrive_stays (w := ⟨e.var, u.tid, tag, e.b.toNat, 0⟩) hv h]
  exact congrArg Host.Outcome.next (State.grants_of_empty hv (State.queueOf_eq_nil hq))
omit hu in
theorem weirOperation_fills (hk : e.kind = .synBar) (ho : u.stand = .onCore)
    (h : e.c.toNat ≤ (((s.syncGet e.var).extractLsb' 0 32).toNat + 1) % 2 ^ 32) :
    ∃ t, exec .weirOperation s = .next t ∧ t.sync = waySet s.sync e.var
      (BitVec.ofNat 64 ((((s.syncGet e.var).extractLsb' 32 32).toNat + 1) % 2 ^ 32 * 2 ^ 32)) ∧
      t.bars = s.bars.filter (·.var != e.var) := by
  obtain ⟨sync, bars, sems⟩ := State.arrive_fills (w := ⟨e.var, u.tid, tag, e.b.toNat, 0⟩) hv h
  refine ⟨_, ?_, sync, bars⟩
  rw [exec_weirOperation_barrier hs ht hv hk ho, State.grants_of_empty hv]
  refine State.queueOf_eq_nil ?_
  rw [sems]
  exact hq
end

/-! ### The queue -/

/-- Those who wait behind a command, and the variables as it leaves them. -/
def EffCmd.queue (e : EffCmd) (s : State) (u : Task) (tag : TagId) : List Waiter :=
  (s.sems ++ if e.kind == .synWait then [e.waiter u tag] else []).filter (·.var == e.var)
def EffCmd.leaves (e : EffCmd) (s : State) : List (Nat × Word) :=
  if e.kind == .synWait then s.sync else waySet s.sync e.var (weirLeft e (s.syncGet e.var))

/-- A command of those that grant takes effect, in a state of its own, and then those who wait are granted. -/
theorem weirOperation_grants {s : State} {u : Task} {e : EffCmd} {tag : TagId} (hs : s.sender s.arg = some (u, e)) (ht : e.tag = some tag)
    (hv : LocalVar e.var) (hu : s.taskOf u.tid = some u) (ho : u.stand = .onCore) (hb : e.kind ≠ .synBar) :
    ∃ (s0 t : State) (n : Nat), exec .weirOperation s = .next t ∧ State.Grants e.var s0 t n ∧ s0.sync = e.leaves s ∧
      s0.queueOf e.var = e.queue s u tag ∧ s0.sems.filter (·.var != e.var) = s.sems.filter (·.var != e.var) ∧
      (∀ tid q, s.taskOf tid = some q → q.stand = .onCore → s0.taskOf tid = some q) ∧
      (e.kind ≠ .synWait → ∃ y ∈ s0.agenda, y.2.bare = .dev .weirOperation
        (.reply u.tid u.born tag e.b.toNat (some (weirAnswer e (s.syncGet e.var))) 0 .none)) := by
  by_cases hk : e.kind = .synWait
  · obtain ⟨n, hn⟩ := State.grants_grants hv (s.withSems (s.sems ++ [e.waiter u tag]))
    refine ⟨_, _, n, exec_weirOperation_wait hs ht hv hk ho, hn, ?_, ?_, ?_, fun _ _ h _ => h, fun h => absurd hk h⟩
    · rw [EffCmd.leaves, hk]
      rfl
    · rw [EffCmd.queue, hk]
      rfl
    · simp [EffCmd.waiter]
  · have kept := State.weirKept_answer (s := s.withSync (waySet s.sync e.var (weirLeft e (s.syncGet e.var)))) hu tag e.b.toNat
      (some (weirAnswer e (s.syncGet e.var))) stOk
    have plain : (e.kind == .synWait) = false := beq_eq_false_iff_ne.mpr hk
    obtain ⟨n, hn⟩ := State.grants_grants hv ((s.withSync (waySet s.sync e.var (weirLeft e (s.syncGet e.var)))).answer u tag e.b.toNat
      (some (weirAnswer e (s.syncGet e.var))) stOk)
    refine ⟨_, _, n, exec_weirOperation_local hs ht hv hk hb, hn, ?_, ?_, ?_, kept.tasks, fun _ => State.mem_agenda_answer ho ..⟩
    · rw [kept.sync, EffCmd.leaves, plain]
      rfl
    · rw [State.queueOf, kept.sems, EffCmd.queue, plain]
      simp
    · rw [kept.sems]
      rfl

/-- Settles O41: a command acts on its variable and answers, and those who wait are granted in their order. -/
theorem weirSteps : Obligations.WeirSteps := by
  unfold Obligations.WeirSteps
  intro s
  refine ⟨fun hs harg => ?nobody, fun tid born tag addr word st up harg => ⟨fun u hu hb => ?reply, fun h => ?late⟩,
    fun u tag addr w st ho => State.answer_onCore ho s tag addr w st, fun e u tag hs hu ht => ?command⟩
  case nobody =>
    rw [show exec .weirOperation s = execWeirOperation s from rfl, execWeirOperation, State.orReply_of_ne harg, hs]
  case reply =>
    refine ⟨State.orReply_reply harg hu hb _, State.orReply_reply harg hu hb _, State.orReply_reply harg hu hb _, fun ho => ?_⟩
    obtain ⟨done, sent, frame⟩ := State.complete_onCore ho s tag addr word st up
    exact ⟨done, sent, frame.hbm, frame.cores⟩
  case late => exact State.orReply_late harg h _
  case command =>
    refine ⟨exec_weirOperation_missing hs ht, exec_weirOperation_poisoned hs ht, fun h hp ho hk => ?withdrawn, fun hl hq => ?alone,
      fun hl ho hm => ?queue⟩
    case withdrawn =>
      obtain ⟨t, eq⟩ := exec_weirOperation_withdrawn hs h hp hk ho
      exact ⟨_, eq, t.withdraw_waits u.tid stCancelled⟩
    case alone =>
      have hv : LocalVar e.var := State.syncAt_eq_local.mp hl
      let v := s.syncGet e.var
      have atomic {k : EffKind} {left : Word} (hk : e.kind = k) (hw : k ≠ .synWait) (hb : k ≠ .synBar) (hp : k ≠ .synPost)
          (hl : weirLeft e v = left) :
          exec .weirOperation s = .next ((s.withSync (waySet s.sync e.var left)).answer u tag e.b.toNat (some v) stOk) := by
        rw [weirOperation_alone hs ht hv hu hq (hk ▸ hw) (hk ▸ hb), weirAnswer_atomic hk hp, hl]
      refine ⟨fun hk => ?add, fun hk => ?cas, fun hk => ?min, fun hk => ?max, fun hk => ?xch, fun hk => ?ld, fun hk => ?post,
        fun ho => ⟨fun hk h => weirOperation_waits hs ht hv hq hk ho h, fun hk h => weirOperation_granted hs ht hv hu hq hk ho h,
          fun hk h => weirOperation_arrives hs ht hv hq hk ho h, fun hk h => weirOperation_fills hs ht hv hq hk ho h⟩⟩
      case add => exact atomic hk nofun nofun nofun (weirLeft_add v hk)
      case cas => exact atomic hk nofun nofun nofun (weirLeft_cas v hk)
      case min => exact atomic hk nofun nofun nofun (weirLeft_min v hk)
      case max => exact atomic hk nofun nofun nofun (weirLeft_max v hk)
      case xch => exact atomic hk nofun nofun nofun (weirLeft_xch v hk)
      case ld => exact atomic hk nofun nofun nofun (weirLeft_ld v hk)
      case post =>
        have done := weirOperation_alone hs ht hv hu hq (by simp [hk]) (by simp [hk])
        rw [weirAnswer_post hk, weirLeft_post _ hk] at done
        exact done
    case queue =>
      have hv : LocalVar e.var := State.syncAt_eq_local.mp hl
      have hb : e.kind ≠ .synBar := by
        intro hk
        rw [hk] at hm
        exact absurd hm (by decide)
      obtain ⟨s0, t, n, out, grants, sync, hqueue, others, tasks, answered⟩ := weirOperation_grants hs ht hv hu ho hb
      intro waits left queue l0 takes after
      have value : weirLeft e (s.syncGet e.var) = left := weirLeft_eq ..
      rw [EffCmd.leaves, value] at sync
      have passed (i : Nat) : ((s0.queueOf e.var).take i).foldl (takeWait e.var) s0.sync = after i := by
        rw [sync, hqueue]
        rfl
      have short := grants.short
      have granted := grants.granted
      simp only [passed] at granted
      rw [hqueue] at short granted
      refine ⟨n, t, out, grants.sync.trans (passed n), grants.queue.trans (congrArg _ hqueue), grants.others.trans others, short,
        fun i x hi hx => ?_, fun hw => ?_⟩
      · obtain ⟨covered, reply⟩ := granted i x hi hx
        exact ⟨covered, fun q hq on => reply q (tasks x.tid q hq on) on⟩
      · obtain ⟨y, hy, hb⟩ := answered (beq_eq_false_iff_ne.mp hw)
        rw [weirAnswer, value] at hb
        exact ⟨y, grants.agenda hy, hb⟩

end Sys2Proof.Machine
end
